-- ==== Sys2Proof/Word.lean ====
section
/-! DEFINITION. The word types of the Pyriz machine (R6, R294) and their plainest arithmetic.
Everything a test could show wrong (bit fields, sign extension, byte order) stands in
`Sys2Proof/Machine/Bits.lean`, where a repair may mend it. -/

namespace Sys2Proof

/-- A general or address register's contents, and a system register's value (R294). -/
abbrev Word := BitVec 64

/-- One byte of storage, the unit of a location (R155). -/
abbrev Byte := BitVec 8

/-- An instruction word (R298). -/
abbrev InsnWord := BitVec 32

/-- A program counter: 51 bits (R294). -/
abbrev Pc := BitVec 51

/-- A containment tag: owner 23:16, partition 15:13, context number 12:0 (R265). -/
abbrev Tag := BitVec 24

/-- A vector register's contents (R294). -/
abbrev VWord := BitVec 2048

end Sys2Proof
end

