-- ==== Sys2Proof/Operand.lean ====
section
/-! DEFINITION. The operand forms of the instructions and the requests that the events carry: closed
sets of names and plain records, so that an instruction term holds no raw encoding. -/

namespace Sys2Proof

/-! ### Register numbers (R294) -/

/-- `g0`–`g63`. -/
abbrev GReg := Fin 64
/-- `a0`–`a15`. -/
abbrev AReg := Fin 16
/-- `p0`–`p7`. -/
abbrev PReg := Fin 8
/-- `k0`–`k7`. -/
abbrev KReg := Fin 8
/-- `v0`–`v31`. -/
abbrev VReg := Fin 32
/-- `z0`–`z3`. -/
abbrev ZReg := Fin 4
/-- `l0`–`l1`. -/
abbrev LReg := Fin 2

/-! ### Closed sets of names -/

/-- The condition codes of CMP and CMPI (R299). -/
inductive Cond where
  | eq | ne | lt | ge | ltu | geu
  deriving DecidableEq, Repr

/-- The register formats f of F-V (R299, R48). -/
inductive VFmt where
  | fp64 | fp32 | bf16 | fp16 | i64 | i32 | i16 | i8
  deriving DecidableEq, Repr

/-- MULH's three products (R302). -/
inductive MulhMode where
  | ss | uu | su
  deriving DecidableEq, Repr

/-- The sizes and extensions of LD (R374). -/
inductive LdSize where
  | b | bu | h | hu | w | wu | d
  deriving DecidableEq, Repr

/-- The sizes of ST (R405). -/
inductive StSize where
  | b | h | w | d
  deriving DecidableEq, Repr

/-- The scopes of R157. -/
inductive Scope where
  | thr | tile | col | dev | fab
  deriving DecidableEq, Repr

/-- The operations of AMO and RED (R191); RED has no `swap`. -/
inductive AtomOp where
  | add | and | or | xor | min | max | minu | maxu | swap
  deriving DecidableEq, Repr

/-- The formats of ticketed updates (R179). -/
inductive TfFmt where
  | fp64 | fp32 | fp16x2 | bf16x2
  deriving DecidableEq, Repr

/-- The three ticketed operations (R179). -/
inductive TfOp where
  | add | min | max
  deriving DecidableEq, Repr

/-- The operations of VRED and VSCAN (R305). -/
inductive RedOp where
  | add | min | max
  deriving DecidableEq, Repr

/-- The conditions of VCMP (R429). -/
inductive VCond where
  | eq | ne | lt | le
  deriving DecidableEq, Repr

/-- The rounding modes 0–6 of R203. -/
inductive RMode where
  | rne | rtz | rdn | rup | sr | rnesat | srsat
  deriving DecidableEq, Repr

/-- The kinds of barrier wire (R232). -/
inductive BarKind where
  | x | y | z | plane | part
  deriving DecidableEq, Repr

/-- The axes of MROT (R390). -/
inductive Axis where
  | x | y | z
  deriving DecidableEq, Repr

/-- The scopes of TLBINV (R139). -/
inductive TlbScope where
  | tile | col | dev
  deriving DecidableEq, Repr

/-- The kinds of TLBINV (R139). -/
inductive TlbKind where
  | page | owner | win | all
  deriving DecidableEq, Repr

/-- The full/empty operations that reach a home (R169). -/
inductive FeOp where
  | take | fill | readf | feempty | fefull | feprobe
  deriving DecidableEq, Repr

/-- The privilege levels, from lowest to highest (R3). -/
inductive Priv where
  | task | supervisor | steward
  deriving DecidableEq, Repr

/-- The kinds of access that a translation serves (R145 KIND). -/
inductive AccKind where
  | load | store | fetch | atomic | footprint | scale | graph
  deriving DecidableEq, Repr

/-! ### Names of machine parts -/

/-- A thread: the physical tile's number x + 16y + 256z (R12) and the slot 0–15 (R38). -/
structure ThreadId where
  tile : Nat
  slot : Nat
  deriving DecidableEq, Repr

/-- The home of a location (R155, R176). -/
inductive Home where
  | bank (tile : Nat)
  | kettle (unit : Nat)
  | remote (window : Nat)
  deriving DecidableEq, Repr

/-- A structure instance that counts events (R274). -/
inductive Unit_ where
  | bank (tile : Nat)
  | core (tile : Nat)
  | vectorUnit (tile : Nat)
  | matrixUnit (tile : Nat)
  | router (tile : Nat)
  | agent (cluster : Nat)
  | kettle (unit : Nat)
  | die (layer : Nat)
  /-- A link, whose correctable errors are counted apart (R326). -/
  | link (link : Nat)
  deriving DecidableEq, Repr

/-! ### Requests in flight -/

/-- Where one lane of an element access reads: the cells of its bytes from the lowest address up,
whether an E2M1 element is the high nibble, and the cell of its block's scale byte (R125, R377); `va` and `sva` are
the addresses of the element and of the scale byte. -/
structure LaneSrc where
  lane  : Nat
  cells : List Nat
  hi    : Bool
  scale : Option Nat
  va    : Nat
  sva   : Nat
  deriving DecidableEq, Repr

/-- What a load writes when its data returns (R374–R378). -/
inductive LoadDest where
  | raw (d : GReg) (sz : LdSize) (cells : List Nat)
  | elem (d : GReg) (f : VFmt) (fmt : Nat) (src : LaneSrc)
  | lanes (vd : VReg) (f : VFmt) (fmt : Nat) (srcs : List LaneSrc)
  deriving DecidableEq, Repr

/-- A line that a path-4 load fills (R56): the line's number at its home, the virtual address it is filled for,
and the size of its page and the device it lies at, by which a TLBINV finds it (R57). -/
structure RocFill where
  line : Nat
  va   : Nat
  log  : Nat
  dev  : Nat
  deriving DecidableEq, Repr

/-- A load on its way (R156): the thread, the path, the pointer as issued and what it writes.
`remote` names the import window of a load that leaves the device (R247). -/
structure LoadReq where
  tid    : ThreadId
  path   : Nat
  /-- The path of the scale pointer (R125). -/
  spath  : Nat
  ptr    : Word
  dest   : LoadDest
  remote : Option Nat
  /-- Lines of the read-only cache that serve it or that it fills. -/
  fills  : List RocFill
  /-- What its own thread's buffered path-5 stores hold of its bytes at issue: value and written nibbles (R156). -/
  own    : List (Nat × Byte × BitVec 2)
  /-- The number of its issue, and whether its thread has gone on while it is under way (R42, R374). -/
  ord    : Nat
  gone   : Bool
  /-- Bytes it has read already, since an error has met their words (assumption 12). -/
  got    : List (Nat × Byte)
  deriving DecidableEq, Repr

/-- A posted store on its way (R163): the bytes by cell, the nibble it is confined to (E2M1), and
what a fault log entry needs (R193). -/
structure StoreReq where
  tid    : ThreadId
  tag    : Tag
  path   : Nat
  ptr    : Word
  insn   : InsnWord
  cells  : List (Nat × Byte)
  nib    : Option Bool
  opnd   : Word
  remote : Option Nat
  /-- The other slots whose stores a drained buffer line combines (R129). -/
  slots  : List Nat
  /-- The flags of the instruction whose thread is held until the home has accepted or refused it (R163). -/
  waited : Option (BitVec 5)
  deriving DecidableEq, Repr

/-- A full/empty operation on its way to its home (R363). -/
structure FeReq where
  tid  : ThreadId
  tag  : Tag
  path : Nat
  ptr  : Word
  cell : Nat
  op   : FeOp
  reg  : GReg
  data : Word
  deriving DecidableEq, Repr

/-- The operation of an atomic context (R192). -/
inductive GuestFn where
  | amo (op : AtomOp)
  | cas
  | cas128
  deriving DecidableEq, Repr

/-- An atomic context or a remote-update thread (R190, R398). `x0`,`x1` are the operand or the new
value, `e0`,`e1` the expected value; `ret` is false for RED. -/
structure GuestOp where
  tid    : ThreadId
  tag    : Tag
  path   : Nat
  ptr    : Word
  insn   : InsnWord
  home   : Home
  cell   : Nat
  bytes  : Nat
  fn     : GuestFn
  x0     : Word
  x1     : Word
  e0     : Word
  e1     : Word
  ret    : Bool
  dest   : GReg
  /-- The number of its sending, by which a later fence is told from an earlier (R161). -/
  ord    : Nat
  deriving DecidableEq, Repr

/-- A ticketed update on its way (R417). -/
structure TkUpd where
  tid   : ThreadId
  tag   : Tag
  path  : Nat
  ptr   : Word
  insn  : InsnWord
  home  : Home
  cell  : Nat
  op    : TfOp
  fmt   : TfFmt
  v     : Word
  t     : Word
  ret   : Bool
  dest  : GReg
  /-- The number of its sending, by which a later fence is told from an earlier (R161). -/
  ord   : Nat
  deriving DecidableEq, Repr

/-- What a home answers to an atomic context or a ticketed update (R180, R344). -/
inductive Answer where
  | value (v : Word)
  | pair (lo hi : Word)
  | applied (v : Word) (flags : BitVec 5)
  | retire
  | refused (home : Home)
  | fault (cause : Nat) (tval : Word)
  | poison (tag : Tag) (addr : Word)
  deriving DecidableEq, Repr

/-- A SPAWN on its way (R87, R402). Tiles are physical numbers; `srcId` is the sender's tile ID, `dst0` the
tile it was sent to, `ord` the number of the sending, and `root`, `launch`, `priv` the caller's. -/
structure SpawnMsg where
  dst    : Nat
  dst0   : Nat
  ord    : Nat
  root   : Nat
  launch : Nat
  priv   : Priv
  src    : Nat
  srcId  : Word
  entry  : Word
  g8     : Word
  g9     : Word
  g10    : Word
  g11    : Word
  caller : Tag
  rtag   : Nat
  prio   : Nat
  seq    : Nat
  deriving DecidableEq, Repr

/-- The kinds of message (R227). -/
inductive MsgKind where
  | send | sendv | reply
  deriving DecidableEq, Repr

/-- A message (R227). A scalar payload stands in bits 255:0. `dstId` is the destination tile ID as
sent, and `insn` the sending word, both for an undeliverable return (R193). `dst0` is the tile it was sent to,
`ord` the number of the sending, `root` the sender's launch root (R95, R230). -/
structure Message where
  dst     : Nat
  dst0    : Nat
  ord     : Nat
  root    : Nat
  src     : Nat
  srcId   : Word
  dstId   : Word
  tag     : Nat
  kind    : MsgKind
  dctx    : Nat
  ctag    : Tag
  seq     : Nat
  payload : VWord
  insn    : InsnWord
  deriving DecidableEq, Repr

/-- A page walk asked of a cluster agent (R131, R133). -/
structure WalkReq where
  tid  : ThreadId
  va   : Nat
  path : Nat
  kind : AccKind
  deriving DecidableEq, Repr

/-- Where an uncorrectable or correctable error strikes (R263, R266). -/
inductive ErrSite where
  | word (cell : Nat)
  | registerBank (t : ThreadId)
  | vectorUnit (t : ThreadId)
  | matrixOperand (tile : Nat) (group : Nat)
  | matrixLoad (tile : Nat)
  | tlb (tile : Nat)
  | rocLine (tile : Nat) (line : Nat)
  | packet (tile : Nat) (id : Nat)
  | workEntry (tile : Nat) (index : Nat)
  | message (tile : Nat) (index : Nat)
  | caddy (home : Home) (index : Nat)
  | cursor (home : Home) (cell : Nat)
  | windowSlot (home : Home) (window : Nat)
  | kettleBuffer (unit : Nat)
  | kettleLine (unit : Nat)
  | kettleEntry (unit : Nat)
  /-- An entry of a cluster's second-level TLB, of a dispenser's queue, of the fault queue of a cluster agent, of a home's
  guest slots and guest queue, and of the queue of a vector or a matrix unit. -/
  | l2Tlb (cluster index : Nat)
  | dispenserEntry (part index : Nat)
  | faultEntry (part index : Nat)
  | guestEntry (home : Home) (index : Nat)
  | unitEntry (tile : Nat) (matrix : Bool) (index : Nat)
  /-- An entry of the load-value queue of a leading twin (R46, R277). -/
  | loadValue (t : ThreadId)
  /-- The tag of such an entry cannot be read. -/
  | tagOf (site : ErrSite)
  deriving DecidableEq, Repr

/-- What a die's four temperature sensors show, the clock that its loop settles on and the power it draws (R323, R324). -/
structure SensorReading where
  die    : Nat
  temps  : Vector Nat 4
  mhz    : Nat
  watts  : Nat
  deriving DecidableEq, Repr

/-- What the sensors of a coolant gap show (R323): gap k lies above pair k. -/
structure GapReading where
  gap    : Nat
  inlet  : Nat
  outlet : Nat
  flowMl : Nat
  deriving DecidableEq, Repr

/-- The body of a configuration image (R329). The manual gives its contents and not its layout, so
the meaning stands here beside the image's bytes (assumption 8). -/
structure CfgBody where
  roles    : BitVec 16
  parts    : List (Nat × Nat)
  retired  : List Nat
  boxed    : List Nat
  liftOwn  : List (BitVec 8)
  liftCtx  : List Nat
  routes   : List (Nat × Nat)
  device   : Nat
  deriving DecidableEq, Repr

/-- An image in a flash slot (R329). -/
structure Image where
  kind   : Nat
  seq    : Nat
  signer : BitVec 256
  bytes  : List Byte
  sig    : List Byte
  cfg    : CfgBody
  deriving DecidableEq, Repr

/-- An access by another device through an export window (R247). -/
inductive RemoteOp where
  | load (bytes : Nat)
  | store (data : List Byte)
  | guest (bytes : Nat) (fn : GuestFn) (x0 x1 e0 e1 : Word)
  | ticket (op : TfOp) (fmt : TfFmt) (v t : Word)
  deriving DecidableEq, Repr

/-- A request through an export window (R247). -/
structure RemoteReq where
  part   : Nat
  exp    : Nat
  dev    : Nat
  owner  : BitVec 8
  offset : Nat
  op     : RemoteOp
  deriving DecidableEq, Repr

/-- A frame at an optical port (R243). -/
structure Frame where
  port    : Nat
  owner   : BitVec 8
  src     : Nat
  dst     : Nat
  piste   : Nat
  seq     : Nat
  epoch   : Bool
  payload : List Byte
  mac     : BitVec 64
  request : Option RemoteReq
  deriving DecidableEq, Repr

/-- A host access over a Lift queue (R250). -/
structure HostAccess where
  queue : Nat
  va    : Nat
  read  : Nat
  data  : List Byte
  deriving DecidableEq, Repr

/-- A launch descriptor (R119): its eight dwords, in ascending offset. -/
structure LaunchDesc where
  d0 : Word
  d1 : Word
  d2 : Word
  d3 : Word
  d4 : Word
  d5 : Word
  d6 : Word
  d7 : Word
  deriving DecidableEq, Repr

/-- Why a fetch did not deliver an instruction (R298, R301): the cause code and trap value, or a
page that must be walked for. -/
inductive FetchBad where
  | trap (cause : Nat) (tval : Word)
  | miss (va : Nat)
  | pageFault (va qual level pte : Nat)
  deriving DecidableEq, Repr

end Sys2Proof
end

