-- ==== Sys2Proof/Syntax.lean ====
section
/-! DEFINITION. The instructions and events of the machine: one constructor per row of the opcode
table. The first 166 are instruction words (R299 to R314); the others are the events of the device,
which have no word and are handled between instructions, their arguments naming what they act on. -/

namespace Sys2Proof

/-- One constructor per row of the opcode table. -/
inductive Instr where
  -- scalar (R302, R309)
  | add (d s t : GReg) (w : Bool)
  | sub (d s t : GReg) (w : Bool)
  | mul (d s t : GReg) (w : Bool)
  | mulh (d s t : GReg) (m : MulhMode)
  | div (d s t : GReg) (u : Bool)
  | rem (d s t : GReg) (u : Bool)
  | and (d s t : GReg)
  | or (d s t : GReg)
  | xor (d s t : GReg)
  | shl (d s t : GReg) (w : Bool)
  | shr (d s t : GReg) (w : Bool)
  | sar (d s t : GReg) (w : Bool)
  | min (d s t : GReg) (u : Bool)
  | max (d s t : GReg) (u : Bool)
  | clz (d s : GReg)
  | popc (d s : GReg)
  | sel (d : GReg) (p : PReg) (s t : GReg)
  | mov (d s : GReg)
  | addi (d s : GReg) (imm : BitVec 14)
  | andi (d s : GReg) (imm : BitVec 14)
  | ori (d s : GReg) (imm : BitVec 14)
  | xori (d s : GReg) (imm : BitVec 14)
  | shli (d s : GReg) (w : Bool) (n : BitVec 6)
  | shri (d s : GReg) (w : Bool) (n : BitVec 6)
  | sari (d s : GReg) (w : Bool) (n : BitVec 6)
  | lim (d : GReg) (imm : BitVec 14)
  | limh (d s : GReg) (imm : BitVec 14)
  | cmp (p : PReg) (c : Cond) (s t : GReg)
  | cmpi (p : PReg) (c : Cond) (s : GReg) (imm : BitVec 14)
  | plog (d a b : PReg) (tt : BitVec 4)
  /-- The prefix with the word that follows it (R301): the pair is one instruction. -/
  | ext (imm : BitVec 26) (w2 : InsnWord)
  | br (p : PReg) (n : Bool) (off : BitVec 22)
  | jal (d : GReg) (off : BitVec 20)
  | jr (d s : GReg) (imm : BitVec 14)
  -- address registers (R302, R126)
  | amk (d s : AReg) (t : GReg)
  | aadd (d s : AReg) (t : GReg)
  | aaddb (d s : AReg) (t : GReg)
  | asub (t : GReg) (d s : AReg)
  | afld (t : GReg) (s : AReg)
  | atag (d s : AReg) (t : GReg)
  | movag (t : GReg) (s : AReg)
  | movga (d : AReg) (t : GReg)
  | aaddi (d s : AReg) (imm : BitVec 18)
  -- loads and stores (R303, R310)
  | ld (d : GReg) (a : AReg) (sz : LdSize) (off : BitVec 13)
  | st (s : GReg) (a : AReg) (sz : StSize) (off : BitVec 13)
  | lde (d : GReg) (a : AReg) (f : VFmt) (off : BitVec 13)
  | ste (s : GReg) (a : AReg) (f : VFmt) (off : BitVec 13)
  | ldv (d : VReg) (a : AReg) (f : VFmt) (off : BitVec 13)
  | stv (s : VReg) (a : AReg) (f : VFmt) (off : BitVec 13)
  | ldvx (d : VReg) (a : AReg) (f : VFmt) (b : VReg) (k : KReg)
  | stvx (s : VReg) (a : AReg) (f : VFmt) (b : VReg) (k : KReg)
  -- full/empty, copies, barrier objects (R169, R171, R172)
  | take (d : GReg) (a : AReg) (off : BitVec 13)
  | fill (s : GReg) (a : AReg) (off : BitVec 13)
  | readf (d : GReg) (a : AReg) (off : BitVec 13)
  | feempty (a : AReg) (off : BitVec 13)
  | fefull (a : AReg) (off : BitVec 13)
  | feprobe (d : GReg) (a : AReg) (off : BitVec 13)
  | acopy (d s h b : AReg) (exp : Bool)
  | boinit (s : GReg) (a : AReg) (off : BitVec 13)
  | boexpect (s : GReg) (a : AReg) (off : BitVec 13)
  | boarrive (a : AReg) (off : BitVec 13)
  | bowait (d : GReg) (a : AReg) (off : BitVec 13)
  | botest (d : GReg) (a : AReg) (off : BitVec 13)
  | bostat (d : GReg) (a : AReg) (off : BitVec 13)
  -- messages and work (R228, R77)
  | send (s t : GReg)
  | sendv (s t : GReg) (v : VReg)
  | recv (d t : GReg)
  | recvv (v : VReg) (t : GReg)
  | recvt (d t s : GReg)
  | probe (d t : GReg)
  | reply (s t : GReg)
  | spawn (s t d : GReg)
  | waitwork (d : GReg)
  | start (d s t : GReg)
  | hjoin (d s : GReg)
  | hexit (s : GReg)
  | task (d s : GReg)
  | migrate (d s : GReg)
  -- synchronisation (R161, R304, R234, R174)
  | fence (scope : Scope) (mask : BitVec 8)
  | monarm (d s : GReg)
  | monwait (d s : GReg)
  | barw (kind : BarKind) (s : GReg)
  | barwt (kind : BarKind) (d s t : GReg)
  | cbsync (s : GReg)
  -- atomics, tickets and capabilities (R191, R179, R177, R165)
  | amo (op : AtomOp) (w32 : Bool) (sc : Scope) (d : GReg) (a : AReg) (t : GReg)
  | cas (w32 : Bool) (sc : Scope) (d : GReg) (a : AReg) (t : GReg)
  | cas128 (sc : Scope) (d : GReg) (a : AReg) (t : GReg)
  | tfadd (f : TfFmt) (d : GReg) (a : AReg) (v k : GReg)
  | tfmin (f : TfFmt) (d : GReg) (a : AReg) (v k : GReg)
  | tfmax (f : TfFmt) (d : GReg) (a : AReg) (v k : GReg)
  | tkopen (w8 : Bool) (d : GReg) (a : AReg) (t : GReg)
  | tkclose (ab : Bool) (d : GReg) (a : AReg)
  | tkskip (d : GReg) (a : AReg) (t : GReg)
  | tkdrain (d : GReg) (a : AReg)
  | tkstat (d : GReg) (a : AReg)
  | red (op : AtomOp) (w32 : Bool) (a : AReg) (t : GReg)
  | capgive (d : GReg) (a : AReg) (t : GReg)
  | captake (a : AReg) (t : GReg)
  | capq (d : GReg) (a : AReg)
  | capmode (atomic : Bool) (a : AReg) (t : GReg)
  -- vector unit (R305, R313)
  | vadd (f : VFmt) (d a b : VReg) (m : KReg)
  | vsub (f : VFmt) (d a b : VReg) (m : KReg)
  | vmul (f : VFmt) (d a b : VReg) (m : KReg)
  | vfma (f : VFmt) (d a b : VReg) (m : KReg)
  | vmin (f : VFmt) (d a b : VReg) (m : KReg)
  | vmax (f : VFmt) (d a b : VReg) (m : KReg)
  | vabs (f : VFmt) (d a : VReg) (m : KReg)
  | vneg (f : VFmt) (d a : VReg) (m : KReg)
  | vexp2 (f : VFmt) (d a : VReg) (m : KReg)
  | vrcp (f : VFmt) (d a : VReg) (m : KReg)
  | vrsq (f : VFmt) (d a : VReg) (m : KReg)
  | vlog2 (f : VFmt) (d a : VReg) (m : KReg)
  | vred (op : RedOp) (f : VFmt) (d a : VReg) (m : KReg)
  | vscan (op : RedOp) (f : VFmt) (d a : VReg) (m : KReg)
  | vcmp (c : VCond) (f : VFmt) (k : KReg) (a b : VReg) (m : KReg)
  | viadd (f : VFmt) (d a b : VReg) (m : KReg)
  | visub (f : VFmt) (d a b : VReg) (m : KReg)
  | vimul (f : VFmt) (d a b : VReg) (m : KReg)
  | vand (f : VFmt) (d a b : VReg) (m : KReg)
  | vor (f : VFmt) (d a b : VReg) (m : KReg)
  | vxor (f : VFmt) (d a b : VReg) (m : KReg)
  | vshl (f : VFmt) (d a b : VReg) (m : KReg)
  | vshr (f : VFmt) (d a b : VReg) (m : KReg)
  | vsar (f : VFmt) (d a b : VReg) (m : KReg)
  | vimin (f : VFmt) (d a b : VReg) (m : KReg)
  | vimax (f : VFmt) (d a b : VReg) (m : KReg)
  | vsel (f : VFmt) (d a b : VReg) (m : KReg)
  | vshuf (f : VFmt) (d a b : VReg) (m : KReg)
  | vbcast (f : VFmt) (d : VReg) (s : Fin 32) (m : KReg)
  | vmovg (f : VFmt) (d : Fin 32) (a : VReg) (i : Fin 32)
  | vlane (f : VFmt) (d : VReg) (s i : Fin 32)
  | vmask (f : VFmt) (k : KReg) (a : VReg)
  | vargx (f : VFmt) (d : Fin 32) (a : VReg) (isMax : Bool) (m : KReg)
  | vrng (d : VReg) (b s : Fin 32) (m : KReg)
  | vcvt (decode : Bool) (f : VFmt) (d a : VReg) (n : AReg) (rm : RMode)
  | vquant (f : VFmt) (d a : VReg) (n : AReg) (m : KReg)
  | vdeq (f : VFmt) (d a : VReg) (n : AReg) (m : KReg)
  -- matrix unit and Infuser (R306, R314)
  | mzero (fp32 : Bool) (z : ZReg)
  | mma (z : ZReg) (l : LReg) (a : AReg)
  | mldb (l : LReg) (a : AReg)
  | mrot (l : LReg) (x : Axis)
  | mstz (z : ZReg) (a : AReg)
  | mldz (z : ZReg) (a : AReg)
  | msub (x : Fin 4) (a : AReg) (g : GReg) (w : BitVec 6)
  | mpost (a : AReg) (g : GReg)
  | munsub (x : Fin 4)
  | mpois (g : GReg) (z : ZReg) (l : LReg)
  | mwait (x : Fin 4) (g : GReg)
  -- collectives, Kettle, system (R304, R314)
  | coll (a : AReg)
  | collwait (d : GReg) (a : AReg)
  | kcmd (d : GReg) (a : AReg) (t : GReg)
  | kstat (d : GReg) (a : AReg)
  | trap (n : BitVec 10)
  | sysr (d : GReg) (n : BitVec 10)
  | sysw (s : GReg) (n : BitVec 10)
  | sysx (d s : GReg) (n : BitVec 10)
  | tlbinv (s : GReg) (kind : TlbKind) (scope : TlbScope)
  | kill (d s : GReg)
  | sigrd (d : GReg) (n : BitVec 10)
  -- role change and holds (R28 to R33)
  | holdWireArrival (tile : Nat)
  | holdBegin (part : Nat)
  | holdRelease (part : Nat)
  /-- The packet with this number in the routers takes one hop (R36). -/
  | torusPacketHop (id : Nat)
  /-- The bank scrubber of a tile reads the line at this cell (R154). -/
  | scrubLine (tile : Nat) (line : Nat)
  -- completions and waits
  | vectorCompletion (tile : Nat)
  | matrixCompletion (tile : Nat)
  | lateFaultDelivery (t : ThreadId)
  | wakeArrival (t : ThreadId)
  | waitTimeout (t : ThreadId)
  | guestAdmit (tile : Nat)
  -- graphs and dispatch (R66 to R121)
  | nodePlacement (part : Nat)
  | taskStart (tile : Nat)
  | footprintResident (tile : Nat)
  | footprintPrefetch (tile : Nat)
  | predicateCheck (part : Nat) (node : Nat)
  | successorRelease (part : Nat) (node : Nat)
  | graphReportWrite (part : Nat)
  | delivNodeDelivery (tile : Nat) (node : Nat)
  | spawnArrival (m : SpawnMsg)
  | messageArrival (m : Message)
  | undeliverableReturn (m : Message)
  /-- The tile learns that the context has moved from the one tile to the other (R95). -/
  | redirectNotice (tile : Nat) (tag : Tag) (old new_ : Nat)
  | crossoverStream (tile : Nat)
  | crossoverResume (tile : Nat) (target : Nat)
  | crossoverAck (tile : Nat) (target : Nat)
  | forwardingExpiry (tile : Nat) (tag : Tag)
  | stealRequest (tile : Nat) (victim : Nat)
  | stealAnswer (tile : Nat) (victim : Nat)
  | stealRetry (tile : Nat)
  | graceExpiry (part : Nat) (lead : Nat)
  | spillResume (part : Nat) (tag : Tag)
  | boundaryArrival (tile : Nat)
  | boundaryBegin (part : Nat)
  | boundaryService (part : Nat)
  | launchDescriptor (queue : Nat) (d : LaunchDesc)
  | liftDoorbell (queue : Nat) (tail : Nat)
  | liftNoticeWrite (queue : Nat)
  -- translation (R131 to R154)
  | pageWalk (r : WalkReq)
  | faultRingCopy (part : Nat)
  | fltdoneRetry (part : Nat) (idx : Nat)
  | fltdoneFail (part : Nat) (idx : Nat)
  | dirtyLogMerge (tile : Nat)
  | wcLineDrain (tile : Nat)
  | remoteDeviceLost (dev : Nat)
  -- accesses at their homes (R156 to R192)
  | loadResponse (r : LoadReq)
  | storeAtHome (r : StoreReq)
  | feAtHome (r : FeReq)
  | atomicAtHome (r : GuestOp)
  | atomicAnswer (t : ThreadId) (dest : GReg) (ret : Bool) (a : Answer)
  | ticketUpdateArrival (r : TkUpd)
  | windowInstall (home : Home) (window : Nat)
  | acopyStart (tile : Nat)
  | acopyChunkLand (tile : Nat)
  -- fabric (R226 to R249)
  | collCompletion (id : Nat)
  | barrierCompletion (tile : Nat) (kind : BarKind)
  | infuserPostAdmit (tile : Nat)
  | streamTileDelivery (id : Nat)
  | mrotExchange (tile : Nat)
  | rotationLost (tile : Nat)
  | frameIngress (f : Frame)
  | frameRetransmit (port : Nat) (owner : BitVec 8) (seq : Nat)
  | revokeComplete (part : Nat) (exp : Nat)
  | revokedNotice (part : Nat) (window : Nat)
  | remoteRequest (r : RemoteReq)
  -- errors and containment (R260 to R281)
  | uncorrectableError (e : ErrSite)
  | correctableError (u : Unit_)
  | faultWindowLapse (u : Unit_)
  | ctndoneContinue (idx : Nat)
  | ctndoneRerun (idx : Nat)
  | ctndoneKill (idx : Nat)
  | killPacketArrival (tag : Tag) (tile : Nat)
  | avalancheSweepEnd (tag : Tag) (tile : Nat)
  | avalancheConfirm (tag : Tag)
  | twinTimeout (t : ThreadId)
  | digestCompare (part : Nat) (node : Nat)
  | partnerWaitExpiry (part : Nat) (node : Nat)
  -- Kettle, fault log, platform (R194, R321 to R335)
  | kettleCommandStart (unit : Nat)
  | kettleLine (unit : Nat)
  | kettleCommandComplete (unit : Nat)
  | linkRetrain (link : Nat)
  | linkRetrainDone (link : Nat) (ok : Bool)
  -- words and fetches without an instruction (R298, R307)
  | illegalInstruction (w : InsnWord)
  | fetchFault (b : FetchBad)
  | hostHbmAccess (a : HostAccess)
  | imageSlotWrite (slot : Nat) (img : Image)
  -- instructions and events without operands: those of a register's write act on the registers of the
  -- executing thread's partition or of the floor die, as just written
  | texit
  | yield
  | monclr
  | kfence
  | eret
  | halt
  | dlogh
  | roleChangeGo
  | roleChangeAbort
  | drainLimitExpiry
  | roleFlush
  | roleRetire
  | roleReenumerate
  | roleReadmit
  | grqtWrite
  | rlogResume
  | rlogDivClear
  | bkeccWrite
  | winOpenImport
  | winCloseImport
  | winOpenExport
  | winRevokeExport
  | barctlWrite
  | containmentRecordWrite
  | flogClear
  | sensorSample
  | droopStretch
  | powerOnBoot
  | attestGo
  | attestComplete
  | keyExchange
  | keySwitch
  | keySetV
  | keyClear
  | rlogtWrite
  | quantaBegin
  deriving DecidableEq, Repr

end Sys2Proof
end

