-- ==== Sys2Proof/Machine/Bits.lean ====
section
/-! DEFINITION. Bit fields, extension and byte order (R6, R8). -/

namespace Sys2Proof.Machine

/-- Bits h:l of `v` as an unsigned number (R8). -/
def bits {n : Nat} (v : BitVec n) (h l : Nat) : Nat := v.toNat / 2 ^ l % 2 ^ (h - l + 1)

/-- Bit `i` of `v`. -/
def bitAt {n : Nat} (v : BitVec n) (i : Nat) : Bool := v.toNat / 2 ^ i % 2 == 1

/-- `v` with bits h:l replaced by `x`. -/
def setBits {n : Nat} (v : BitVec n) (h l : Nat) (x : Nat) : BitVec n :=
  BitVec.ofNat n (v.toNat % 2 ^ l + x % 2 ^ (h - l + 1) * 2 ^ l + v.toNat / 2 ^ (h + 1) * 2 ^ (h + 1))

/-- `v` with bit `i` set to `b`. -/
def setBit {n : Nat} (v : BitVec n) (i : Nat) (b : Bool) : BitVec n := setBits v i i (if b then 1 else 0)

/-- The low `n` bits of `v`, sign-extended to 64 bits (R8). -/
def sext (v : Nat) (n : Nat) : Word := (BitVec.ofNat n v).signExtend 64

/-- The low `n` bits of `v`, zero-extended to 64 bits (R8). -/
def zext (v : Nat) (n : Nat) : Word := BitVec.ofNat 64 (v % 2 ^ n)

/-- The low `n` bits of `v` as a two's complement integer. -/
def sintOf (v : Nat) (n : Nat) : Int := (BitVec.ofNat n v).toInt

/-- A 1 or 0 as a word. -/
def boolWord (b : Bool) : Word := if b then 1 else 0

/-- The number that bytes hold, least significant first (R6). -/
def natOfBytes : List Byte → Nat
  | [] => 0
  | b :: bs => b.toNat + 256 * natOfBytes bs

/-- The `n` bytes of a number, least significant first (R6). -/
def bytesOfNat : Nat → Nat → List Byte
  | 0, _ => []
  | n + 1, v => BitVec.ofNat 8 v :: bytesOfNat n (v / 256)

/-- The dwords of a list of bytes. -/
def dwordsOf (n : Nat) (bs : List Byte) : List Word :=
  (List.range n).map fun i => BitVec.ofNat 64 (natOfBytes ((bs.drop (8 * i)).take 8))

/-- The base-2 logarithm, rounded down; 0 for 0. -/
def log2 (n : Nat) : Nat := Nat.log2 n

/-- Set bits of a word (POPC, R309). -/
def popCount {n : Nat} (v : BitVec n) : Nat := ((List.range n).filter fun i => v.getLsbD i).length

/-- Leading zeros of a word, its width for 0 (CLZ, R309). -/
def leadingZeros {n : Nat} (v : BitVec n) : Nat := if v = 0 then n else n - 1 - Nat.log2 v.toNat

/-- The lowest number of a list that satisfies `f`. -/
def firstOf (l : List Nat) (f : Nat → Bool) : Option Nat := l.find? f

/-- The elements of a list without its first occurrence of `p`. -/
def dropFirst {α : Type} (p : α → Bool) : List α → List α
  | [] => []
  | x :: xs => if p x then xs else x :: dropFirst p xs

/-- A list with the element at an index changed. -/
def modAt {α : Type} (l : List α) (i : Nat) (f : α → α) : List α :=
  (l.zipIdx).map fun xi => if xi.2 = i then f xi.1 else xi.1

end Sys2Proof.Machine
end

