-- ==== Sys2Proof/Machine/Cipher.lean ====
section
/-! DEFINITION. The digest and the message authentication code that the device computes (R243): SM3 of GB/T 32905, and
CMAC of SP 800-38B with the block cipher SM4 of GB/T 32907. The manual names these standards; their constants are taken
from them (assumption 4). -/

namespace Sys2Proof.Machine

abbrev Word32 := BitVec 32

/-- The big-endian words of a byte string. -/
def words32 : List Byte → List Word32
  | a :: b :: c :: d :: rest => (a ++ b ++ c ++ d) :: words32 rest
  | _ => []

/-- The bytes of a number, the most significant first. -/
def bigEndian (n v : Nat) : List Byte := (List.range n).map fun i => BitVec.ofNat 8 (v >>> (8 * (n - 1 - i)))

/-! ### SM3 -/

/-- The eight working words. -/
structure Sm3 where
  a : Word32
  b : Word32
  c : Word32
  d : Word32
  e : Word32
  f : Word32
  g : Word32
  h : Word32
  deriving DecidableEq, Repr

def Sm3.start : Sm3 := ⟨0x7380166f, 0x4914b2b9, 0x172442d7, 0xda8a0600, 0xa96f30bc, 0x163138aa, 0xe38dee4d, 0xb0fb0e4e⟩

def sm3P0 (x : Word32) : Word32 := x ^^^ x.rotateLeft 9 ^^^ x.rotateLeft 17
def sm3P1 (x : Word32) : Word32 := x ^^^ x.rotateLeft 15 ^^^ x.rotateLeft 23

/-- The next word of the expanded message, from the sixteen before it. -/
def sm3Expand (w : List Word32) : Word32 :=
  let x (i : Nat) : Word32 := w.getD i 0
  sm3P1 (x 0 ^^^ x 7 ^^^ (x 13).rotateLeft 15) ^^^ (x 3).rotateLeft 7 ^^^ x 10

/-- Round `j` with the expanded words `w` and `w4`, of the numbers j and j + 4. -/
def Sm3.round (v : Sm3) (j : Nat) (w w4 : Word32) : Sm3 :=
  let t : Word32 := if j < 16 then 0x79cc4519 else 0x7a879d8a
  let s1 := (v.a.rotateLeft 12 + v.e + t.rotateLeft (j % 32)).rotateLeft 7
  let s2 := s1 ^^^ v.a.rotateLeft 12
  let ff := if j < 16 then v.a ^^^ v.b ^^^ v.c else (v.a &&& v.b) ||| (v.a &&& v.c) ||| (v.b &&& v.c)
  let gg := if j < 16 then v.e ^^^ v.f ^^^ v.g else (v.e &&& v.f) ||| (~~~v.e &&& v.g)
  { a := ff + v.d + s2 + (w ^^^ w4), b := v.a, c := v.b.rotateLeft 9, d := v.c
    e := sm3P0 (gg + v.h + s1 + w), f := v.e, g := v.f.rotateLeft 19, h := v.g }

/-- The rounds from the one `n` before the last, over the sixteen words that come next. -/
def Sm3.rounds : Nat → List Word32 → Sm3 → Sm3
  | 0, _, v => v
  | n + 1, w, v => Sm3.rounds n (w.drop 1 ++ [sm3Expand w]) (v.round (63 - n) (w.getD 0 0) (w.getD 4 0))

/-- One block of sixteen words. -/
def Sm3.block (v : Sm3) (w : List Word32) : Sm3 :=
  let x := Sm3.rounds 64 w v
  ⟨v.a ^^^ x.a, v.b ^^^ x.b, v.c ^^^ x.c, v.d ^^^ x.d, v.e ^^^ x.e, v.f ^^^ x.f, v.g ^^^ x.g, v.h ^^^ x.h⟩

def Sm3.blocks : Nat → List Word32 → Sm3 → Sm3
  | 0, _, v => v
  | n + 1, w, v => Sm3.blocks n (w.drop 16) (v.block (w.take 16))

/-- The SM3 digest: the message is padded with a one bit, zeros and its length in bits. As a multi-dword field its first
byte lies in bits 7:0 (R332). -/
def sm3 (m : List Byte) : BitVec 256 :=
  let pad := m ++ [0x80] ++ List.replicate ((119 - m.length % 64) % 64) 0 ++ bigEndian 8 (8 * m.length)
  let v := Sm3.blocks (pad.length / 64) (words32 pad) Sm3.start
  BitVec.ofNat 256 (natOfBytes (bigEndian 32 (v.a ++ v.b ++ v.c ++ v.d ++ v.e ++ v.f ++ v.g ++ v.h).toNat))

/-! ### SM4 -/

/-- The substitution table, its first byte most significant. -/
def sm4Box : Nat :=
  0xd690e9fecce13db716b614c228fb2c052b679a762abe04c3aa441326498606999c4250f491ef987a33540b43edcfac62e4b31ca9c908e89580df94fa758f3fa64707a7fcf37317ba83593c19e6854fa8686b81b27164da8bf8eb0f4b70569d351e240e5e6358d1a225227c3b01217887d40046579fd327524c3602e7a0c4c89eeabf8ad240c738b5a3f7f2cef96115a1e0ae5da49b341a55ad933230f58cb1e31df6e22e8266ca60c02923ab0d534e6fd5db3745defd8e2f03ff6a726d6c5b518d1baf92bbddbc7f11d95c411f105ad80ac13188a5cd7bbd2d74d012b8e5b4b08969974a0c96777e65b9f109c56ec68418f07dec3adc4d2079ee5f3ed7cb3948

def sm4Sub (b : Byte) : Byte := BitVec.ofNat 8 (sm4Box >>> (8 * (255 - b.toNat)))

/-- The four bytes of a word, each put through the table. -/
def sm4Tau (x : Word32) : Word32 :=
  sm4Sub (x.extractLsb' 24 8) ++ sm4Sub (x.extractLsb' 16 8) ++ sm4Sub (x.extractLsb' 8 8) ++ sm4Sub (x.extractLsb' 0 8)

def sm4L (x : Word32) : Word32 :=
  x ^^^ x.rotateLeft 2 ^^^ x.rotateLeft 10 ^^^ x.rotateLeft 18 ^^^ x.rotateLeft 24
def sm4LKey (x : Word32) : Word32 := x ^^^ x.rotateLeft 13 ^^^ x.rotateLeft 23

/-- Four words on which a cipher or its key schedule works. -/
structure Sm4 where
  a : Word32
  b : Word32
  c : Word32
  d : Word32
  deriving DecidableEq, Repr

def Sm4.of (x : BitVec 128) : Sm4 := ⟨x.extractLsb' 96 32, x.extractLsb' 64 32, x.extractLsb' 32 32, x.extractLsb' 0 32⟩
/-- One round: the word that comes next is made by `f` from the other three and the round's constant or key. -/
def Sm4.step (f : Word32 → Word32) (x : Sm4) (k : Word32) : Sm4 := ⟨x.b, x.c, x.d, x.a ^^^ f (sm4Tau (x.b ^^^ x.c ^^^ x.d ^^^ k))⟩

/-- The constant of a round of the key schedule: byte j is (4i + j) × 7. -/
def sm4Constant (i : Nat) : Word32 :=
  let b (j : Nat) : Byte := BitVec.ofNat 8 ((4 * i + j) * 7)
  b 0 ++ b 1 ++ b 2 ++ b 3

/-- The round keys from round `32 - n` on. -/
def sm4Keys : Nat → Sm4 → List Word32
  | 0, _ => []
  | n + 1, x =>
    let y := x.step sm4LKey (sm4Constant (31 - n))
    y.d :: sm4Keys n y

def sm4Encrypt (key block : BitVec 128) : BitVec 128 :=
  let ks := sm4Keys 32 (Sm4.of (key ^^^ 0xA3B1BAC656AA3350677D9197B27022DC))
  let x := ks.foldl (Sm4.step sm4L) (Sm4.of block)
  x.d ++ x.c ++ x.b ++ x.a

/-! ### CMAC -/

/-- A doubling in the field of 128 bits. -/
def cmacDouble (x : BitVec 128) : BitVec 128 := if x.getLsbD 127 then (x <<< 1) ^^^ 0x87 else x <<< 1

/-- Sixteen bytes as a block, the first most significant. -/
def blockOf (bs : List Byte) : BitVec 128 := bs.foldl (fun (x : BitVec 128) b => (x <<< 8) ||| b.zeroExtend 128) 0

/-- The chain over `n` blocks before the last. -/
def cmacChain (key : BitVec 128) : Nat → List Byte → BitVec 128 → List Byte × BitVec 128
  | 0, m, x => (m, x)
  | n + 1, m, x => cmacChain key n (m.drop 16) (sm4Encrypt key (x ^^^ blockOf (m.take 16)))

/-- The CMAC of a message. -/
def sm4CmacFull (key : BitVec 128) (m : List Byte) : BitVec 128 :=
  let k1 := cmacDouble (sm4Encrypt key 0)
  let (last, x) := cmacChain key ((m.length - 1) / 16) m 0
  let y := if last.length = 16 then blockOf last ^^^ k1
    else blockOf (last ++ [0x80] ++ List.replicate (15 - last.length) 0) ^^^ cmacDouble k1
  sm4Encrypt key (x ^^^ y)

/-- The tag of a frame: the first eight bytes (Tlen 64), the first most significant (R243). -/
def sm4Cmac (key : BitVec 128) (m : List Byte) : BitVec 64 := (sm4CmacFull key m).extractLsb' 64 64

end Sys2Proof.Machine
end

