-- ==== Sys2Proof/WellFormed.lean ====
section
/-! DEFINITION. Which instruction terms are words of the machine: the limits R302 to R306 and R191 put
on operands, beyond what the operand types already exclude. A decoded instruction satisfies them; a
word that breaks one is illegal (R307). -/

namespace Sys2Proof

/-- FP64, FP32, BF16 and FP16: the formats of VFP (R305). -/
def VFmt.isFloat : VFmt → Bool
  | .fp64 | .fp32 | .bf16 | .fp16 => true
  | .i64 | .i32 | .i16 | .i8 => false

/-- The formats 1–3 of the faithful functions, VQUANT and VDEQ (R305). -/
def VFmt.isNarrowFloat : VFmt → Bool
  | .fp32 | .bf16 | .fp16 => true
  | .fp64 | .i64 | .i32 | .i16 | .i8 => false

/-- The formats 0, 1, 4, 5 of LDVX and STVX (R303). -/
def VFmt.isIndexed : VFmt → Bool
  | .fp64 | .fp32 | .i64 | .i32 => true
  | .bf16 | .fp16 | .i16 | .i8 => false

/-- Whether a constructor stands for an instruction word; the others are events. -/
def Instr.isWord : Instr → Bool
  | .add .. | .sub .. | .mul .. | .mulh .. | .div .. | .rem .. | .and .. | .or .. | .xor ..
  | .shl .. | .shr .. | .sar .. | .min .. | .max .. | .clz .. | .popc .. | .sel .. | .mov ..
  | .addi .. | .andi .. | .ori .. | .xori .. | .shli .. | .shri .. | .sari .. | .lim .. | .limh ..
  | .cmp .. | .cmpi .. | .plog .. | .ext .. | .br .. | .jal .. | .jr ..
  | .amk .. | .aadd .. | .aaddb .. | .asub .. | .afld .. | .atag .. | .movag .. | .movga ..
  | .aaddi .. | .ld .. | .st .. | .lde .. | .ste .. | .ldv .. | .stv .. | .ldvx .. | .stvx ..
  | .take .. | .fill .. | .readf .. | .feempty .. | .fefull .. | .feprobe .. | .acopy ..
  | .boinit .. | .boexpect .. | .boarrive .. | .bowait .. | .botest .. | .bostat ..
  | .send .. | .sendv .. | .recv .. | .recvv .. | .recvt .. | .probe .. | .reply .. | .spawn ..
  | .waitwork .. | .start .. | .hjoin .. | .hexit .. | .texit | .yield | .task .. | .migrate ..
  | .fence .. | .monarm .. | .monwait .. | .monclr | .barw .. | .barwt .. | .cbsync ..
  | .amo .. | .cas .. | .cas128 .. | .tfadd .. | .tfmin .. | .tfmax .. | .tkopen .. | .tkclose ..
  | .tkskip .. | .tkdrain .. | .tkstat .. | .red .. | .capgive .. | .captake .. | .capq ..
  | .capmode .. | .vadd .. | .vsub .. | .vmul .. | .vfma .. | .vmin .. | .vmax .. | .vabs ..
  | .vneg .. | .vexp2 .. | .vrcp .. | .vrsq .. | .vlog2 .. | .vred .. | .vscan .. | .vcmp ..
  | .viadd .. | .visub .. | .vimul .. | .vand .. | .vor .. | .vxor .. | .vshl .. | .vshr ..
  | .vsar .. | .vimin .. | .vimax .. | .vsel .. | .vshuf .. | .vbcast .. | .vmovg .. | .vlane ..
  | .vmask .. | .vargx .. | .vrng .. | .vcvt .. | .vquant .. | .vdeq .. | .mzero .. | .mma ..
  | .mldb .. | .mrot .. | .mstz .. | .mldz .. | .msub .. | .mpost .. | .munsub .. | .mpois ..
  | .mwait .. | .coll .. | .collwait .. | .kcmd .. | .kfence | .kstat .. | .trap .. | .eret
  | .sysr .. | .sysw .. | .sysx .. | .tlbinv .. | .halt | .kill .. | .dlogh | .sigrd .. => true
  | _ => false

/-- The limits on the operands of an instruction (R302–R306, R161, R191). -/
def Instr.wf : Instr → Bool
  -- R302: the 32-bit form needs amount ≤ 31
  | .shli _ _ w n | .shri _ _ w n | .sari _ _ w n => !w || n.toNat < 32
  -- R302: AADDB with ad or as = 15 is illegal
  | .aaddb d s _ => d.val < 15 && s.val < 15
  -- R303: w of LDVX and STVX
  | .ldvx _ _ f _ _ | .stvx _ _ f _ _ => f.isIndexed
  -- R161: PMASK = 0 is illegal
  | .fence _ mask => mask != 0
  -- R430: 256 lanes would take more random bits than a register holds
  | .vcvt _ f _ _ _ r => f != .i8 || (r != .sr && r != .srsat)
  -- R191: CAS128 takes even pairs, RED has no swap
  | .cas128 _ d _ t => d.val % 2 == 0 && t.val % 2 == 0
  | .red op _ _ _ => op != .swap
  -- R305: the formats allowed
  | .vadd f .. | .vsub f .. | .vmul f .. | .vfma f .. | .vmin f .. | .vmax f .. | .vabs f ..
  | .vneg f .. | .vcmp _ f .. => f.isFloat
  | .vexp2 f .. | .vrcp f .. | .vrsq f .. | .vlog2 f .. => f.isNarrowFloat
  | .viadd f .. | .visub f .. | .vimul f .. | .vand f .. | .vor f .. | .vxor f .. | .vshl f ..
  | .vshr f .. | .vsar f .. | .vimin f .. | .vimax f .. => !f.isFloat
  -- R305: even register pairs of codes and scales
  | .vquant f d _ _ _ => f.isNarrowFloat && d.val % 2 == 0
  | .vdeq f _ a _ _ => f.isNarrowFloat && a.val % 2 == 0
  -- R306: MSUB with W = 0 is illegal
  | .msub _ _ _ w => w != 0
  | _ => true

end Sys2Proof
end

