-- ==== Sys2Proof/Decode.lean ====
section
/-! DEFINITION. From bytes to an instruction and back (R298 to R307). Decoding is total and rejects by
name; `encode` is written from the templates of the groups. Fields are taken with division and
remainder, so that a field of an encoded word is a matter of arithmetic. -/

namespace Sys2Proof

/-! ### Fields -/

/-- The `n` bits of `w` from bit `lo` up. -/
def fld (w lo n : Nat) : Nat := w / 2 ^ lo % 2 ^ n
/-- A g register number at bit `lo`. -/
def gAt (w lo : Nat) : GReg := Fin.ofNat 64 (w / 2 ^ lo)
/-- An a register number at bit `lo`. -/
def aAt (w lo : Nat) : AReg := Fin.ofNat 16 (w / 2 ^ lo)
/-- A p register number at bit `lo`. -/
def pAt (w lo : Nat) : PReg := Fin.ofNat 8 (w / 2 ^ lo)
/-- A k register number at bit `lo`. -/
def kAt (w lo : Nat) : KReg := Fin.ofNat 8 (w / 2 ^ lo)
/-- A v register number, or a g register below 32, at bit `lo`. -/
def vAt (w lo : Nat) : VReg := Fin.ofNat 32 (w / 2 ^ lo)
/-- A z register number, or a subscription, at bit `lo`. -/
def zAt (w lo : Nat) : ZReg := Fin.ofNat 4 (w / 2 ^ lo)
/-- An l register number at bit `lo`. -/
def lAt (w lo : Nat) : LReg := Fin.ofNat 2 (w / 2 ^ lo)
/-- The bit `lo`. -/
def bAt (w lo : Nat) : Bool := w / 2 ^ lo % 2 == 1

/-! ### Codes of the closed sets -/

def Cond.code : Cond → Nat
  | .eq => 0 | .ne => 1 | .lt => 2 | .ge => 3 | .ltu => 4 | .geu => 5
def Cond.ofCode : Nat → Option Cond
  | 0 => some .eq | 1 => some .ne | 2 => some .lt | 3 => some .ge | 4 => some .ltu
  | 5 => some .geu | _ => none

def VFmt.code : VFmt → Nat
  | .fp64 => 0 | .fp32 => 1 | .bf16 => 2 | .fp16 => 3 | .i64 => 4 | .i32 => 5 | .i16 => 6 | .i8 => 7
def VFmt.ofCode : Nat → Option VFmt
  | 0 => some .fp64 | 1 => some .fp32 | 2 => some .bf16 | 3 => some .fp16 | 4 => some .i64
  | 5 => some .i32 | 6 => some .i16 | 7 => some .i8 | _ => none

def MulhMode.code : MulhMode → Nat
  | .ss => 0 | .uu => 1 | .su => 2
def MulhMode.ofCode : Nat → Option MulhMode
  | 0 => some .ss | 1 => some .uu | 2 => some .su | _ => none

def LdSize.code : LdSize → Nat
  | .b => 0 | .bu => 1 | .h => 2 | .hu => 3 | .w => 4 | .wu => 5 | .d => 6
def LdSize.ofCode : Nat → Option LdSize
  | 0 => some .b | 1 => some .bu | 2 => some .h | 3 => some .hu | 4 => some .w | 5 => some .wu
  | 6 => some .d | _ => none

def StSize.code : StSize → Nat
  | .b => 0 | .h => 2 | .w => 4 | .d => 6
def StSize.ofCode : Nat → Option StSize
  | 0 => some .b | 2 => some .h | 4 => some .w | 6 => some .d | _ => none

def Scope.code : Scope → Nat
  | .thr => 0 | .tile => 1 | .col => 2 | .dev => 3 | .fab => 4
def Scope.ofCode : Nat → Option Scope
  | 0 => some .thr | 1 => some .tile | 2 => some .col | 3 => some .dev | 4 => some .fab | _ => none

def AtomOp.code : AtomOp → Nat
  | .add => 0 | .and => 1 | .or => 2 | .xor => 3 | .min => 4 | .max => 5 | .minu => 6 | .maxu => 7
  | .swap => 8
def AtomOp.ofCode : Nat → Option AtomOp
  | 0 => some .add | 1 => some .and | 2 => some .or | 3 => some .xor | 4 => some .min
  | 5 => some .max | 6 => some .minu | 7 => some .maxu | 8 => some .swap | _ => none

def TfFmt.code : TfFmt → Nat
  | .fp64 => 0 | .fp32 => 1 | .fp16x2 => 2 | .bf16x2 => 3
def TfFmt.ofCode : Nat → TfFmt
  | 0 => .fp64 | 1 => .fp32 | 2 => .fp16x2 | _ => .bf16x2

def RedOp.code : RedOp → Nat
  | .add => 0 | .min => 1 | .max => 2
def RedOp.ofCode : Nat → Option RedOp
  | 0 => some .add | 1 => some .min | 2 => some .max | _ => none

def VCond.code : VCond → Nat
  | .eq => 0 | .ne => 1 | .lt => 2 | .le => 3
def VCond.ofCode : Nat → VCond
  | 0 => .eq | 1 => .ne | 2 => .lt | _ => .le

def RMode.code : RMode → Nat
  | .rne => 0 | .rtz => 1 | .rdn => 2 | .rup => 3 | .sr => 4 | .rnesat => 5 | .srsat => 6
def RMode.ofCode : Nat → Option RMode
  | 0 => some .rne | 1 => some .rtz | 2 => some .rdn | 3 => some .rup | 4 => some .sr
  | 5 => some .rnesat | 6 => some .srsat | _ => none

def BarKind.code : BarKind → Nat
  | .x => 0 | .y => 1 | .z => 2 | .plane => 3 | .part => 4
def BarKind.ofCode : Nat → Option BarKind
  | 0 => some .x | 1 => some .y | 2 => some .z | 3 => some .plane | 4 => some .part | _ => none

def Axis.code : Axis → Nat
  | .x => 0 | .y => 1 | .z => 2
def Axis.ofCode : Nat → Option Axis
  | 0 => some .x | 1 => some .y | 2 => some .z | _ => none

def TlbScope.code : TlbScope → Nat
  | .tile => 1 | .col => 2 | .dev => 3
def TlbScope.ofCode : Nat → Option TlbScope
  | 1 => some .tile | 2 => some .col | 3 => some .dev | _ => none

def TlbKind.code : TlbKind → Nat
  | .page => 0 | .owner => 1 | .win => 2 | .all => 3
def TlbKind.ofCode : Nat → Option TlbKind
  | 0 => some .page | 1 => some .owner | 2 => some .win | 3 => some .all | _ => none

/-! ### Decoding by group -/

/-- `i` where the bits a group shows as zero are zero. -/
def keep (zero : Bool) (i : Instr) : Option Instr := if zero then some i else none

/-- `f` of a code's name, where the code is assigned. -/
def withCode {α : Type} (o : Option α) (f : α → Option Instr) : Option Instr :=
  match o with
  | some a => f a
  | none => none

/-- ALU, op 0x01 (R302). -/
def decAlu (w : Nat) : Option Instr :=
  let d := gAt w 20
  let s := gAt w 14
  let t := gAt w 8
  let x := fld w 5 3
  let b := x == 1
  match fld w 0 5 with
  | 0 => keep (x < 2) (.add d s t b)
  | 1 => keep (x < 2) (.sub d s t b)
  | 2 => keep (x < 2) (.mul d s t b)
  | 3 => withCode (MulhMode.ofCode x) fun m => some (.mulh d s t m)
  | 4 => keep (x < 2) (.div d s t b)
  | 5 => keep (x < 2) (.rem d s t b)
  | 6 => keep (x == 0) (.and d s t)
  | 7 => keep (x == 0) (.or d s t)
  | 8 => keep (x == 0) (.xor d s t)
  | 9 => keep (x < 2) (.shl d s t b)
  | 10 => keep (x < 2) (.shr d s t b)
  | 11 => keep (x < 2) (.sar d s t b)
  | 12 => keep (x < 2) (.min d s t b)
  | 13 => keep (x < 2) (.max d s t b)
  | 14 => keep (fld w 5 9 == 0) (.clz d s)
  | 15 => keep (fld w 5 9 == 0) (.popc d s)
  | 16 => some (.sel d (pAt w 5) s t)
  | 17 => keep (fld w 5 9 == 0) (.mov d s)
  | _ => none

/-- AOP, op 0x14 (R302). -/
def decAop (w : Nat) : Option Instr :=
  let d := aAt w 22
  let s := aAt w 18
  let g := gAt w 12
  if fld w 4 8 ≠ 0 then none
  else
    match fld w 0 4 with
    | 0 => some (.amk d s g)
    | 1 => some (.aadd d s g)
    | 2 => some (.aaddb d s g)
    | 3 => some (.asub g d s)
    | 4 => keep (fld w 22 4 == 0) (.afld g s)
    | 5 => some (.atag d s g)
    | 6 => keep (fld w 22 4 == 0) (.movag g s)
    | 7 => keep (fld w 18 4 == 0) (.movga d g)
    | _ => none

/-- FE, op 0x20 (R169). -/
def decFe (w : Nat) : Option Instr :=
  let d := gAt w 20
  let a := aAt w 16
  let o := BitVec.ofNat 13 w
  match fld w 13 3 with
  | 0 => some (.take d a o)
  | 1 => some (.fill d a o)
  | 2 => some (.readf d a o)
  | 3 => keep (fld w 20 6 == 0) (.feempty a o)
  | 4 => keep (fld w 20 6 == 0) (.fefull a o)
  | 5 => some (.feprobe d a o)
  | _ => none

/-- BO, op 0x23 (R171). -/
def decBo (w : Nat) : Option Instr :=
  let d := gAt w 20
  let a := aAt w 16
  let o := BitVec.ofNat 13 w
  match fld w 13 3 with
  | 0 => some (.boinit d a o)
  | 1 => some (.boexpect d a o)
  | 2 => keep (fld w 20 6 == 0) (.boarrive a o)
  | 3 => some (.bowait d a o)
  | 4 => some (.botest d a o)
  | 5 => some (.bostat d a o)
  | _ => none

/-- MSG, op 0x28 (R228). -/
def decMsg (w : Nat) : Option Instr :=
  let d := gAt w 20
  let s := gAt w 14
  let t := gAt w 8
  if fld w 5 3 ≠ 0 then none
  else
    match fld w 0 5 with
    | 0 => keep (fld w 20 6 == 0) (.send s t)
    | 1 => keep (fld w 25 1 == 0) (.sendv s t (vAt w 20))
    | 2 => keep (fld w 14 6 == 0) (.recv d t)
    | 3 => keep (fld w 14 6 == 0 && fld w 25 1 == 0) (.recvv (vAt w 20) t)
    | 4 => some (.recvt d t s)
    | 5 => keep (fld w 14 6 == 0) (.probe d t)
    | 6 => keep (fld w 20 6 == 0) (.reply s t)
    | _ => none

/-- WORK, op 0x2A (R77). -/
def decWork (w : Nat) : Option Instr :=
  let d := gAt w 20
  let s := gAt w 14
  let t := gAt w 8
  if fld w 5 3 ≠ 0 then none
  else
    match fld w 0 5 with
    | 0 => keep (fld w 8 12 == 0) (.waitwork d)
    | 1 => some (.start d s t)
    | 2 => keep (fld w 8 6 == 0) (.hjoin d s)
    | 3 => keep (fld w 20 6 == 0 && fld w 8 6 == 0) (.hexit s)
    | 4 => keep (fld w 8 18 == 0) .texit
    | 5 => keep (fld w 8 18 == 0) .yield
    | 6 => keep (fld w 8 6 == 0) (.task d s)
    | 7 => keep (fld w 8 6 == 0) (.migrate d s)
    | _ => none

/-- SYNC, op 0x2B (R161, R234, R304). -/
def decSync (w : Nat) : Option Instr :=
  let d := gAt w 20
  let s := gAt w 14
  let t := gAt w 8
  match fld w 0 5 with
  | 0 => withCode (Scope.ofCode (fld w 5 3)) fun sc =>
      keep (fld w 22 4 == 0 && fld w 8 6 == 0) (.fence sc (BitVec.ofNat 8 (w / 2 ^ 14)))
  | 1 => keep (fld w 5 9 == 0) (.monarm d s)
  | 2 => keep (fld w 5 9 == 0) (.monwait d s)
  | 3 => keep (fld w 5 21 == 0) .monclr
  | 4 => withCode (BarKind.ofCode (fld w 5 3)) fun k =>
      keep (fld w 20 6 == 0 && fld w 8 6 == 0) (.barw k s)
  | 5 => withCode (BarKind.ofCode (fld w 5 3)) fun k => some (.barwt k d s t)
  | 6 => keep (fld w 20 6 == 0 && fld w 5 9 == 0) (.cbsync s)
  | _ => none

/-- AMO, CAS and RED, ops 0x30, 0x31 and 0x34 (R191). -/
def decAmo (w : Nat) : Option Instr :=
  if fld w 14 2 ≠ 0 then none
  else
    withCode (Scope.ofCode (fld w 4 3)) fun sc =>
      withCode (AtomOp.ofCode (fld w 0 4)) fun op =>
        some (.amo op (bAt w 7) sc (gAt w 20) (aAt w 16) (gAt w 8))

def decCas (w : Nat) : Option Instr :=
  if fld w 14 2 ≠ 0 then none
  else
    withCode (Scope.ofCode (fld w 4 3)) fun sc =>
      match fld w 0 4 with
      | 0 => some (.cas (bAt w 7) sc (gAt w 20) (aAt w 16) (gAt w 8))
      | 1 => keep (fld w 7 1 == 0) (.cas128 sc (gAt w 20) (aAt w 16) (gAt w 8))
      | _ => none

def decRed (w : Nat) : Option Instr :=
  if fld w 14 2 ≠ 0 ∨ fld w 20 6 ≠ 0 ∨ fld w 4 3 ≠ 0 then none
  else
    withCode (AtomOp.ofCode (fld w 0 4)) fun op =>
      some (.red op (bAt w 7) (aAt w 16) (gAt w 8))

/-- TF, op 0x32 (R179). -/
def decTf (w : Nat) : Option Instr :=
  let f := TfFmt.ofCode (fld w 0 2)
  let d := gAt w 20
  let a := aAt w 16
  let v := gAt w 10
  let k := gAt w 4
  match fld w 2 2 with
  | 0 => some (.tfadd f d a v k)
  | 1 => some (.tfmin f d a v k)
  | 2 => some (.tfmax f d a v k)
  | _ => none

/-- TK, op 0x33 (R177). -/
def decTk (w : Nat) : Option Instr :=
  let d := gAt w 20
  let a := aAt w 16
  let t := gAt w 8
  if fld w 14 2 ≠ 0 ∨ fld w 5 3 ≠ 0 then none
  else
    match fld w 0 4 with
    | 0 => some (.tkopen (bAt w 4) d a t)
    | 1 => keep (fld w 8 6 == 0) (.tkclose (bAt w 4) d a)
    | 2 => keep (fld w 4 1 == 0) (.tkskip d a t)
    | 3 => keep (fld w 8 6 == 0 && fld w 4 1 == 0) (.tkdrain d a)
    | 4 => keep (fld w 8 6 == 0 && fld w 4 1 == 0) (.tkstat d a)
    | _ => none

/-- CAP, op 0x35 (R165). -/
def decCap (w : Nat) : Option Instr :=
  let d := gAt w 20
  let a := aAt w 16
  let t := gAt w 8
  if fld w 14 2 ≠ 0 ∨ fld w 5 3 ≠ 0 then none
  else
    match fld w 0 4 with
    | 0 => keep (fld w 4 1 == 0) (.capgive d a t)
    | 1 => keep (fld w 4 1 == 0 && fld w 20 6 == 0) (.captake a t)
    | 2 => keep (fld w 4 1 == 0 && fld w 8 6 == 0) (.capq d a)
    | 3 => keep (fld w 20 6 == 0) (.capmode (bAt w 4) a t)
    | _ => none

/-- VFP, op 0x38 (R305). -/
def decVfp (w : Nat) : Option Instr :=
  let d := vAt w 21
  let a := vAt w 16
  let b := vAt w 11
  let m := kAt w 8
  withCode (VFmt.ofCode (fld w 4 4)) fun f =>
    match fld w 0 4 with
    | 0 => some (.vadd f d a b m)
    | 1 => some (.vsub f d a b m)
    | 2 => some (.vmul f d a b m)
    | 3 => some (.vfma f d a b m)
    | 4 => some (.vmin f d a b m)
    | 5 => some (.vmax f d a b m)
    | 6 => keep (fld w 11 5 == 0) (.vabs f d a m)
    | 7 => keep (fld w 11 5 == 0) (.vneg f d a m)
    | 8 => keep (fld w 11 5 == 0) (.vexp2 f d a m)
    | 9 => keep (fld w 11 5 == 0) (.vrcp f d a m)
    | 10 => keep (fld w 11 5 == 0) (.vrsq f d a m)
    | 11 => keep (fld w 11 5 == 0) (.vlog2 f d a m)
    | 12 => withCode (RedOp.ofCode (fld w 11 5)) fun op => some (.vred op f d a m)
    | 13 => withCode (RedOp.ofCode (fld w 11 5)) fun op => some (.vscan op f d a m)
    | 14 => some (.vcmp (VCond.ofCode (fld w 24 2)) f (kAt w 21) a b m)
    | _ => none

/-- VINT, op 0x39 (R305). -/
def decVint (w : Nat) : Option Instr :=
  let d := vAt w 21
  let a := vAt w 16
  let b := vAt w 11
  let m := kAt w 8
  withCode (VFmt.ofCode (fld w 4 4)) fun f =>
    match fld w 0 4 with
    | 0 => some (.viadd f d a b m)
    | 1 => some (.visub f d a b m)
    | 2 => some (.vimul f d a b m)
    | 3 => some (.vand f d a b m)
    | 4 => some (.vor f d a b m)
    | 5 => some (.vxor f d a b m)
    | 6 => some (.vshl f d a b m)
    | 7 => some (.vshr f d a b m)
    | 8 => some (.vsar f d a b m)
    | 9 => some (.vimin f d a b m)
    | 10 => some (.vimax f d a b m)
    | _ => none

/-- VMISC, op 0x3A (R305). -/
def decVmisc (w : Nat) : Option Instr :=
  let d := vAt w 21
  let a := vAt w 16
  let b := vAt w 11
  let m := kAt w 8
  withCode (VFmt.ofCode (fld w 4 4)) fun f =>
    match fld w 0 4 with
    | 0 => some (.vsel f d a b m)
    | 1 => some (.vshuf f d a b m)
    | 2 => keep (fld w 11 5 == 0) (.vbcast f d a m)
    | 3 => keep (fld w 8 3 == 0) (.vmovg f d a b)
    | 4 => keep (fld w 8 3 == 0) (.vlane f d a b)
    | 5 => keep (fld w 8 8 == 0 && fld w 24 2 == 0) (.vmask f (kAt w 21) a)
    | 6 => keep (fld w 12 4 == 0) (.vargx f d a (bAt w 11) m)
    | 7 => keep (f == .i32) (.vrng d a b m)
    | _ => none

/-- VQ, op 0x3B (R305). -/
def decVq (w : Nat) : Option Instr :=
  let d := vAt w 21
  let a := vAt w 16
  let n := aAt w 11
  let m := kAt w 8
  withCode (VFmt.ofCode (fld w 4 4)) fun f =>
    match fld w 0 4 with
    | 0 => withCode (RMode.ofCode (fld w 8 3)) fun r => some (.vcvt (bAt w 15) f d a n r)
    | 1 => keep (fld w 15 1 == 0) (.vquant f d a n m)
    | 2 => keep (fld w 15 1 == 0) (.vdeq f d a n m)
    | _ => none

/-- MX, op 0x3C (R306): z 25:24, l 23, a 22:19, g 18:13, f 12:7, x 6:4, fn 3:0. -/
def decMx (w : Nat) : Option Instr :=
  let z := zAt w 24
  let l := lAt w 23
  let a := aAt w 19
  let g := gAt w 13
  match fld w 0 4 with
  | 0 => keep (fld w 13 11 == 0 && fld w 8 5 == 4 && fld w 4 3 == 0) (.mzero (bAt w 7) z)
  | 1 => keep (fld w 4 15 == 0) (.mma z l a)
  | 2 => keep (fld w 24 2 == 0 && fld w 4 15 == 0) (.mldb l a)
  | 3 => withCode (Axis.ofCode (fld w 4 3)) fun ax =>
      keep (fld w 24 2 == 0 && fld w 7 16 == 0) (.mrot l ax)
  | 4 => keep (fld w 23 1 == 0 && fld w 4 15 == 0) (.mstz z a)
  | 5 => keep (fld w 23 1 == 0 && fld w 4 15 == 0) (.mldz z a)
  | 6 => keep (fld w 23 3 == 0 && fld w 6 1 == 0) (.msub (zAt w 4) a g (BitVec.ofNat 6 (w / 2 ^ 7)))
  | 7 => keep (fld w 23 3 == 0 && fld w 4 9 == 0) (.mpost a g)
  | 8 => keep (fld w 6 20 == 0) (.munsub (zAt w 4))
  | 9 => keep (fld w 19 4 == 0 && fld w 4 9 == 0) (.mpois g z l)
  | 10 => keep (fld w 19 7 == 0 && fld w 6 7 == 0) (.mwait (zAt w 4) g)
  | _ => none

/-- COLL, op 0x3D (R304). -/
def decColl (w : Nat) : Option Instr :=
  let a := aAt w 16
  match fld w 0 4 with
  | 0 => keep (fld w 20 6 == 0 && fld w 4 12 == 0) (.coll a)
  | 1 => keep (fld w 4 12 == 0) (.collwait (gAt w 20) a)
  | _ => none

/-- KMEM, op 0x3E (R304). -/
def decKmem (w : Nat) : Option Instr :=
  let a := aAt w 16
  match fld w 0 4 with
  | 0 => keep (fld w 14 2 == 0 && fld w 4 4 == 0) (.kcmd (gAt w 20) a (gAt w 8))
  | 1 => keep (fld w 4 22 == 0) .kfence
  | 2 => keep (fld w 4 12 == 0) (.kstat (gAt w 20) a)
  | _ => none

/-- SYS, op 0x3F (R304, R256, R139). -/
def decSys (w : Nat) : Option Instr :=
  let d := gAt w 20
  let s := gAt w 14
  let n := BitVec.ofNat 10 w
  match fld w 10 4 with
  | 0 => keep (fld w 14 12 == 0) (.trap n)
  | 1 => keep (fld w 14 12 == 0 && fld w 0 10 == 0) .eret
  | 2 => keep (fld w 14 6 == 0) (.sysr d n)
  | 3 => keep (fld w 20 6 == 0) (.sysw s n)
  | 4 => some (.sysx d s n)
  | 5 => withCode (TlbKind.ofCode (fld w 3 3)) fun k =>
      withCode (TlbScope.ofCode (fld w 0 3)) fun sc =>
        keep (fld w 20 6 == 0 && fld w 6 4 == 0) (.tlbinv s k sc)
  | 6 => keep (fld w 14 12 == 0 && fld w 0 10 == 0) .halt
  | 7 => keep (fld w 0 10 == 0) (.kill d s)
  | 8 => keep (fld w 14 12 == 0 && fld w 0 10 == 0) .dlogh
  | 9 => keep (fld w 14 6 == 0) (.sigrd d n)
  | _ => none

/-- The instruction of one word, and of the word after it for EXT, before the limits of `wf`: the
major opcode map of R300. -/
def decodeRaw (w w2 : Nat) : Option Instr :=
  let d := gAt w 20
  let s := gAt w 14
  let t := gAt w 8
  let a := aAt w 16
  let i14 := BitVec.ofNat 14 w
  let o13 := BitVec.ofNat 13 w
  let sh := fun (i : Instr) => keep (fld w 7 7 == 0) i
  match w / 2 ^ 26 with
  | 0x01 => decAlu w
  | 0x02 => some (.addi d s i14)
  | 0x03 => some (.andi d s i14)
  | 0x04 => some (.ori d s i14)
  | 0x05 => some (.xori d s i14)
  | 0x06 => sh (.shli d s (bAt w 6) (BitVec.ofNat 6 w))
  | 0x07 => sh (.shri d s (bAt w 6) (BitVec.ofNat 6 w))
  | 0x08 => sh (.sari d s (bAt w 6) (BitVec.ofNat 6 w))
  | 0x09 => keep (fld w 14 6 == 0) (.lim d i14)
  | 0x0A => some (.limh d s i14)
  | 0x0B => withCode (Cond.ofCode (fld w 20 3)) fun c =>
      keep (fld w 0 8 == 0) (.cmp (pAt w 23) c s t)
  | 0x0C => withCode (Cond.ofCode (fld w 20 3)) fun c => some (.cmpi (pAt w 23) c s i14)
  | 0x0D => keep (fld w 0 13 == 0)
      (.plog (pAt w 23) (pAt w 20) (pAt w 17) (BitVec.ofNat 4 (w / 2 ^ 13)))
  | 0x0F => some (.ext (BitVec.ofNat 26 w) (BitVec.ofNat 32 w2))
  | 0x10 => some (.br (pAt w 23) (bAt w 22) (BitVec.ofNat 22 w))
  | 0x11 => some (.jal d (BitVec.ofNat 20 w))
  | 0x12 => some (.jr d s i14)
  | 0x14 => decAop w
  | 0x15 => some (.aaddi (aAt w 22) (aAt w 18) (BitVec.ofNat 18 w))
  | 0x18 => withCode (LdSize.ofCode (fld w 13 3)) fun z => some (.ld d a z o13)
  | 0x19 => withCode (StSize.ofCode (fld w 13 3)) fun z => some (.st d a z o13)
  | 0x1A => withCode (VFmt.ofCode (fld w 13 3)) fun f => some (.lde d a f o13)
  | 0x1B => withCode (VFmt.ofCode (fld w 13 3)) fun f => some (.ste d a f o13)
  | 0x1C => withCode (VFmt.ofCode (fld w 13 3)) fun f =>
      keep (fld w 25 1 == 0) (.ldv (vAt w 20) a f o13)
  | 0x1D => withCode (VFmt.ofCode (fld w 13 3)) fun f =>
      keep (fld w 25 1 == 0) (.stv (vAt w 20) a f o13)
  | 0x1E => withCode (VFmt.ofCode (fld w 13 3)) fun f =>
      keep (fld w 25 1 == 0 && fld w 0 5 == 0) (.ldvx (vAt w 20) a f (vAt w 8) (kAt w 5))
  | 0x1F => withCode (VFmt.ofCode (fld w 13 3)) fun f =>
      keep (fld w 25 1 == 0 && fld w 0 5 == 0) (.stvx (vAt w 20) a f (vAt w 8) (kAt w 5))
  | 0x20 => decFe w
  | 0x22 => keep (fld w 1 9 == 0) (.acopy (aAt w 22) (aAt w 18) (aAt w 14) (aAt w 10) (bAt w 0))
  | 0x23 => decBo w
  | 0x28 => decMsg w
  | 0x29 => keep (fld w 0 8 == 0) (.spawn s t d)
  | 0x2A => decWork w
  | 0x2B => decSync w
  | 0x30 => decAmo w
  | 0x31 => decCas w
  | 0x32 => decTf w
  | 0x33 => decTk w
  | 0x34 => decRed w
  | 0x35 => decCap w
  | 0x38 => decVfp w
  | 0x39 => decVint w
  | 0x3A => decVmisc w
  | 0x3B => decVq w
  | 0x3C => decMx w
  | 0x3D => decColl w
  | 0x3E => decKmem w
  | 0x3F => decSys w
  | _ => none

/-- The instruction of a word (and of the word after it, which only EXT takes), where the word is one
that R299 to R306 define. -/
def decodeWord (w w2 : Nat) : Option Instr :=
  match decodeRaw w w2 with
  | some i => if i.wf then some i else none
  | none => none

/-! ### Bytes -/

/-- Why bytes are no instruction. -/
inductive DecodeError where
  /-- Fewer bytes than the instruction has. -/
  | truncated
  /-- The word 0x0000_0000 (R307). -/
  | zeroWord
  /-- A word that the manual does not define (R307). -/
  | illegalWord (w : InsnWord)
  deriving DecidableEq, Repr

/-- Four bytes as a little-endian word (R298). -/
def wordOfBytes (b0 b1 b2 b3 : Byte) : Nat :=
  b0.toNat + b1.toNat * 2 ^ 8 + b2.toNat * 2 ^ 16 + b3.toNat * 2 ^ 24

/-- The four bytes of a word, least significant first. -/
def bytesOfWord (w : Nat) : List Byte :=
  [BitVec.ofNat 8 w, BitVec.ofNat 8 (w / 2 ^ 8), BitVec.ofNat 8 (w / 2 ^ 16),
    BitVec.ofNat 8 (w / 2 ^ 24)]

/-- The first instruction of a list of bytes and the bytes after it. -/
def decode : List Byte → Except DecodeError (Instr × List Byte)
  | b0 :: b1 :: b2 :: b3 :: rest =>
    let w := wordOfBytes b0 b1 b2 b3
    if w = 0 then .error .zeroWord
    else if w / 2 ^ 26 = 0x0F then
      match rest with
      | c0 :: c1 :: c2 :: c3 :: rest' =>
        match decodeWord w (wordOfBytes c0 c1 c2 c3) with
        | some i => .ok (i, rest')
        | none => .error (.illegalWord (BitVec.ofNat 32 w))
      | _ => .error .truncated
    else
      match decodeWord w 0 with
      | some i => .ok (i, rest)
      | none => .error (.illegalWord (BitVec.ofNat 32 w))
  | _ => .error .truncated

/-- The bytes an instruction occupies: an EXT pair eight, every other instruction four (R298, R301). -/
def Instr.len : Instr → Nat
  | .ext _ _ => 8
  | _ => 4

/-! ### Encoding -/

/-- A bit as a number. -/
def bit (b : Bool) : Nat := if b then 1 else 0

/-- An F-V word (R299). -/
def encV (op fn : Nat) (f : VFmt) (d a b : Nat) (m : KReg) : Nat :=
  op * 2 ^ 26 + d * 2 ^ 21 + a * 2 ^ 16 + b * 2 ^ 11 + m.val * 2 ^ 8 + f.code * 2 ^ 4 + fn

/-- An F-R word (R299). -/
def encR (op fn : Nat) (d s t : Nat) (w : Nat) : Nat :=
  op * 2 ^ 26 + d * 2 ^ 20 + s * 2 ^ 14 + t * 2 ^ 8 + w * 2 ^ 5 + fn

/-- An F-I word (R299). -/
def encI (op : Nat) (d s : Nat) (i : Nat) : Nat := op * 2 ^ 26 + d * 2 ^ 20 + s * 2 ^ 14 + i

/-- An F-M word (R299). -/
def encM (op : Nat) (d a w o : Nat) : Nat :=
  op * 2 ^ 26 + d * 2 ^ 20 + a * 2 ^ 16 + w * 2 ^ 13 + o

/-- An F-A word (R299). -/
def encA (fn : Nat) (d s g : Nat) : Nat := 0x14 * 2 ^ 26 + d * 2 ^ 22 + s * 2 ^ 18 + g * 2 ^ 12 + fn

/-- An F-X word with its memory operand (R299). -/
def encX (op fn : Nat) (d a t k : Nat) : Nat :=
  op * 2 ^ 26 + d * 2 ^ 20 + a * 2 ^ 16 + t * 2 ^ 8 + k * 2 ^ 4 + fn

/-- An F-T word (R299). -/
def encT (o : Nat) (f : TfFmt) (d : GReg) (a : AReg) (v k : GReg) : Nat :=
  0x32 * 2 ^ 26 + d.val * 2 ^ 20 + a.val * 2 ^ 16 + v.val * 2 ^ 10 + k.val * 2 ^ 4 + o * 2 ^ 2 + f.code

/-- An F-Z word (R299). -/
def encZ (fn : Nat) (z l a g f x : Nat) : Nat :=
  0x3C * 2 ^ 26 + z * 2 ^ 24 + l * 2 ^ 23 + a * 2 ^ 19 + g * 2 ^ 13 + f * 2 ^ 7 + x * 2 ^ 4 + fn

/-- An F-S word (R299). -/
def encS (fn : Nat) (d s n : Nat) : Nat :=
  0x3F * 2 ^ 26 + d * 2 ^ 20 + s * 2 ^ 14 + fn * 2 ^ 10 + n

/-- The first word of an instruction, from the templates of its group; 0 for an event. -/
def encodeWord : Instr → Nat
  | .add d s t w => encR 1 0 d s t (bit w)
  | .sub d s t w => encR 1 1 d s t (bit w)
  | .mul d s t w => encR 1 2 d s t (bit w)
  | .mulh d s t m => encR 1 3 d s t m.code
  | .div d s t u => encR 1 4 d s t (bit u)
  | .rem d s t u => encR 1 5 d s t (bit u)
  | .and d s t => encR 1 6 d s t 0
  | .or d s t => encR 1 7 d s t 0
  | .xor d s t => encR 1 8 d s t 0
  | .shl d s t w => encR 1 9 d s t (bit w)
  | .shr d s t w => encR 1 10 d s t (bit w)
  | .sar d s t w => encR 1 11 d s t (bit w)
  | .min d s t u => encR 1 12 d s t (bit u)
  | .max d s t u => encR 1 13 d s t (bit u)
  | .clz d s => encR 1 14 d s 0 0
  | .popc d s => encR 1 15 d s 0 0
  | .sel d p s t => encR 1 16 d s t p
  | .mov d s => encR 1 17 d s 0 0
  | .addi d s i => encI 2 d s i.toNat
  | .andi d s i => encI 3 d s i.toNat
  | .ori d s i => encI 4 d s i.toNat
  | .xori d s i => encI 5 d s i.toNat
  | .shli d s w n => encI 6 d s (bit w * 2 ^ 6 + n.toNat)
  | .shri d s w n => encI 7 d s (bit w * 2 ^ 6 + n.toNat)
  | .sari d s w n => encI 8 d s (bit w * 2 ^ 6 + n.toNat)
  | .lim d i => encI 9 d 0 i.toNat
  | .limh d s i => encI 10 d s i.toNat
  | .cmp p c s t => 0x0B * 2 ^ 26 + p.val * 2 ^ 23 + c.code * 2 ^ 20 + s.val * 2 ^ 14 + t.val * 2 ^ 8
  | .cmpi p c s i => 0x0C * 2 ^ 26 + p.val * 2 ^ 23 + c.code * 2 ^ 20 + s.val * 2 ^ 14 + i.toNat
  | .plog d a b tt =>
      0x0D * 2 ^ 26 + d.val * 2 ^ 23 + a.val * 2 ^ 20 + b.val * 2 ^ 17 + tt.toNat * 2 ^ 13
  | .ext i _ => 0x0F * 2 ^ 26 + i.toNat
  | .br p n o => 0x10 * 2 ^ 26 + p.val * 2 ^ 23 + bit n * 2 ^ 22 + o.toNat
  | .jal d o => 0x11 * 2 ^ 26 + d.val * 2 ^ 20 + o.toNat
  | .jr d s i => encI 0x12 d s i.toNat
  | .amk d s t => encA 0 d s t
  | .aadd d s t => encA 1 d s t
  | .aaddb d s t => encA 2 d s t
  | .asub t d s => encA 3 d s t
  | .afld t s => encA 4 0 s t
  | .atag d s t => encA 5 d s t
  | .movag t s => encA 6 0 s t
  | .movga d t => encA 7 d 0 t
  | .aaddi d s i => 0x15 * 2 ^ 26 + d.val * 2 ^ 22 + s.val * 2 ^ 18 + i.toNat
  | .ld d a z o => encM 0x18 d a z.code o.toNat
  | .st d a z o => encM 0x19 d a z.code o.toNat
  | .lde d a f o => encM 0x1A d a f.code o.toNat
  | .ste d a f o => encM 0x1B d a f.code o.toNat
  | .ldv d a f o => encM 0x1C d a f.code o.toNat
  | .stv d a f o => encM 0x1D d a f.code o.toNat
  | .ldvx d a f b k => encM 0x1E d a f.code (b.val * 2 ^ 8 + k.val * 2 ^ 5)
  | .stvx d a f b k => encM 0x1F d a f.code (b.val * 2 ^ 8 + k.val * 2 ^ 5)
  | .take d a o => encM 0x20 d a 0 o.toNat
  | .fill d a o => encM 0x20 d a 1 o.toNat
  | .readf d a o => encM 0x20 d a 2 o.toNat
  | .feempty a o => encM 0x20 0 a 3 o.toNat
  | .fefull a o => encM 0x20 0 a 4 o.toNat
  | .feprobe d a o => encM 0x20 d a 5 o.toNat
  | .acopy d s h b e =>
      0x22 * 2 ^ 26 + d.val * 2 ^ 22 + s.val * 2 ^ 18 + h.val * 2 ^ 14 + b.val * 2 ^ 10 + bit e
  | .boinit s a o => encM 0x23 s a 0 o.toNat
  | .boexpect s a o => encM 0x23 s a 1 o.toNat
  | .boarrive a o => encM 0x23 0 a 2 o.toNat
  | .bowait d a o => encM 0x23 d a 3 o.toNat
  | .botest d a o => encM 0x23 d a 4 o.toNat
  | .bostat d a o => encM 0x23 d a 5 o.toNat
  | .send s t => encR 0x28 0 0 s t 0
  | .sendv s t v => encR 0x28 1 v s t 0
  | .recv d t => encR 0x28 2 d 0 t 0
  | .recvv v t => encR 0x28 3 v 0 t 0
  | .recvt d t s => encR 0x28 4 d s t 0
  | .probe d t => encR 0x28 5 d 0 t 0
  | .reply s t => encR 0x28 6 0 s t 0
  | .spawn s t d => encR 0x29 0 d s t 0
  | .waitwork d => encR 0x2A 0 d 0 0 0
  | .start d s t => encR 0x2A 1 d s t 0
  | .hjoin d s => encR 0x2A 2 d s 0 0
  | .hexit s => encR 0x2A 3 0 s 0 0
  | .texit => encR 0x2A 4 0 0 0 0
  | .yield => encR 0x2A 5 0 0 0 0
  | .task d s => encR 0x2A 6 d s 0 0
  | .migrate d s => encR 0x2A 7 d s 0 0
  | .fence sc m => 0x2B * 2 ^ 26 + m.toNat * 2 ^ 14 + sc.code * 2 ^ 5
  | .monarm d s => encR 0x2B 1 d s 0 0
  | .monwait d s => encR 0x2B 2 d s 0 0
  | .monclr => encR 0x2B 3 0 0 0 0
  | .barw k s => encR 0x2B 4 0 s 0 k.code
  | .barwt k d s t => encR 0x2B 5 d s t k.code
  | .cbsync s => encR 0x2B 6 0 s 0 0
  | .amo op w sc d a t => encX 0x30 op.code d a t (bit w * 2 ^ 3 + sc.code)
  | .cas w sc d a t => encX 0x31 0 d a t (bit w * 2 ^ 3 + sc.code)
  | .cas128 sc d a t => encX 0x31 1 d a t sc.code
  | .tfadd f d a v k => encT 0 f d a v k
  | .tfmin f d a v k => encT 1 f d a v k
  | .tfmax f d a v k => encT 2 f d a v k
  | .tkopen w d a t => encX 0x33 0 d a t (bit w)
  | .tkclose b d a => encX 0x33 1 d a 0 (bit b)
  | .tkskip d a t => encX 0x33 2 d a t 0
  | .tkdrain d a => encX 0x33 3 d a 0 0
  | .tkstat d a => encX 0x33 4 d a 0 0
  | .red op w a t => encX 0x34 op.code 0 a t (bit w * 2 ^ 3)
  | .capgive d a t => encX 0x35 0 d a t 0
  | .captake a t => encX 0x35 1 0 a t 0
  | .capq d a => encX 0x35 2 d a 0 0
  | .capmode k a t => encX 0x35 3 0 a t (bit k)
  | .vadd f d a b m => encV 0x38 0 f d a b m
  | .vsub f d a b m => encV 0x38 1 f d a b m
  | .vmul f d a b m => encV 0x38 2 f d a b m
  | .vfma f d a b m => encV 0x38 3 f d a b m
  | .vmin f d a b m => encV 0x38 4 f d a b m
  | .vmax f d a b m => encV 0x38 5 f d a b m
  | .vabs f d a m => encV 0x38 6 f d a 0 m
  | .vneg f d a m => encV 0x38 7 f d a 0 m
  | .vexp2 f d a m => encV 0x38 8 f d a 0 m
  | .vrcp f d a m => encV 0x38 9 f d a 0 m
  | .vrsq f d a m => encV 0x38 10 f d a 0 m
  | .vlog2 f d a m => encV 0x38 11 f d a 0 m
  | .vred op f d a m => encV 0x38 12 f d a op.code m
  | .vscan op f d a m => encV 0x38 13 f d a op.code m
  | .vcmp c f k a b m => encV 0x38 14 f (c.code * 2 ^ 3 + k.val) a b m
  | .viadd f d a b m => encV 0x39 0 f d a b m
  | .visub f d a b m => encV 0x39 1 f d a b m
  | .vimul f d a b m => encV 0x39 2 f d a b m
  | .vand f d a b m => encV 0x39 3 f d a b m
  | .vor f d a b m => encV 0x39 4 f d a b m
  | .vxor f d a b m => encV 0x39 5 f d a b m
  | .vshl f d a b m => encV 0x39 6 f d a b m
  | .vshr f d a b m => encV 0x39 7 f d a b m
  | .vsar f d a b m => encV 0x39 8 f d a b m
  | .vimin f d a b m => encV 0x39 9 f d a b m
  | .vimax f d a b m => encV 0x39 10 f d a b m
  | .vsel f d a b m => encV 0x3A 0 f d a b m
  | .vshuf f d a b m => encV 0x3A 1 f d a b m
  | .vbcast f d s m => encV 0x3A 2 f d s 0 m
  | .vmovg f d a i => encV 0x3A 3 f d a i 0
  | .vlane f d s i => encV 0x3A 4 f d s i 0
  | .vmask f k a => encV 0x3A 5 f k a 0 0
  | .vargx f d a x m => encV 0x3A 6 f d a (bit x) m
  | .vrng d b s m => encV 0x3A 7 .i32 d b s m
  | .vcvt r f d a n rm => encV 0x3B 0 f d a (bit r * 2 ^ 4 + n.val) (Fin.ofNat 8 rm.code)
  | .vquant f d a n m => encV 0x3B 1 f d a n m
  | .vdeq f d a n m => encV 0x3B 2 f d a n m
  | .mzero p z => encZ 0 z 0 0 0 (8 + bit p) 0
  | .mma z l a => encZ 1 z l a 0 0 0
  | .mldb l a => encZ 2 0 l a 0 0 0
  | .mrot l x => encZ 3 0 l 0 0 0 x.code
  | .mstz z a => encZ 4 z 0 a 0 0 0
  | .mldz z a => encZ 5 z 0 a 0 0 0
  | .msub x a g w => encZ 6 0 0 a g w.toNat x
  | .mpost a g => encZ 7 0 0 a g 0 0
  | .munsub x => encZ 8 0 0 0 0 0 x
  | .mpois g z l => encZ 9 z l 0 g 0 0
  | .mwait x g => encZ 10 0 0 0 g 0 x
  | .coll a => encX 0x3D 0 0 a 0 0
  | .collwait d a => encX 0x3D 1 d a 0 0
  | .kcmd d a t => encX 0x3E 0 d a t 0
  | .kfence => encX 0x3E 1 0 0 0 0
  | .kstat d a => encX 0x3E 2 d a 0 0
  | .trap n => encS 0 0 0 n.toNat
  | .eret => encS 1 0 0 0
  | .sysr d n => encS 2 d 0 n.toNat
  | .sysw s n => encS 3 0 s n.toNat
  | .sysx d s n => encS 4 d s n.toNat
  | .tlbinv s k c => encS 5 0 s (k.code * 2 ^ 3 + c.code)
  | .halt => encS 6 0 0 0
  | .kill d s => encS 7 d s 0
  | .dlogh => encS 8 0 0 0
  | .sigrd d n => encS 9 d 0 n.toNat
  | _ => 0

/-- The words of an instruction: two for an EXT pair, one for any other, none for an event. -/
def encode (i : Instr) : List InsnWord :=
  match i with
  | .ext _ w2 => [BitVec.ofNat 32 (encodeWord i), w2]
  | _ => if i.isWord then [BitVec.ofNat 32 (encodeWord i)] else []

/-- The bytes of an instruction as the machine stores them (R298). -/
def encodeBytes (i : Instr) : List Byte := (encode i).flatMap fun w => bytesOfWord w.toNat

/-- The instruction the decoder reads from an instruction whose bits are `w`, numbered from the least
significant bit of its first word; bits above `nbits` are zero. -/
def decodeTableWord (nbits w : Nat) : Option Instr :=
  let v := w % 2 ^ nbits
  match decode (bytesOfWord (v % 2 ^ 32) ++ bytesOfWord (v / 2 ^ 32 % 2 ^ 32)) with
  | .ok (i, _) => some i
  | .error _ => none

end Sys2Proof
end

