-- ==== Sys2Proof/Config.lean ====
section
/-! DEFINITION. What the manual leaves open, as opaque constants: no proof can see what they are, so
a claim holds whatever they are. Each is named in `notes/assumptions`. -/

namespace Sys2Proof.Config

/-- Which of the things that may happen next does happen next: read with the state's counter of
choices, modulo the number of candidates (assumption 1). -/
opaque schedule : Nat → Nat

/-- How many tile cycles beyond one pass between one step of the device and the next
(assumption 2). -/
opaque elapsed : Nat → Nat

/-- How many of the cycles that the floor die counts in a step the die of a layer does not, modulo all of them: its loop
runs it slower or its droop detector stretches its cycles (R4, R18, R324, R325; assumption 2). -/
opaque behind : Nat → Nat → Nat

/-- Which of the two faithful neighbours `VEXP2`, `VRCP`, `VRSQ` and `VLOG2` give when the exact
value is not representable (R214, R434): argument 0 is the operation's function number, argument 1
the FP32 input. The choice is one function of the input, as R434 asks (assumption 3). -/
opaque faithfulUp : Nat → BitVec 32 → Bool

/-- The device's private key, which its physically unclonable function gives (R328; assumption 4). -/
opaque deviceKey : Nat

/-- The random numbers that SM2 signatures (true) and exchanges draw (R333, R334; assumption 4). -/
opaque sm2Nonce : Bool → Nat → Nat

/-- The identifiers that the parties of an SM2 exchange have, the device's own (true) and its peer's, which the manual
does not give (R334; assumption 4). -/
opaque sm2Ident : Bool → List (BitVec 8)

/-- The public key, 64 bytes, that a digest stands for (R329; assumption 4). -/
opaque publicKey : BitVec 256 → List (BitVec 8)

/-- Whether the peer's confirmation of an SM2 key exchange agrees (R334 CODE 2; assumption 4). -/
opaque sm2Confirms : List (BitVec 8) → Bool → Nat → Bool

/-- The contents of the identity block's dwords that manufacture fixes: serial, device public key
and Kilgil signature (R332; assumption 5). -/
opaque identity : Nat → BitVec 64

/-- The digest of the steward key held in the replay-protected store at power on, when one is
enrolled (R329; assumption 5). -/
opaque stewardKeyDigest : BitVec 256

/-- The digest of the Kilgil root public key in mask ROM (R328; assumption 5). -/
opaque rootKeyDigest : BitVec 256

/-- A value the manual leaves unspecified, drawn with the state's counter of free values
(assumption 6). -/
opaque freeWord : Nat → BitVec 64

/-- Whether another device refuses a request through one of this device's import windows (R247), and what its
home's check of capabilities finds, 1 a violation and 2 a mode (R163): drawn with the counter of free values
(assumption 6). -/
opaque remoteRefuses : Nat → Bool
/-- Whether such a refusal is a revoked completion (R248; assumption 6). -/
opaque remoteRevokes : Nat → Bool
opaque remoteChecks : Nat → Nat

/-- Whether a frame is still unacknowledged 4096 tc after it was sent (R245): drawn with the counter of free values
(assumption 85). -/
opaque unacknowledged : Nat → Bool

/-- How many correctable errors a link passes before it retrains, a threshold that adapts in hardware (R326): drawn with
the counter of free values (assumption 144). -/
opaque linkThreshold : Nat → Nat
/-- The physical tile whose router counts an optical lane's failed retraining (R326; assumption 144). -/
opaque opticalRouter : Nat → Nat
/-- Whether boot's training of the links finds a lasting fault at a tile (R330 step 5): drawn with the counter of free
values (assumption 144). -/
opaque linkFault : Nat → Nat → Bool

/-- What the ranks of another device bring to a collective (R240, R241): how far they have come, 0 not all joined, 1 a
descriptor that differs, else joined; and the code of an element of a rank with whether it is poisoned. Drawn with the
counter of free values (assumption 6). -/
opaque remoteRanks : Nat → Nat
opaque remoteElem : Nat → Nat → Nat → BitVec 64 × Bool

/-- Whether a posted operation of a context under Avalanche lands or is discarded (R273); drawn
with the counter of free values (assumption 7). -/
opaque landsUnderAvalanche : Nat → Bool

end Sys2Proof.Config
end

