-- ==== Sys2Proof/Machine/Store.lean ====
section
/-! DEFINITION. Sparse storage as plain data: an association list in one canonical form (keys strictly
rising, no entry equal to what an unlisted key reads as), used for memory and for every large array of
the device, so that equal contents are equal data. -/

namespace Sys2Proof

/-- A sparse array: the listed entries, by rising key. -/
abbrev SMap (α : Type) := List (Nat × α)

/-- The value at key `k`; `d` where nothing is listed. -/
def SMap.get {α : Type} (d : α) : SMap α → Nat → α
  | [], _ => d
  | (j, x) :: m, k => if j = k then x else SMap.get d m k

/-- `m` without the entries at `k`. -/
def SMap.erase {α : Type} : SMap α → Nat → SMap α
  | [], _ => []
  | (j, x) :: m, k => if j = k then SMap.erase m k else (j, x) :: SMap.erase m k

/-- `m` with `v` listed at `k`. -/
def SMap.put {α : Type} : SMap α → Nat → α → SMap α
  | [], k, v => [(k, v)]
  | (j, x) :: m, k, v =>
    if j = k then (k, v) :: m
    else if k < j then (k, v) :: (j, x) :: m
    else (j, x) :: SMap.put m k v

/-- `m` reading `v` at `k`: a default value is not listed. -/
def SMap.set {α : Type} [DecidableEq α] (d : α) (m : SMap α) (k : Nat) (v : α) : SMap α :=
  if v = d then SMap.erase m k else SMap.put m k v

/-- Keys strictly above `b` and rising, no default value. -/
def SMap.wfFrom {α : Type} [DecidableEq α] (d : α) : Option Nat → SMap α → Bool
  | _, [] => true
  | b, (j, x) :: m =>
    (match b with
      | none => true
      | some k => decide (k < j)) && !decide (x = d) && SMap.wfFrom d (some j) m

/-- The canonical form. -/
def SMap.wf {α : Type} [DecidableEq α] (d : α) (m : SMap α) : Bool := SMap.wfFrom d none m

end Sys2Proof
end

