-- ==== Sys2Proof/Machine/Records.lean ====
section
/-! DEFINITION. The records that the state of the machine is made of: threads, tiles, partitions, the
floor die and its units, as plain data. -/

namespace Sys2Proof.Machine

/-! ### Threads -/

/-- Why a thread is parked (R90). -/
inductive Park where
  | fullEmpty (cell : Nat)
  | channel (vec any : Bool) (tag : Nat)
  | monitor
  | barrierObject (cell : Nat)
  | pageFault
  | ticket (home : Home)
  | helperJoin (h : Nat)
  | capability
  | work
  | wire (kind : BarKind) (phase : Bool)
  | drain (window : Nat)
  | racing
  deriving DecidableEq, Repr

/-- What a slot holds (R38, R41, R42, R80). `awaiting` is a thread held on a result not yet written, `boundary` one held
for an outcome that only a boundary can supply (R109), `exited` a helper awaiting its join, `stopped` a thread stopped by
an uncorrectable error (R267). -/
inductive SlotSt where
  | free
  | ready
  | held
  | awaiting
  | boundary
  | parked (p : Park)
  | exited (join : Word)
  | stopped
  deriving DecidableEq, Repr

/-- The registers that serve traps, one bank per level (R253). -/
structure TrapBank where
  epc      : Pc
  code     : BitVec 7
  late     : Bool
  tval     : Word
  ppriv    : Priv
  nest     : Bool
  pend     : Bool
  tscratch : Word
  seq      : BitVec 6
  seqV     : Bool
  ringsel  : BitVec 6
  deriving DecidableEq, Repr

/-- A line armed by MONARM (R386): its 256-byte line number and its written bit. -/
structure Monitor where
  line : Nat
  hit  : Bool
  /-- The entry is dropped, and its bit is still to be reported (R387). -/
  gone : Bool
  deriving DecidableEq, Repr

/-- A late fault raised and not yet taken (R259, R260). -/
structure LateFault where
  cause : BitVec 7
  tval  : Word
  ring  : BitVec 6
  deriving DecidableEq, Repr

/-- A leaf as a TLB keeps it (R131, R135). -/
structure TlbEntry where
  tag   : Tag
  vbase : Nat
  log   : Nat
  leaf  : Word
  pte   : Nat
  level : Nat
  dt    : Bool
  dev   : Nat
  deriving DecidableEq, Repr

/-- A thread's registers and what the core keeps of it (R38, R294). -/
structure Thread where
  st      : SlotSt
  pc      : Pc
  g       : Vector Word 64
  a       : Vector Word 16
  p       : BitVec 8
  k       : Vector Word 8
  v       : Vector VWord 32
  priv    : Priv
  fstat   : BitVec 5
  rm      : BitVec 3
  seed    : Word
  sup     : TrapBank
  stw     : TrapBank
  retired : Word
  count   : Nat
  mons    : List Monitor
  /-- The tick at which the wait of the parked instruction expires (R91). -/
  expiry  : Option Nat
  /-- The wait has expired: the instruction completes with its timed-out result. -/
  expired : Bool
  late    : Option LateFault
  /-- A wake with ACT 1: page-fault-unserved is taken at this address (R147). -/
  failed  : Option Word
  /-- An outcome made ready for a held or parked instruction, taken when it reissues. -/
  outcome : Option Word
  /-- Thread-scope fences whose accesses are still ordered: the mask, and the number that the next
  event had at the fence (R161). -/
  fthr    : List (BitVec 8 × Nat)
  /-- g registers that hold a result of the matrix unit (R260). -/
  mres    : List GReg
  /-- A translation whose walk ended and whose checks failed: the reissue meets the failure, and no TLB
  keeps the entry (R137). -/
  walked  : Option TlbEntry
  /-- A late fault that was held pending over a handler is due: its ERET has been executed (R262). -/
  owed    : Bool
  /-- The number that the next event had when the KFENCE that the thread is held at was first tried (R371). -/
  kmark   : Option Nat
  /-- The loads under way that the thread has gone on without: their numbers and what they write (R42, R374). -/
  loads   : List (Nat × LoadDest)
  deriving DecidableEq, Repr

/-! ### Thread pairs (R46) -/

/-- What the leading twin's instruction wrote to its registers. -/
inductive RegWrite where
  | g (r : GReg) (x : Word)
  | a (r : AReg) (x : Word)
  | p (x : BitVec 8)
  | k (r : KReg) (x : Word)
  | v (r : VReg) (x : VWord)
  | fstat (x : BitVec 5)
  deriving DecidableEq, Repr

/-- What the leading twin has passed and the trailing twin has yet to: an instruction that the trailing twin executes on
its own registers, the results of one that it takes from the load-value queue, or a trap, with the level, the bank, the pc
and the privilege level after it. -/
inductive TwinEntry where
  | own (i : Instr)
  | value (writes : List RegWrite) (pc : Pc)
  | trap (level : Priv) (bank : TrapBank) (pc : Pc)
  deriving DecidableEq, Repr

/-- What lies between the twins of a pair: the entries in order, of which the values are the load-value queue; the count of
tc at which a leading twin that waits for its trailing one diverges; and whether the pair has diverged (R46, R277). -/
structure Twin where
  lvq   : List TwinEntry
  limit : Option Nat
  bad   : Bool
  deriving DecidableEq, Repr

/-! ### Storage and translation in a tile -/

/-- A line of the read-only cache (R56). -/
structure RocLine where
  tag  : Tag
  fill : RocFill
  data : List Byte
  deriving DecidableEq, Repr

/-- A line of the write-combining buffer (R129): for each byte written its value, and which nibbles. -/
structure WcLine where
  tag     : Tag
  line    : Nat
  bytes   : SMap (Byte × BitVec 2)
  threads : List Nat
  ptr     : Word
  insn    : InsnWord
  tid     : ThreadId
  opnd    : Word
  deriving DecidableEq, Repr

/-- A range of a footprint pinned in a bank (R67, R70), with the records it displaced (R162). -/
structure Pin where
  path  : Nat
  bank  : Nat
  off   : Nat
  bytes : Nat
  va    : Nat
  out   : Bool
  input : Bool
  saved : List (Nat × Word)
  deriving DecidableEq, Repr

/-- How far a task has come. -/
inductive TaskPhase where
  | fetching
  | running
  | freezing
  | streaming
  /-- Its threads are removed by an Avalanche not yet confirmed. -/
  | ended
  deriving DecidableEq, Repr

/-- The resident task of a tile (R38, R63, R65). `node` is the node record's address, 0 for a task
started by SPAWN; `caller` the context to which REPLY is bound (R229). -/
structure Task where
  tag     : Tag
  root    : Nat
  launch  : Nat
  priv    : Priv
  prio    : Nat
  node    : Nat
  pk      : Nat
  rdm     : Nat
  copy    : Nat
  entry   : Pc
  args    : List Word
  fps     : List Word
  pins    : List Pin
  caller  : Nat
  callTile : Word
  rtag    : Nat
  recalled  : Bool
  /-- It has been recalled since its last delivery: WAITWORK parks until the next (R86). -/
  called    : Bool
  deliv   : Nat
  phase   : TaskPhase
  /-- A page fault of its footprint's fetch was answered with ACT 1: its node fails (R70). -/
  unserved : Bool
  /-- Where a Crossover takes the task. -/
  dest    : Option Nat
  started : Nat
  deriving DecidableEq, Repr

/-- An entry of a tile's work queue (R64): a node, a delivered node or a SPAWN. -/
structure WorkEntry where
  task    : Task
  deliv   : Bool
  spawned : Bool
  fetched : Bool
  deriving DecidableEq, Repr

/-! ### Vector and matrix units -/

/-- An accumulator (R51, R52, R264). -/
structure Acc where
  fp64 : Bool
  data : BitVec 65536
  pois : Bool
  grp  : Nat
  ring : BitVec 6
  deriving DecidableEq, Repr

/-- A latch (R51): the format code and block-length log it was loaded with, its data and scales. -/
structure Latch where
  fmt    : Nat
  klog   : Nat
  data   : BitVec 32768
  scales : BitVec 4096
  pois   : Bool
  ring   : BitVec 6
  deriving DecidableEq, Repr

/-- A latch on its way along a ring (R238): the axis and the tick it arrives at. -/
structure RotCopy where
  axis  : Nat
  at_   : Nat
  latch : Latch
  deriving DecidableEq, Repr

/-- The state of a ring entry (R261). -/
inductive RingSt where
  | queued | done | faulted | cancelled
  deriving DecidableEq, Repr

/-- An entry of the coprocessor ring (R259, R261). -/
structure RingEntry where
  pc     : Pc
  slot   : Nat
  st     : RingSt
  matrix : Bool
  kept   : Bool
  deriving DecidableEq, Repr

/-- An instruction in the queue of the vector or the matrix unit (R45), with what it took at issue:
scalar operands and the cells of its memory operand and scales. -/
structure UnitOp where
  insn   : Instr
  word   : InsnWord
  slot   : Nat
  ring   : BitVec 6
  rm     : BitVec 3
  seed   : Word
  x0     : Word
  x1     : Word
  ptr    : Word
  cells  : List Nat
  scales : List Nat
  struck : Option Nat
  sent   : Bool
  due    : Nat
  deriving DecidableEq, Repr

/-- A subscription of the Infuser (R237). -/
structure Sub where
  on       : Bool
  stream   : Nat
  path     : Nat
  ring     : Nat
  w        : Nat
  tsize    : Nat
  /-- The tiles of its stream, 0 for unbounded. -/
  ntile    : Nat
  arrived  : Nat
  given    : Nat
  released : Nat
  deriving DecidableEq, Repr

/-! ### Engines and homes -/

/-- A copy in a tile's engine queue (R172): rows still to land, as source and destination cells. -/
structure Copy where
  tag    : Tag
  bo     : Nat
  chunks : List (List Nat × List Nat)
  lost   : Bool
  active : Bool
  deriving DecidableEq, Repr

/-- A forwarding entry (R95). -/
structure Forward where
  tag    : Tag
  root   : Nat
  target : Nat
  acked  : Bool
  queue  : List Instr
  expiry : Nat
  limit  : Nat
  deriving DecidableEq, Repr

/-- A redirect entry (R230). -/
structure Redirect where
  tag  : Tag
  old  : Nat
  new_ : Nat
  deriving DecidableEq, Repr

/-- An update in the Caddy (R180, R182). -/
structure CaddyEntry where
  upd    : TkUpd
  ticket : Nat
  deriving DecidableEq, Repr

/-- The state of a ticket window (R187). -/
inductive WinSt where
  | opening | open_ | closing | broken
  deriving DecidableEq, Repr

/-- A ticket window (R176, R178): its granules and homes in region order, its cursors relative to `b`
and its void set. -/
structure TicketWindow where
  id       : Nat
  owner    : Tag
  root     : Nat
  ptr      : Word
  b        : Nat
  n        : Nat
  w8       : Bool
  /-- What its TKOPEN writes, and the slot and the pc of that TKOPEN while it is held for the window (R178). -/
  dest     : GReg
  opener   : Option (Nat × Pc)
  st       : WinSt
  granules : List Nat
  homes    : List Home
  pending  : List Home
  /-- The cursor, relative to `b`, of every cell not listed in `cursors`. -/
  dflt     : Nat
  cursors  : SMap Nat
  void     : List Nat
  caddy    : List CaddyEntry
  deriving DecidableEq, Repr

/-- A Kettle command (R320, R321): the block as read at issue. -/
structure KCommand where
  tid    : ThreadId
  tag    : Tag
  root   : Nat
  block  : Nat
  d0     : Word
  fact   : Word
  fmt    : Nat
  base   : Nat
  map    : BitVec 16
  flags  : BitVec 5
  line   : Nat
  active : Bool
  /-- Its queue entry or cached block is lost (R322). -/
  lost   : Bool
  /-- Its context is killed: it stops after the line in hand and writes no status (R321). -/
  killed : Bool
  /-- The number it was accepted with. -/
  ord    : Nat
  deriving DecidableEq, Repr

/-- A Kettle near-memory unit (R176, R190, R276, R321). -/
structure Kettle where
  dead   : Bool
  queue  : List KCommand
  /-- Its sixteen guest contexts by number, and what waits for one in arrival order: the first 32 in its guest queue, the
  rest in the buffers of the floor channel (R190). -/
  guests : List (Nat × GuestOp)
  waitQ  : List GuestOp
  seq    : Nat
  deriving DecidableEq, Repr

/-- A tile (R38 to R60). -/
structure Tile where
  slots    : SMap Thread
  /-- The slot that issued most recently, and those found held since (R43). -/
  last     : Nat
  tried    : List Nat
  task     : Option Task
  /-- Of a thread-redundant task, by leading slot, what lies between the twins (R46). -/
  twins    : SMap Twin
  workQ    : List WorkEntry
  /-- The blocked node for which its task was pre-empted: the tile starts it next (R106). -/
  reserved : Option Nat
  z        : Vector Acc 4
  l        : Vector Latch 2
  ring     : SMap RingEntry
  ringNext : BitVec 6
  vq       : List UnitOp
  mq       : List UnitOp
  store    : List Message
  roc      : List RocLine
  wcb      : List WcLine
  wcDue    : Nat
  itlb     : List TlbEntry
  dtlb     : List TlbEntry
  dirtyHead : Nat
  dirtyTail : Nat
  /-- Up to where a running merge takes the entries of the dirty log (R142). -/
  mergeTo : Nat
  fwd      : List Forward
  redirs   : List Redirect
  barA     : BitVec 5
  barD     : BitVec 5
  /-- The guests in slots 11 to 15, and what waits for a slot in arrival order: the first eight in the guest queue, the
  rest in the router's input buffers of Piste 3 (R38, R40, R190). -/
  guests   : List (Nat × GuestOp)
  guestQ   : List GuestOp
  engQ     : List Copy
  subs     : SMap Sub
  /-- Latches that have been sent to this tile (R238), and the axes whose next one comes too late. -/
  rotIn    : List RotCopy
  rotSkip  : List Nat
  sendSeq  : SMap Nat
  bkecc    : BitVec 14
  arrived  : Bool
  holdArr  : Bool
  /-- Instructions retired at this tile (R30). -/
  retired  : Nat
  deriving DecidableEq, Repr

/-! ### Contexts and partitions -/

/-- A containment record (R269). -/
structure CtnRec where
  part     : Nat
  d0       : Word
  d1       : Word
  d2       : Word
  d3       : Word
  answered : Bool
  deriving DecidableEq, Repr

/-- A context (R71, R193 to R195, R265, R268, R271). `killed` is the step of its Avalanche: the
tiles whose sweep has not ended; `killer` holds the threads whose KILL waits for the confirmation, `recs` the
records written at the release. -/
structure Ctx where
  live     : Bool
  root     : Nat
  launch   : Nat
  priv     : Priv
  isRoot   : Bool
  surv     : Bool
  logCount : Nat
  logOvf   : Bool
  /-- HALT (R195), with the thread that took posted-fault. -/
  halt     : Option ThreadId
  await    : Nat
  dying    : Bool
  sweeps   : List Nat
  killer   : List (ThreadId × GReg)
  cause    : BitVec 7
  recs     : List CtnRec
  deriving DecidableEq, Repr

/-- The registers of one owner in one partition (R132, R194, R253). -/
structure OwnerRegs where
  ptroot   : Word
  flogb    : Word
  trapbase : Word
  deriving DecidableEq, Repr

/-- A live node record as the graph engine keeps it (R66, R76). -/
structure Node where
  addr   : Nat
  launch : Nat
  state  : Nat
  dwords : List Word
  /-- The entries of the SUCC array still to release, once it has been read (R69). -/
  succ   : Option (List Word)
  /-- The tile at which it diverged: another is chosen when one qualifies (R277). -/
  avoid  : Option Nat
  /-- A number that tells which of two queued nodes has been queued for longer (R98, R104). -/
  seq    : Nat
  /-- The context that ran it, and the contexts that ran its predecessors (R74). -/
  ranBy  : Option Tag
  preds  : List Tag
  deriving DecidableEq, Repr

/-- A launch (R119, R120). -/
structure Launch where
  id      : Nat
  number  : Nat
  owner   : BitVec 8
  ctx     : Nat
  priv    : Priv
  queue   : Nat
  ok      : Nat
  bad     : Nat
  desc    : LaunchDesc
  /-- The roots still to insert, once the array has been read. -/
  todo    : Option (List Word)
  /-- The status of a launch that has ended and whose completion record is not yet written. -/
  ending  : Option Nat
  /-- Its root has been killed (R271). -/
  killed  : Bool
  deriving DecidableEq, Repr

/-- A report the graph engine holds (R121): its launch, the record to take STATE 6 and the node whose release
goes on, once it is written. -/
structure Report where
  lo     : Word
  hi     : Word
  launch : Nat
  fails  : Option Nat
  cont   : Option Nat
  deriving DecidableEq, Repr

/-- An entry of the fault ring (R145): who waits for its wake. -/
inductive FaultFor where
  | thread (t : ThreadId) (tag : Tag)
  | footprint (tile : Nat) (tag : Tag)
  | graph (ev : Instr)
  /-- A dword that the graph engine writes to a record, for a launch root at its level (R446). -/
  | put (tag : Tag) (priv : Priv) (addr : Nat) (v : Word)
  deriving DecidableEq, Repr

/-- A page fault on its way to, or in, the fault ring (R144 to R148). -/
structure FaultRec where
  /-- The cluster agent whose queue it enters (R58). -/
  agent  : Nat
  d0     : Word
  d1     : Word
  d2     : Word
  d3     : Word
  who    : FaultFor
  act    : Option Bool
  void   : Bool
  deriving DecidableEq, Repr

/-- An active or broken stream (R236, R239): its descriptor's cell and virtual address, the subscribers that have
ever joined, those that are joined (tile and subscription), the tiles posted, its launch root and its
publisher. -/
structure Stream where
  desc   : Nat
  va     : Nat
  joins  : Nat
  /-- The contexts that have ever subscribed (R352). -/
  joined : List Tag
  pub    : Option Tag
  tsize  : Nat
  nsub   : Nat
  ntile  : Nat
  subs   : List (Nat × Nat)
  next   : Nat
  broken : Bool
  root   : Tag
  deriving DecidableEq, Repr

/-- A stream tile on its way to one subscriber (R237). -/
structure Delivery where
  id   : Nat
  tile : Nat
  sub  : Nat
  desc : Nat
  n    : Nat
  data : List Byte
  /-- The numbers of its 256-byte lines that carry poison (R263). -/
  pois : List Nat
  deriving DecidableEq, Repr

/-- One participant of a collective (R240): its block's cell and first dwords, its buffers and the cell of its
completion word. -/
structure CollPart where
  tile  : Nat
  tid   : ThreadId
  tag   : Tag
  block : Nat
  rank  : Nat
  d0    : Word
  root  : Nat
  count : Nat
  src   : List Nat
  dst   : List Nat
  done  : Nat
  /-- The number of its joining, by which a later TLBINV is told from an earlier (R140). -/
  ord   : Nat
  deriving DecidableEq, Repr

/-- A collective (R240 to R242, R355): its launch root, its PLIST, the participants so far, the ranks that have
ended, and its status: 0 running, 2 a participant lost, 3 descriptors disagree. -/
structure Collective where
  id     : Nat
  root   : Tag
  plist  : List Word
  parts  : List CollPart
  gone   : List Nat
  status : Nat
  deriving DecidableEq, Repr

/-- A racing request collected in a quantum (R110, R111): its order key and the event that serves it. -/
structure Racing where
  tid  : ThreadId
  lid  : Nat
  slot : Nat
  cnt  : Nat
  ev   : Instr
  deriving DecidableEq, Repr

/-- What a partition hold is for (R31). -/
inductive HoldFor where
  | roleChange
  | retire
  deriving DecidableEq, Repr

/-- A partition hold (R31). -/
structure Hold where
  why   : HoldFor
  begun : Bool
  /-- The floor die's count at its notice, and how far those of the dies were behind it. -/
  since : Nat
  lags  : SMap Nat
  wakes : List ThreadId
  deriving DecidableEq, Repr

/-- A task in the spill area (R83, R106): its slot, and the number under which the state keeps its threads and
its footprint (see `spillTile`). -/
structure Spilled where
  slot : Nat
  at_  : Nat
  tag  : Tag
  col  : Nat
  prio : Nat
  /-- The number of its place in its queue, by which nodes queued before it are told; 0 at the head. -/
  seq  : Nat
  deriving DecidableEq, Repr

/-- A shadow of a die-pair copy (R278): the copies' tiles, layers, digests. -/
structure DiePair where
  node   : Nat
  tags   : List Tag
  layers : List Nat
  slots  : List Nat
  exited : List Bool
  bad    : List Bool
  expiry : Option Nat
  /-- The disagreement that its comparison found has been counted (R280). -/
  counted : Bool
  deriving DecidableEq, Repr

/-- A grace timer that runs (R104): its lead dispenser, the tick it expires at and the blocked node it serves. -/
structure GraceTimer where
  lead : Nat
  at_  : Nat
  node : Nat
  deriving DecidableEq, Repr

/-- A partition (R64, R97, R108, R118, R121, R146, R226, R233, R246, R269, R281, R333). -/
structure Partition where
  mode      : Nat
  qlog      : Nat
  thr       : Nat
  grace     : Nat
  preen     : Bool
  qnum      : Nat
  quanta    : Bool
  rlogb     : Word
  rlogState : Nat
  rlogPaused : Bool
  rlogDiv   : Bool
  rlogHead  : Nat
  rlogTail  : Nat
  rlogDivR  : Word
  rlogTaken : List Nat
  spillb    : Word
  grqb      : Word
  grqHead   : Nat
  grqTail   : Nat
  fltb      : Word
  fltHead   : Nat
  fltSent   : Nat
  faultQ    : List FaultRec
  faults    : List FaultRec
  ctnb      : Word
  ctnHead   : Nat
  ctnRecs   : List CtnRec
  rdncfg    : Word
  pistecfg  : Word
  winb      : Word
  expb      : Word
  wincmd    : Word
  winBusy   : Bool
  barctl    : BitVec 14
  attcmd    : Word
  attBusy   : Bool
  attCode   : Nat
  attOwner  : Nat
  /-- The report address that the running command took at its GO. -/
  attAt     : Nat
  nodes     : List Node
  launches  : List Launch
  colQ      : SMap (List Nat)
  partQ     : SMap (List Nat)
  reports   : List Report
  /-- Accesses of the graph engine that a wake has declared failed (R147, R446). -/
  gfail     : List Instr
  /-- The translations that the graph engine caches (R446). -/
  gtlb      : List TlbEntry
  /-- Launches that a wake lets go on (R446). -/
  gwoke     : List Instr
  streams   : List Stream
  colls     : List Collective
  racing    : List Racing
  wakes     : List ThreadId
  boundary  : Option Nat
  halted    : Bool
  hold      : Option Hold
  graceAt   : List GraceTimer
  spilled   : List Spilled
  pairs     : List DiePair
  zmap      : List Nat
  deriving DecidableEq, Repr

/-! ### The floor die -/

/-- A port's key entry for an owner (R244), with the frames sent and not yet acknowledged. -/
structure PortKey where
  v     : Bool
  ep    : Bool
  keys  : List (Option (BitVec 256))
  txseq : Nat
  rxseq : Nat
  rxep  : Bool
  /-- By epoch: an exchange has installed its keys, and no frame under them has arrived yet (R335). -/
  fresh : BitVec 2
  drop  : Nat
  tries : SMap Nat
  lost  : Bool
  deriving DecidableEq, Repr

/-- A thread that waits at a full/empty word, in arrival order (R169): where it waits, and whether it needs
the word full. -/
structure FeWait where
  tid  : ThreadId
  pc   : Pc
  full : Bool
  deriving DecidableEq, Repr

/-- A notice of the Lift link (R251). -/
structure Notice where
  lo : Word
  hi : Word
  deriving DecidableEq, Repr

/-- A queue pair of the Lift link (R250): owner tag, host proxy context, submission ring as the host
wrote it, completion ring as the device wrote it, notices held. -/
structure LiftQueue where
  owner  : BitVec 8
  proxy  : Nat
  subm   : List LaunchDesc
  compl  : List Notice
  room   : Nat
  held   : List Notice
  answers : List (List Byte)
  deriving DecidableEq, Repr

/-- A packet in the routers (R222, R223): where it is, whether it crossed the dateline, whether it is
on the escape channels, and what happens when it arrives. -/
structure Packet where
  id     : Nat
  piste  : Nat
  src    : Nat
  dst    : Nat
  cur    : Nat
  /-- The dimension of the last hop; 3 before the first. -/
  dim    : Nat
  v1     : Bool
  escape : Bool
  tag    : Tag
  ev     : Instr
  deriving DecidableEq, Repr

/-- An event counter of a structure (R274). -/
structure EventCount where
  count : Nat
  start : Nat
  deriving DecidableEq, Repr

/-- The floor die's registers and controllers (R25 to R33, R162, R253, R327 to R334). -/
structure Floor where
  role      : BitVec 16
  pdescs    : Vector Word 8
  newRole   : BitVec 16
  rolePart  : BitVec 3
  roleDiscard : Bool
  roleForce : Bool
  roleDlim  : BitVec 5
  roleflb   : Word
  rolerec   : Word
  roleStep  : Nat
  roleBusy  : Bool
  roleCode  : Nat
  roleAffect : BitVec 16
  rolePoison : Bool
  roleStop  : Bool
  roleDrain : Nat
  /-- What the running sequence took from ROLECMD at its GO. -/
  seqRole   : BitVec 16
  seqPart   : Nat
  seqDiscard : Bool
  seqForce  : Bool
  mhz       : Nat
  captb     : Word
  trapbase  : Word
  keycmd    : Word
  keyBusy   : Bool
  keyCode   : Nat
  keyaddr   : Word
  /-- KEYCMD and KEYADDR as they were at the GO of the running command. -/
  keyRun    : Word
  keyRunAt  : Word
  keyDone   : Nat
  attCount  : Nat
  /-- Whether a firmware image runs, and from which slot (R330, R331). -/
  fwUp      : Bool
  fws       : Bool
  cfs       : Bool
  enrolled  : Bool
  recovery  : Bool
  flash     : Vector Image 4
  fwSeq     : Nat
  cfSeq     : Nat
  steward   : Option (BitVec 256)
  fwRun     : Image
  cfRun     : Image
  device    : Nat
  coreRet   : List Nat
  routRet   : List Nat
  /-- The clusters whose agent is retired (R59, R275). -/
  agentRet  : List Nat
  boxes     : List (Nat × Nat)
  ports     : SMap PortKey
  routes    : List (Nat × Nat)
  lift      : Vector LiftQueue 9
  sensors   : SMap SensorReading
  gaps      : SMap GapReading
  sensorIn  : List SensorReading
  gapIn     : List GapReading
  /-- The dies whose clock is halved (R324). -/
  half      : List Nat
  cool      : Bool
  retrain   : List Nat
  /-- The correctable errors of each link since it last retrained (R326). -/
  linkErrs  : SMap Nat
  ctnWait   : List CtnRec
  /-- Lasting faults decided and not yet in effect (R37, R275). -/
  retireQ   : List Unit_
  violations : Nat
  deriving DecidableEq, Repr

/-- An event waiting to happen: its number, the earliest tick, the event. -/
structure Pending where
  id  : Nat
  due : Nat
  ev  : Instr
  deriving DecidableEq, Repr

end Sys2Proof.Machine
end

