-- ==== Sys2Proof/Machine/State.lean ====
section
/-! DEFINITION. The state of the device as plain data, the reasons a step can stop, and the state after
reset: the device released by boot (R330 step 6) with the default configuration (assumption 9). -/

namespace Sys2Proof.Machine

/-- Why the machine stops. -/
inductive Fault where
  /-- Raised by any access, by software or by a unit of the device, to a physical HBM address at or
  above 384 GiB (R2): the manual gives no such storage and no outcome. Safe: the run ends. -/
  | noSuchStorage (pa : Nat)
  deriving DecidableEq, Repr

/-- What the model gives no meaning. -/
inductive Refusal where
  /-- Raised by the dispatch for an instruction without a meaning yet. Safe: the run ends. -/
  | notModelled (mnemonic : String)
  deriving DecidableEq, Repr

/-- The whole device. -/
structure State where
  /-- The cycles that the floor die has counted since reset, on the ungated clock (R44, R296). -/
  now     : Nat
  /-- By layer, how far the count of a die is behind the floor die's: its loop runs it slower, and its droop detector
  stretches its cycles (R4, R18, R324, R325). -/
  lags    : SMap Nat
  /-- The thread whose instruction executes, and the tile from which what happens now comes. -/
  cur     : ThreadId
  src     : Nat
  /-- By thread, the tile from which its last wake came, as its number plus one: what the record log names (R115). -/
  wakers  : SMap Nat
  /-- The model's own counters: of choices, of free values, of event numbers. -/
  choices : Nat
  frees   : Nat
  nextId  : Nat
  /-- The address of an access to storage that does not exist, met in this step. -/
  stray   : Option Nat
  /-- Events that wait to happen, oldest first. -/
  agenda  : List Pending
  /-- Requests that have left through import windows and await their completions: the event that stands for the
  completion, the partition and the window (R246). -/
  sent    : List (Nat × Nat × Nat)
  /-- Packets in the routers. -/
  packets : List Packet
  /-- Bytes: HBM, banks and side bytes, by cell. -/
  mem     : List Host.Cell
  /-- Full/empty bits by word: listed where full (R168). -/
  fe      : SMap Bool
  /-- The waiters of a full/empty word, in arrival order (R169). -/
  feq     : SMap (List FeWait)
  /-- Words holding an uncorrectable error; and, by line, which of its words do, in the order they became poisoned, each
  with the tag the line had then: the first gives the line's poison tag (R267). -/
  pois    : SMap Bool
  poisTag : SMap (List (Nat × Nat))
  /-- The tag of the context that last wrote a bank line (R266). -/
  lineTag : SMap Nat
  /-- Bank granules: ECC mode, capability record, vacated mark (R151, R162, R445). -/
  gmode   : SMap Nat
  bankCap : SMap Word
  vacated : SMap Bool
  tiles   : SMap Tile
  ctxs    : SMap Ctx
  owners  : SMap OwnerRegs
  parts   : Vector Partition 8
  kettles : SMap Kettle
  /-- Second-level TLBs, by cluster (R131). -/
  l2      : SMap (List TlbEntry)
  /-- The misses each cluster agent has admitted, in arrival order: the first two are in its walkers, up to sixteen
  wait (R131); and the tile whose held miss it admitted last, as its number plus one. -/
  walks    : SMap (List WalkReq)
  walkLast : SMap Nat
  windows : List TicketWindow
  deliveries : List Delivery
  counts  : SMap EventCount
  floor   : Floor
  deriving DecidableEq, Repr

/-! ### The values at reset -/

def TrapBank.zero : TrapBank :=
  { epc := 0, code := 0, late := false, tval := 0, ppriv := .task, nest := false, pend := false
    tscratch := 0, seq := 0, seqV := false, ringsel := 0 }

/-- A free slot: every register zero (R39, R294). -/
def Thread.zero : Thread :=
  { st := .free, pc := 0, g := Vector.replicate 64 0, a := Vector.replicate 16 0, p := 0
    k := Vector.replicate 8 0, v := Vector.replicate 32 0, priv := .task, fstat := 0, rm := 0
    seed := 0, sup := TrapBank.zero, stw := TrapBank.zero, retired := 0, count := 0, mons := []
    expiry := none, expired := false, late := none, failed := none, outcome := none, fthr := [], mres := [], kmark := none
    walked := none, owed := false, loads := [] }

/-- A zeroed accumulator has the FP32 format (R52). -/
def Acc.zero : Acc := { fp64 := false, data := 0, pois := false, grp := 0, ring := 0 }

/-- A zeroed latch holds FP32 data with no scales (R52). -/
def Latch.zero : Latch := { fmt := 0x09, klog := 0, data := 0, scales := 0, pois := false, ring := 0 }

def RingEntry.zero : RingEntry := { pc := 0, slot := 0, st := .queued, matrix := false, kept := false }

def Sub.zero : Sub :=
  { on := false, stream := 0, path := 0, ring := 0, w := 0, tsize := 0, ntile := 0, arrived := 0, given := 0
    released := 0 }

def Twin.zero : Twin := { lvq := [], limit := none, bad := false }

/-- A tile at reset. R43 does not say which slot `last` names before any thread has issued: here slot 0, so that slot 1 is
tried first (assumption 120). -/
def Tile.zero : Tile :=
  { slots := [], last := 0, tried := [], task := none, twins := [], workQ := [], reserved := none, z := Vector.replicate 4 Acc.zero
    l := Vector.replicate 2 Latch.zero, ring := [], ringNext := 0, vq := [], mq := [], store := []
    roc := [], wcb := [], wcDue := 0, itlb := [], dtlb := [], dirtyHead := 0
    dirtyTail := 0, mergeTo := 0, fwd := [], redirs := [], barA := 0, barD := 0, guests := [], guestQ := []
    engQ := [], subs := [], rotIn := [], rotSkip := [], sendSeq := [], bkecc := 0, arrived := false
    holdArr := false, retired := 0 }

def Ctx.zero : Ctx :=
  { live := false, root := 0, launch := 0, priv := .task, isRoot := false, surv := false
    logCount := 0, logOvf := false, halt := none, await := 0, dying := false, sweeps := []
    killer := [], cause := 0, recs := [] }

def OwnerRegs.zero : OwnerRegs := { ptroot := 0, flogb := 0, trapbase := 0 }

def Kettle.zero : Kettle := { dead := false, queue := [], guests := [], waitQ := [], seq := 0 }

def EventCount.zero : EventCount := { count := 0, start := 0 }

def PortKey.zero : PortKey :=
  { v := false, ep := false, keys := [none, none], txseq := 0, rxseq := 0, rxep := false, fresh := 0, drop := 0
    tries := [], lost := false }

/-- A partition right after reset (R108, R118, R121, R146, R226, R233, R246, R270, R281, R333). -/
def Partition.zero : Partition :=
  { mode := 0, qlog := 16, thr := 0, grace := 4096, preen := true, qnum := 0, quanta := false
    rlogb := 0x4000000000000000#64, rlogState := 0, rlogPaused := false, rlogDiv := false
    rlogHead := 0, rlogTail := 0, rlogDivR := 0, rlogTaken := [], spillb := 0
    grqb := 0, grqHead := 0, grqTail := 0, fltb := 0, fltHead := 0, fltSent := 0, faultQ := []
    faults := [], ctnb := 0, ctnHead := 0, ctnRecs := [], rdncfg := 0x1400000000000000#64
    pistecfg := 0, winb := 0, expb := 0, wincmd := 0, winBusy := false, barctl := 0, attcmd := 0
    attBusy := false, attCode := 0, attOwner := 0, attAt := 0, nodes := [], launches := [], colQ := [], partQ := []
    reports := [], gtlb := [], gfail := [], gwoke := [], streams := [], colls := [], racing := [], wakes := [], boundary := none
    halted := false, hold := none, graceAt := [], spilled := [], pairs := [], zmap := [] }

/-- The body of the configuration image of the default partition (R2, R19): one partition of the eight
pairs, lower dies compute; nothing retired; every queue owner tag 0 (assumption 9). -/
def CfgBody.default : CfgBody :=
  { roles := 0x5555, parts := [(0, 7)], retired := [], boxed := []
    liftOwn := [0, 0, 0, 0, 0, 0, 0, 0, 0], liftCtx := [0, 0, 0, 0, 0, 0, 0, 0, 0]
    routes := [], device := 0 }

def Image.blank (kind : Nat) : Image :=
  { kind := kind, seq := 0, signer := 0, bytes := BitVec.ofNat 8 kind :: List.replicate 63 0, sig := [], cfg := CfgBody.default }

/-- A notice ring has no stated size: the host provides it, and the room it leaves is an input. -/
def LiftQueue.zero : LiftQueue :=
  { owner := 0, proxy := 0, subm := [], compl := [], room := 256, held := [], answers := [] }

def SensorReading.zero : SensorReading := { die := 0, temps := #v[25, 25, 25, 25], mhz := 2500, watts := 0 }
def GapReading.zero : GapReading := { gap := 0, inlet := 25, outlet := 25, flowMl := 8000 }

def Floor.reset : Floor :=
  { role := 0x5555, pdescs := #v[1137, 0, 0, 0, 0, 0, 0, 0], newRole := 0, rolePart := 0
    roleDiscard := false, roleForce := false, roleDlim := 22, roleflb := 0, rolerec := 0
    roleStep := 0, roleBusy := false, roleCode := 0, roleAffect := 0, rolePoison := false
    roleStop := false, roleDrain := 0, seqRole := 0, seqPart := 0, seqDiscard := false, seqForce := false, mhz := 2500, captb := 0, trapbase := 0, keycmd := 0
    keyBusy := false, keyCode := 0, keyaddr := 0, keyRun := 0, keyRunAt := 0, keyDone := 0, attCount := 0, fwUp := true, fws := false
    cfs := false, enrolled := false, recovery := false
    flash := #v[Image.blank 1, Image.blank 1, Image.blank 2, Image.blank 2], fwSeq := 0, cfSeq := 0
    steward := some Config.stewardKeyDigest, fwRun := Image.blank 1, cfRun := Image.blank 2
    device := 0, coreRet := [], routRet := [], agentRet := [], boxes := [], ports := [], routes := []
    lift := Vector.replicate 9 LiftQueue.zero, sensors := [], gaps := [], sensorIn := [], gapIn := [], half := [], cool := false
    retrain := [], linkErrs := []
    ctnWait := [], retireQ := [], violations := 0 }

/-- The device right after reset: released by boot with the default configuration, no launch made, no
thread live. -/
def State.reset : State :=
  { now := 0, lags := [], cur := { tile := 0, slot := 0 }, src := 0, wakers := [], choices := 0, frees := 0, nextId := 1, stray := none
    agenda := [{ id := 0, due := 2 ^ 16, ev := .sensorSample }], sent := [], packets := [], mem := [], fe := [], feq := [], pois := [], poisTag := [], lineTag := []
    gmode := [], bankCap := [], vacated := [], tiles := [], ctxs := [], owners := []
    parts := (Vector.replicate 8 Partition.zero).set 0
      { Partition.zero with zmap := [0, 2, 4, 6, 8, 10, 12, 14] }
    kettles := [], l2 := [], walks := [], walkLast := [], windows := [], deliveries := [], counts := [], floor := Floor.reset }

end Sys2Proof.Machine
end

