-- ==== Sys2Proof/Machine/Ops.lean ====
section
/-! DEFINITION. The named operations over the parts of the state: tiles, threads, registers, storage,
events, wakes; retiring, holding and parking an instruction; taking a trap and returning from one. -/

namespace Sys2Proof.Machine

/-! ### Tiles and partitions -/

/-- Physical tile numbers are x + 16y + 256z (R12). -/
def tileX (n : Nat) : Nat := n % 16
def tileY (n : Nat) : Nat := n / 16 % 16
def tileZ (n : Nat) : Nat := n / 256 % 16
def mkTile (x y z : Nat) : Nat := x + 16 * y + 256 * z

def State.tile (s : State) (n : Nat) : Tile := SMap.get Tile.zero s.tiles n
def State.setTile (s : State) (n : Nat) (t : Tile) : State :=
  { s with tiles := SMap.set Tile.zero s.tiles n t }
def State.modTile (s : State) (n : Nat) (f : Tile → Tile) : State := s.setTile n (f (s.tile n))

/-- Partition `p`, numbered modulo 8. -/
def State.part (s : State) (p : Nat) : Partition := s.parts[p % 8]'(Nat.mod_lt _ (by decide))
def State.setPart (s : State) (p : Nat) (x : Partition) : State :=
  { s with parts := s.parts.set (p % 8) x (Nat.mod_lt _ (by decide)) }
def State.modPart (s : State) (p : Nat) (f : Partition → Partition) : State :=
  s.setPart p (f (s.part p))

/-- Every tile changed by `f`, which leaves a zero tile zero. -/
def State.mapTiles (s : State) (f : Nat → Tile → Tile) : State :=
  { s with tiles := s.tiles.map fun (e : Nat × Tile) => (e.1, f e.1 e.2) }

def State.modFloor (s : State) (f : Floor → Floor) : State := { s with floor := f s.floor }

/-- Partition descriptor n (R26). -/
def State.pdesc (s : State) (n : Nat) : Word := s.floor.pdescs[n % 8]'(Nat.mod_lt _ (by decide))
def pdescValid (d : Word) : Bool := bitAt d 0
def pdescFirst (d : Word) : Nat := bits d 3 1
def pdescLast (d : Word) : Nat := bits d 6 4
def pdescNcomp (d : Word) : Nat := bits d 10 7

/-- The layers of partition n (R19). -/
def State.layers (s : State) (n : Nat) : List Nat :=
  let d := s.pdesc n
  if pdescValid d then
    (List.range 16).filter fun z => pdescFirst d ≤ z / 2 && z / 2 ≤ pdescLast d
  else []

/-- The partition of a layer, where it lies in one (R19). -/
def State.partOfLayer (s : State) (z : Nat) : Option Nat :=
  (List.range 8).find? fun n => (s.layers n).contains z

/-- The partition of a tile. -/
def State.partOfTile (s : State) (t : Nat) : Option Nat := s.partOfLayer (tileZ t)

/-- Whether a layer has the compute role (R26). -/
def State.computes (s : State) (z : Nat) : Bool := s.floor.role.getLsbD z

/-- Whether a tile is retired, in either kind (R35). -/
def State.retiredTile (s : State) (t : Nat) : Bool :=
  s.floor.coreRet.contains t || s.floor.routRet.contains t

/-- A live compute tile of partition n. -/
def State.computeTile (s : State) (n t : Nat) : Bool :=
  t < 4096 && (s.layers n).contains (tileZ t) && s.computes (tileZ t) && !s.retiredTile t

/-- Every tile of partition n, by layer, y, x. -/
def State.tilesOf (s : State) (n : Nat) : List Nat :=
  (s.layers n).flatMap fun z => (List.range 256).map fun i => i + 256 * z

/-- The live compute tiles of partition n by logical z, y, x: the list's index is the logical tile id
(R24). -/
def State.liveTiles (s : State) (n : Nat) : List Nat :=
  ((s.part n).zmap.flatMap fun z => (List.range 256).map fun i => i + 256 * z).filter
    fun t => !s.retiredTile t

/-- The logical tile id (R24). -/
def State.logicalId (s : State) (n t : Nat) : Nat := (s.liveTiles n).findIdx (· == t)

/-- Logical z of a layer: its rank in the logical map (R22). -/
def State.logicalZ (s : State) (n z : Nat) : Nat := (s.part n).zmap.findIdx (· == z)

/-- The live tile at a logical position, or its stand-in (R23). -/
def State.atLogical (s : State) (n x y z : Nat) : Option Nat :=
  match (s.part n).zmap[z]? with
  | none => none
  | some pz =>
    let at_ := x + 16 * y
    ((List.range 256).map fun i => (at_ + i) % 256 + 256 * pz).find? fun t => !s.retiredTile t

/-- The logical tile ID of a tile, with the device number (R22, R296). -/
def State.tileId (s : State) (t : Nat) : Word :=
  let n := (s.partOfTile t).getD 0
  BitVec.ofNat 64 (tileX t + 16 * tileY t + 256 * s.logicalZ n (tileZ t) + 65536 * s.floor.device)

/-- The bank that serves path 1, 2 or 3 of a tile, where the local store holds it (R15, R53). -/
def State.bankOf (s : State) (t path : Nat) : Option Nat :=
  let z := tileZ t
  let lower := z % 2 == 0
  let counts (z' : Nat) : Option Nat :=
    let b := t % 256 + 256 * z'
    if z' < 16 && !s.computes z' && (s.partOfLayer z').isSome &&
        s.partOfLayer z' == s.partOfLayer z && !s.retiredTile b
    then some b else none
  match path with
  | 1 => some t
  | 2 => counts (if lower then z + 1 else z - 1)
  | 3 => if lower then (if z = 0 then none else counts (z - 1)) else counts (z + 1)
  | _ => none

/-- The bank that a path of a tile names; for a spilled task, the place of its granules in the slot. -/
def State.bankFor (s : State) (tile path : Nat) : Option Nat :=
  if tile < 4096 then s.bankOf tile path else some (tile + 4096 * 256 * path)

/-- The tiles of the column of a tile (R60). -/
def State.column (s : State) (t : Nat) : List Nat :=
  match s.partOfTile t with
  | some n => (s.layers n).map fun z => t % 256 + 256 * z
  | none => []

/-- The cluster of a tile on its layer (R58), and the tiles of one cluster. -/
def clusterOf (t : Nat) : Nat := tileY t / 4 * 4 + tileX t / 4 + 16 * tileZ t
def clusterTiles (c : Nat) : List Nat :=
  (List.range 16).map fun i => mkTile (c % 4 * 4 + i % 4) (c / 4 % 4 * 4 + i / 4) (c / 16)

/-! ### Threads and their registers -/

def Tile.thread (t : Tile) (slot : Nat) : Thread := SMap.get Thread.zero t.slots slot
def Tile.setThread (t : Tile) (slot : Nat) (x : Thread) : Tile :=
  { t with slots := SMap.set Thread.zero t.slots slot x }

def State.thread (s : State) (t : ThreadId) : Thread := (s.tile t.tile).thread t.slot
def State.setThread (s : State) (t : ThreadId) (x : Thread) : State :=
  s.modTile t.tile fun ti => ti.setThread t.slot x
def State.modThread (s : State) (t : ThreadId) (f : Thread → Thread) : State :=
  s.setThread t (f (s.thread t))

/-- The executing thread. -/
def State.me (s : State) : Thread := s.thread s.cur
def State.modMe (s : State) (f : Thread → Thread) : State := s.modThread s.cur f
def State.myTile (s : State) : Tile := s.tile s.cur.tile
def State.modMyTile (s : State) (f : Tile → Tile) : State := s.modTile s.cur.tile f

/-- g0 reads 0; a write to it is discarded (R286, R294). -/
def Thread.getG (t : Thread) (r : GReg) : Word := if r = 0 then 0 else t.g[r]
def Thread.setG (t : Thread) (r : GReg) (v : Word) : Thread :=
  -- what it held is gone, a matrix result too (R260)
  if r = 0 then t else { t with g := t.g.set r v, mres := t.mres.filter (· ≠ r) }
def Thread.getA (t : Thread) (r : AReg) : Word := t.a[r]
def Thread.setA (t : Thread) (r : AReg) (v : Word) : Thread := { t with a := t.a.set r v }
/-- p0 reads 1; a write to it is discarded. -/
def Thread.getP (t : Thread) (r : PReg) : Bool := r = 0 || t.p.getLsbD r
def Thread.setP (t : Thread) (r : PReg) (b : Bool) : Thread :=
  if r = 0 then t else { t with p := setBit t.p r b }
/-- k0 reads all ones; a write to it is discarded. -/
def Thread.getK (t : Thread) (r : KReg) : Word := if r = 0 then BitVec.allOnes 64 else t.k[r]
def Thread.setK (t : Thread) (r : KReg) (v : Word) : Thread :=
  if r = 0 then t else { t with k := t.k.set r v }
def Thread.getV (t : Thread) (r : VReg) : VWord := t.v[r]
def Thread.setV (t : Thread) (r : VReg) (v : VWord) : Thread := { t with v := t.v.set r v }

def State.g (s : State) (r : GReg) : Word := s.me.getG r
def State.setG (s : State) (r : GReg) (v : Word) : State := s.modMe (·.setG r v)

/-! ### Contexts -/

def tagOwner (t : Tag) : Nat := bits t 23 16
def tagPart (t : Tag) : Nat := bits t 15 13
def tagCtx (t : Tag) : Nat := bits t 12 0
def mkTag (owner part ctx : Nat) : Tag :=
  BitVec.ofNat 24 (ctx % 8192 + part % 8 * 2 ^ 13 + owner % 256 * 2 ^ 16)

def State.ctx (s : State) (t : Tag) : Ctx := SMap.get Ctx.zero s.ctxs t.toNat
def State.modCtx (s : State) (t : Tag) (f : Ctx → Ctx) : State :=
  { s with ctxs := SMap.set Ctx.zero s.ctxs t.toNat (f (s.ctx t)) }

/-- The containment tag of the context a thread belongs to: its tile's resident task's. -/
def State.tagOf (s : State) (t : ThreadId) : Tag :=
  match (s.tile t.tile).task with
  | some k => k.tag
  | none => 0
def State.myTag (s : State) : Tag := s.tagOf s.cur
def State.myPart (s : State) : Nat := (s.partOfTile s.cur.tile).getD 0
def State.rootOf (s : State) (t : Tag) : Nat := (s.ctx t).root
/-- The tag of the launch root of a context. -/
def State.rootTag (s : State) (t : Tag) : Tag := mkTag (tagOwner t) (tagPart t) (s.ctx t).root

/-- The registers of the owner of a tag in its partition (R132). -/
def ownerKey (t : Tag) : Nat := t.toNat / 2 ^ 13
def State.owner (s : State) (t : Tag) : OwnerRegs := SMap.get OwnerRegs.zero s.owners (ownerKey t)
def State.modOwner (s : State) (t : Tag) (f : OwnerRegs → OwnerRegs) : State :=
  { s with owners := SMap.set OwnerRegs.zero s.owners (ownerKey t) (f (s.owner t)) }

def State.kettle (s : State) (u : Nat) : Kettle := SMap.get Kettle.zero s.kettles u
def State.modKettle (s : State) (u : Nat) (f : Kettle → Kettle) : State :=
  { s with kettles := SMap.set Kettle.zero s.kettles u (f (s.kettle u)) }

/-- Every Kettle unit changed by `f`, which leaves a zero unit zero. -/
def State.mapKettles (s : State) (f : Kettle → Kettle) : State :=
  { s with kettles := s.kettles.map fun (e : Nat × Kettle) => (e.1, f e.2) }

/-! ### Storage -/

/-- The size of HBM: 384 GiB (R2). -/
def hbmSize : Nat := 384 * 2 ^ 30

/-- The cell of a bank's byte: bit 63 set, the tile in bits 53:22, the offset below (R269). -/
def bankCell (tile off : Nat) : Nat := 2 ^ 63 + tile * 2 ^ 22 + off % 2 ^ 22

/-- The cell of a side byte of a bank (R153, R155). -/
def sideCell (tile off : Nat) : Nat := 2 ^ 64 + tile * 2 ^ 20 + off % 2 ^ 20

def isBankCell (c : Nat) : Bool := 2 ^ 63 ≤ c && c < 2 ^ 64
def isSideCell (c : Nat) : Bool := 2 ^ 64 ≤ c
def isHbmCell (c : Nat) : Bool := c < hbmSize
/-- The bank of a bank or side cell. -/
def cellBank (c : Nat) : Nat := if isSideCell c then (c - 2 ^ 64) / 2 ^ 20 else (c - 2 ^ 63) / 2 ^ 22
/-- The data granule a cell belongs to, as granule number (R153, R162). -/
def cellGranule (c : Nat) : Nat :=
  if isSideCell c then bankCell (cellBank c) ((c - 2 ^ 64) % 2 ^ 20 * 4) / 4096 else c / 4096

/-- A byte (R155); storage nothing has written reads zero. -/
def State.byte (s : State) (c : Nat) : Byte := SMap.get 0 s.mem c
/-- The canonical form of the list of bytes: cells strictly rising, no byte equal to what an unlisted cell reads as. -/
def Memory.wf (m : List Host.Cell) : Bool := SMap.wf 0 m
/-- Storage that does not exist is met: the step ends in a fault. -/
def State.touch (s : State) (c : Nat) : State :=
  if isHbmCell c || 2 ^ 63 ≤ c then s else { s with stray := some c }
def State.setByte (s : State) (c : Nat) (b : Byte) : State :=
  { s.touch c with mem := SMap.set 0 s.mem c b }

/-- The number in `n` bytes at a cell, little-endian (R6). -/
def State.readN (s : State) (c n : Nat) : Nat :=
  natOfBytes ((List.range n).map fun i => s.byte (c + i))
def State.read64 (s : State) (c : Nat) : Word := BitVec.ofNat 64 (s.readN c 8)
def State.readBytes (s : State) (cells : List Nat) : List Byte := cells.map s.byte

/-- Whether a word of these cells holds an uncorrectable error (R267). -/
def State.poisoned (s : State) (cells : List Nat) : Bool :=
  cells.any fun c => SMap.get false s.pois (c / 8)

/-- The poison tag of a line: the tag it had when the oldest of its still poisoned words became poisoned (R267). -/
def State.poisonTag (s : State) (line : Nat) : Nat := (((SMap.get [] s.poisTag line).head?).map (·.2)).getD 0

/-- The tag of the data at a cell: a bank line's poison tag, or the holder of an HBM granule (R267). -/
def State.poisonOwner (s : State) (c : Nat) : Tag :=
  if isBankCell c then BitVec.ofNat 24 (s.poisonTag (c / 256))
  else BitVec.ofNat 24 (s.read64 (bits s.floor.captb 50 30 * 2 ^ 30 + c / 4096 * 8)).toNat

/-- The cells a load reads, the data's and the scales'. -/
def destCells : LoadDest → List Nat
  | .raw _ _ cs => cs
  | .elem _ _ _ src => src.cells ++ src.scale.toList
  | .lanes _ _ _ srcs => srcs.flatMap fun x => x.cells ++ x.scale.toList

/-- Before an error meets a word, the loads that their threads have gone on without read what they ask of it: a trap that
such a load raised would no longer be exact (R156, R258; assumption 12). -/
def State.readBefore (s : State) (w : Nat) : State :=
  let take (r : LoadReq) : LoadReq :=
    let cs := (destCells r.dest).filter fun c => c / 8 == w && !r.got.any fun e => e.1 == c
    { r with got := r.got ++ cs.map fun c => (c, s.byte c) }
  { s with agenda := s.agenda.map fun q => match q.ev with
      | .loadResponse r => if r.gone then { q with ev := .loadResponse (take r) } else q
      | _ => q }

/-- Poison on a word; where it was clean, with the tag its line has now (R267). -/
def State.poisonWord (s : State) (c : Nat) : State :=
  let s := s.readBefore (c / 8)
  let line := c / 256
  let had := SMap.get [] s.poisTag line
  let s := { s with pois := SMap.set false s.pois (c / 8) true }
  if had.any fun e => e.1 == c / 8 % 32 then s
  else { s with poisTag := SMap.set [] s.poisTag line (had ++ [(c / 8 % 32, SMap.get 0 s.lineTag line)]) }

/-- A word is clean again, and no longer counts for its line's poison tag. -/
def State.unpoison (s : State) (c : Nat) : State :=
  let line := c / 256
  { s with
    pois := SMap.set false s.pois (c / 8) false
    poisTag := SMap.set [] s.poisTag line ((SMap.get [] s.poisTag line).filter fun e => e.1 ≠ c / 8 % 32) }

/-! ### Links (R326) -/

/-- Numbers of links: those of tile `t` are 8t + 2d + 1 upward and 8t + 2d downward in dimension d; the two optical lanes
of port p are `opticalLink` + 2p and the next. -/
def linkUp (t d : Nat) (up : Bool) : Nat := 8 * t + 2 * d + (if up then 1 else 0)
def opticalLink : Nat := 32768

/-- The tile whose router counts a link's failed retraining (R326; of an optical lane, assumption 144). -/
def linkTile (l : Nat) : Nat := if l < opticalLink then l / 8 else Config.opticalRouter l % 4096

/-- Where a link is, as records show it (R269 LOC). -/
def linkLoc (l : Nat) : Nat := if l < opticalLink then l / 8 else 0x80000100 + (l - opticalLink) / 2

/-- Whether an optical port's traffic waits for a lane of it that retrains. -/
def State.portRetrains (s : State) (p : Nat) : Bool :=
  s.floor.retrain.contains (opticalLink + 2 * p) || s.floor.retrain.contains (opticalLink + 2 * p + 1)

/-! ### Events and wakes -/

/-- The tiles whose partition a retirement concerns, and at which a structure lies. -/
def unitTile : Unit_ → Option Nat
  | .bank t | .core t | .vectorUnit t | .matrixUnit t | .router t => some t
  | .agent c => (clusterTiles c).head?
  | .kettle _ | .link _ => none
  | .die z => some (256 * z)

/-- The tile cycles that a tile's die has counted (R4, R296): every tile of a die has one clock. -/
def State.tc (s : State) (tile : Nat) : Nat :=
  if tile < 4096 then s.now - SMap.get 0 s.lags (tileZ tile) else s.now

/-- The agent of a lead dispenser: that on the partition's lowest logical layer where one is live (R97). An agent outlives
the core and the bank of its site (R59). -/
def State.leadTile (s : State) (n lead : Nat) : Nat :=
  let site (z : Nat) : Nat := z * 256 + lead % 4 * 4 + lead / 4 * 64
  let zs := (s.part n).zmap
  site ((zs.find? fun z => !s.floor.agentRet.contains (clusterOf (site z))).getD (zs.headD 0))

/-- The tile whose clock counts for an event, where a tile's does; the floor die's for any other. -/
def State.timer (s : State) : Instr → Option Nat
  | .avalancheSweepEnd _ t | .forwardingExpiry t _ | .stealRetry t | .matrixCompletion t | .vectorCompletion t
  | .mrotExchange t | .rotationLost t | .wcLineDrain t | .barrierCompletion t _ => some t
  | .waitTimeout t | .twinTimeout t => some t.tile
  | .graceExpiry n l => some (s.leadTile n l)
  | .faultWindowLapse u => unitTile u
  | _ => none

/-- The count by which an event is due (R4). -/
def State.clock (s : State) (e : Instr) : Nat :=
  match s.timer e with
  | some t => s.tc t
  | none => s.now

/-- An event put into the agenda, due at once or later, on the clock that counts for it. -/
def State.postAt (s : State) (due : Nat) (e : Instr) : State :=
  { s with agenda := s.agenda ++ [{ id := s.nextId, due := due, ev := e }], nextId := s.nextId + 1 }
def State.post (s : State) (e : Instr) : State := s.postAt (s.clock e) e
/-- An event that comes so many tile cycles from now, on the clock that counts for it. -/
def State.postIn (s : State) (d : Nat) (e : Instr) : State := s.postAt (s.clock e + d) e
/-- The event put into the agenda unless it already waits there. -/
def State.postOnce (s : State) (e : Instr) : State :=
  if s.agenda.any (·.ev == e) then s else s.post e
def State.postAll (s : State) (es : List Instr) : State := es.foldl State.post s

/-- A free value of the model, and the counter advanced (assumption 6). -/
def State.free (s : State) : Word × State := (Config.freeWord s.frees, { s with frees := s.frees + 1 })

/-- The key of a thread in a list by thread. -/
def threadKey (t : ThreadId) : Nat := t.tile * 16 + t.slot

/-- The tile from which a thread's last wake came. -/
def State.wakeSource (s : State) (t : ThreadId) : Nat :=
  match SMap.get 0 s.wakers (threadKey t) with
  | 0 => t.tile
  | k + 1 => k

/-- A wake event for a parked thread (R89). In deterministic mode the wake of a task-level thread is
applied at the boundary (R111), and while the record log is active that of a page fault (R148); during a hold it is
kept (R31). -/
def State.wake (s : State) (t : ThreadId) : State :=
  let n := (s.partOfTile t.tile).getD 0
  let p := s.part n
  let late := p.mode = 1 || (p.quanta && (s.thread t).st == .parked .pageFault)
  let s := { s with wakers := SMap.set 0 s.wakers (threadKey t) (s.src + 1) }
  match p.hold with
  | some h => s.modPart n fun p => { p with hold := some { h with wakes := h.wakes ++ [t] } }
  | none =>
    if late && (s.thread t).priv == .task then
      s.modPart n fun p => { p with wakes := p.wakes ++ [t] }
    else s.postOnce (.wakeArrival t)

/-- The threads of a tile that hold a slot. -/
def State.slotsOf (s : State) (t : Nat) : List ThreadId :=
  (s.tile t).slots.map fun e => { tile := t, slot := e.1 }

/-- Every thread of the device that holds a slot. -/
def State.allThreads (s : State) : List ThreadId := s.tiles.flatMap fun e => s.slotsOf e.1

/-- Wake every thread parked for a cause that `f` accepts. -/
def State.wakeIf (s : State) (f : ThreadId → Park → Bool) : State :=
  s.allThreads.foldl (fun s t =>
    match (s.thread t).st with
    | .parked p => if f t p then s.wake t else s
    | _ => s) s

/-! ### Writing storage -/

/-- The write of one byte by a context: the line takes its tag, the word's poison lapses, an armed
line gets its written bit and its thread wakes (R266, R267, R315). -/
def State.store1 (s : State) (tag : Tag) (c : Nat) (b : Byte) : State :=
  let s := s.setByte c b
  let s := s.unpoison c
  if isBankCell c then { s with lineTag := SMap.set 0 s.lineTag (c / 256) tag.toNat } else s

/-- A write to the armed lines of these cells sets their written bits and wakes (R90, R386). -/
def State.hitMonitors (s : State) (lines : List Nat) : State :=
  s.allThreads.foldl (fun s t =>
    let th := s.thread t
    if th.mons.any fun m => lines.contains m.line && !m.gone then
      let s := s.setThread t
        { th with mons := th.mons.map fun m => if lines.contains m.line && !m.gone then { m with hit := true } else m }
      if th.st = .parked .monitor then s.wake t else s
    else s) s

/-- The write of bytes at cells by a context, performed in one instant (R156). -/
def State.storeCells (s : State) (tag : Tag) (bs : List (Nat × Byte)) : State :=
  let s := bs.foldl (fun s cb => s.store1 tag cb.1 cb.2) s
  s.hitMonitors (bs.map fun cb => cb.1 / 256).eraseDups

/-- The same with words that become poisoned by what is written: earlier loads have read them (assumption 12). -/
def State.storePoisoned (s : State) (tag : Tag) (bs : List (Nat × Byte)) (words : List Nat) : State :=
  words.foldl State.poisonWord ((words.foldl (fun s c => s.readBefore (c / 8)) s).storeCells tag bs)

/-- A nibble of a byte written alone (R303): `hi` names the nibble. -/
def nibbleInto (old new : Byte) (hi : Bool) : Byte :=
  if hi then setBits old 7 4 (new.toNat / 16) else setBits old 3 0 new.toNat

def cellsFrom (base n : Nat) : List Nat := (List.range n).map (base + ·)

/-- The write of an n-byte number at a cell (R6). -/
def State.writeN (s : State) (tag : Tag) (c n v : Nat) : State :=
  s.storeCells tag ((cellsFrom c n).zip (bytesOfNat n v))
def State.write64 (s : State) (tag : Tag) (c : Nat) (v : Word) : State := s.writeN tag c 8 v.toNat

/-- The zeroing of one bank granule: data, side bits, full/empty bits, poison (R151, R152, R168). The waiters of a
word that was full are woken (R169). -/
def State.zeroGranule (s : State) (gr : Nat) : State :=
  let lo := gr * 4096
  let side := 2 ^ 64 + (lo - 2 ^ 63) / 4
  let s := s.wakeIf fun _ p => match p with
    | .fullEmpty c => c / 4096 == gr && SMap.get false s.fe (c / 8)
    | _ => false
  { s with
    mem := s.mem.filter fun e => !(lo ≤ e.1 && e.1 < lo + 4096 || side ≤ e.1 && e.1 < side + 1024)
    fe := s.fe.filter fun e => !(lo / 8 ≤ e.1 && e.1 < lo / 8 + 512)
    pois := s.pois.filter fun e => !(lo / 8 ≤ e.1 && e.1 < lo / 8 + 512)
    poisTag := s.poisTag.filter fun e => !(lo / 256 ≤ e.1 && e.1 < lo / 256 + 16)
    gmode := SMap.set 0 s.gmode gr 0 }

/-! ### Capability records (R162) -/

def capHolder (r : Word) : Tag := BitVec.ofNat 24 r.toNat
def capMode (r : Word) : Nat := bits r 25 24
def capPend (r : Word) : Bool := bitAt r 26
def capRoot (r : Word) : Nat := bits r 39 27
def mkCap (holder : Tag) (mode : Nat) (pend : Bool) (root : Nat) : Word :=
  BitVec.ofNat 64 (holder.toNat + mode % 4 * 2 ^ 24 + (if pend then 2 ^ 26 else 0) + root % 8192 * 2 ^ 27)

/-- Where the record of an HBM granule lies (R162). -/
def State.capAddr (s : State) (gr : Nat) : Nat := bits s.floor.captb 50 30 * 2 ^ 30 + gr * 8

/-- The capability record of a granule: HBM records in the table at CAPTB, bank records at the bank. -/
def State.cap (s : State) (gr : Nat) : Word :=
  if gr * 4096 < 2 ^ 63 then s.read64 (s.capAddr gr) else SMap.get 0 s.bankCap gr
def State.setCap (s : State) (gr : Nat) (r : Word) : State :=
  if gr * 4096 < 2 ^ 63 then
    ((cellsFrom (s.capAddr gr) 8).zip (bytesOfNat 8 r.toNat)).foldl
      (fun s cb => s.setByte cb.1 cb.2) s
  else { s with bankCap := SMap.set 0 s.bankCap gr r }

/-- The check of a plain store by a context on a granule (R163): the cause it fails with. In a granule that is not in
exclusive mode that is capability-mode for every context (R164). -/
def State.capCheck (s : State) (tag : Tag) (gr : Nat) : Option Nat :=
  let r := s.cap gr
  if capMode r ≠ 0 then some 0x21
  else if capHolder r ≠ tag || capPend r then some 0x20
  else none

/-- The first granule of a list that a plain store fails on. -/
def State.capFail (s : State) (tag : Tag) (grs : List Nat) : Option (Nat × Nat) :=
  grs.findSome? fun g => (s.capCheck tag g).map fun c => (c, g)

def granulesOf (cells : List Nat) : List Nat := (cells.map cellGranule).eraseDups

/-- A cell as a 64-bit physical address (R269): a bank location holds the physical tile ID, with the fabric
device number above the tile (R12). -/
def physWord (dev c : Nat) : Word :=
  BitVec.ofNat 64 (if 2 ^ 63 ≤ c && c < 2 ^ 64 then c + dev % 2 ^ 16 * 2 ^ 38 else c)

/-- The address of a cell, and of a granule, as a trap value (R257). -/
def State.physAddr (s : State) (c : Nat) : Word := physWord s.floor.device c
def State.granAddr (s : State) (g : Nat) : Word := s.physAddr (g * 4096)

/-- The cell of such an address on this device. -/
def cellOfPhys (w : Word) : Nat := if bitAt w 63 then 2 ^ 63 + bits w 33 0 else w.toNat

/-- The physical tile ID of a tile (R12). -/
def State.physId (s : State) (t : Nat) : Nat := t % 4096 + s.floor.device % 2 ^ 16 * 2 ^ 16

/-! ### Retiring, holding, parking -/

/-- Whether retired instructions of a thread count toward a quantum (R109). -/
def State.counts? (s : State) (t : ThreadId) : Bool :=
  (s.thread t).priv == .task && t.slot ≤ 10 && (s.part ((s.partOfTile t.tile).getD 0)).quanta

/-- A thread whose instruction has completed with the pc at `pc`; `counted` where it counts toward a quantum. -/
def Thread.retireTo (th : Thread) (pc : Pc) (counted : Bool) : Thread :=
  { th with pc := pc, retired := th.retired + 1, count := if counted then th.count + 1 else th.count
            st := .ready, expiry := none, expired := false, outcome := none, walked := none }

/-- The instruction of thread `t` completes and the pc goes to `pc`. -/
def State.retireTo (s : State) (t : ThreadId) (pc : Pc) : State :=
  let th := (s.thread t).retireTo pc (s.counts? t)
  s.modTile t.tile fun ti => { (ti.setThread t.slot th) with retired := ti.retired + 1 }

/-- The executing instruction completes and its thread ends: the tile has retired it (R30). -/
def State.retireLast (s : State) : State := s.modMyTile fun t => { t with retired := t.retired + 1 }

/-- The executing instruction of `len` bytes completes. -/
def State.retireLen (s : State) (len : Nat) : State :=
  s.retireTo s.cur (s.me.pc + BitVec.ofNat 51 len)
/-- The executing one-word instruction completes. -/
def State.retire (s : State) : State := s.retireLen 4

/-! ### Thread pairs (R46) -/

/-- Whether a tile's task runs thread-redundant. -/
def State.paired (s : State) (tile : Nat) : Bool :=
  match (s.tile tile).task with
  | some k => k.rdm == 1
  | none => false

/-- Whether a slot holds a trailing twin; its leading slot; the trailing slot of a leading one. -/
def State.trails (s : State) (t : ThreadId) : Bool := s.paired t.tile && 5 ≤ t.slot && t.slot ≤ 9
def leadTwin (t : ThreadId) : ThreadId := { t with slot := t.slot - 5 }
def trailTwin (t : ThreadId) : ThreadId := { t with slot := t.slot + 5 }

/-- The slot whose queued matrix instructions are a thread's: the leading one's are those of both twins. -/
def State.unitSlot (s : State) (t : ThreadId) : Nat := if s.trails t then (leadTwin t).slot else t.slot

/-- What lies between the twins of a leading slot. -/
def State.twin (s : State) (t : ThreadId) : Twin := SMap.get Twin.zero (s.tile t.tile).twins t.slot
def State.modTwin (s : State) (t : ThreadId) (f : Twin → Twin) : State :=
  s.modTile t.tile fun ti => { ti with twins := SMap.set Twin.zero ti.twins t.slot (f (s.twin t)) }

/-- Whether an entry is one of the load-value queue. -/
def TwinEntry.isValue : TwinEntry → Bool
  | .value _ _ => true
  | _ => false

/-- The load-value queue of a pair is full: it has 32 entries (R46). -/
def Twin.full (w : Twin) : Bool := 32 ≤ (w.lvq.filter TwinEntry.isValue).length

/-- The executing instruction waits and stays in the rotation (R42). -/
def State.held (s : State) : State := s.modMe fun th => { th with st := .held, walked := none }
/-- The executing instruction waits for a result on its way. -/
def State.await (s : State) : State := s.modMe fun th => { th with st := .awaiting }
/-- The executing instruction waits for what only a boundary can supply (R109). -/
def State.heldToBoundary (s : State) : State := s.modMe fun th => { th with st := .boundary, walked := none }
/-- Whether the matrix unit still holds an instruction of a thread. -/
def State.matrixBusy (s : State) (t : ThreadId) : Bool :=
  (s.tile t.tile).mq.any fun u => u.slot == t.slot

/-- Whether late faults are delivered only at the points of R260: deterministic mode, or a record log that
records or replays. -/
def State.lateAtPoints (s : State) (t : ThreadId) : Bool :=
  let p := s.part ((s.partOfTile t.tile).getD 0)
  p.mode = 1 || p.rlogState ≠ 0

/-- The number of tc a timeout of `n` tc lasts: in deterministic mode it ends with a quantum (R112). -/
def State.timeoutLen (s : State) (n : Nat) : Nat :=
  let p := s.part s.myPart
  if p.mode = 1 then Nat.max 1 ((n + 2 ^ p.qlog - 1) / 2 ^ p.qlog) else n

/-! ### Containment records (R268, R269) -/

/-- What a containment record says of the struck structure. -/
structure Strike where
  struct_ : Nat
  slot    : Nat
  stop    : Bool
  wide    : Bool
  last    : Bool
  count   : Nat
  loc     : Nat
  addr    : Word
  epc     : Pc
  seq     : Option (BitVec 6)
  deriving DecidableEq, Repr

/-- A containment record: the context and its partition, the cause, whether it is survivable, whether a decision
is awaited; `dev` the fabric device number (R12). -/
def ctnRec (dev : Nat) (tag : Tag) (cause : Nat) (surv await : Bool) (k : Strike) : CtnRec :=
  let b (x : Bool) (i : Nat) : Nat := if x then 2 ^ i else 0
  let d0 := tag.toNat + cause % 128 * 2 ^ 24 + k.struct_ % 16 * 2 ^ 32 + k.slot % 16 * 2 ^ 36 +
    b k.stop 40 + b surv 41 + b k.wide 42 + b k.last 43 + b await 44 + k.count % 4 * 2 ^ 45
  let d3 := k.epc.toNat + (match k.seq with
    | some q => q.toNat * 2 ^ 51 + 2 ^ 57
    | none => 0)
  let loc := if k.loc < 2 ^ 16 then k.loc + dev % 2 ^ 16 * 2 ^ 16 else k.loc
  { part := tagPart tag, d0 := BitVec.ofNat 64 d0, d1 := BitVec.ofNat 64 loc, d2 := physWord dev k.addr.toNat
    d3 := BitVec.ofNat 64 d3, answered := false }

/-- A record that is written at the release of the context's Avalanche (R271). -/
def State.keepRecord (s : State) (tag : Tag) (cause : Nat) (k : Strike) : State :=
  s.modCtx tag fun c => { c with recs := c.recs ++ [ctnRec s.floor.device tag cause c.surv false k] }

/-- A strike that names a tile and nothing else. -/
def Strike.plain (tile : Nat) : Strike :=
  { struct_ := 15, slot := 0, stop := false, wide := false, last := false, count := 0, loc := tile, addr := 0
    epc := 0, seq := none }

/-! ### Ending a context -/

/-- Whether a context's events of the agenda are those a kill sweeps or those a fence waits for is read
from the event: the context that posted it. -/
def eventTag : Instr → Option Tag
  | .storeAtHome r => some r.tag
  | .feAtHome r => some r.tag
  | .atomicAtHome r => some r.tag
  | .ticketUpdateArrival r => some r.tag
  | .spawnArrival m => some m.caller
  | .messageArrival m => some m.ctag
  | _ => none

/-- The Avalanche of a context begins: the kill packet floods its partition (R271). Two Avalanches of
one context merge. In deterministic mode the flood begins in the service step of the next boundary, unless the partition is
halted (R117). -/
def State.avalanche (s : State) (tag : Tag) (cause : Nat) : State :=
  let c := s.ctx tag
  if c.dying || !c.live then s
  else
    let n := tagPart tag
    let tiles := s.tilesOf n
    let s := s.modCtx tag fun c =>
      { c with dying := true, sweeps := tiles, cause := BitVec.ofNat 7 cause }
    if (s.part n).mode = 1 && !(s.part n).halted then s else s.postAll (tiles.map fun t => .killPacketArrival tag t)

/-- Avalanche, and of every context of the launch where the context is a launch root (R271). -/
def State.avalancheAll (s : State) (tag : Tag) (cause : Nat) : State :=
  let s' := s.avalanche tag cause
  if (s.ctx tag).isRoot then
    (s.ctxs.filter fun e =>
        e.2.live && !e.2.isRoot && e.2.root == tagCtx tag && e.1 / 2 ^ 13 == tag.toNat / 2 ^ 13).foldl
      (fun s e => s.avalanche (BitVec.ofNat 24 e.1) cause) s'
  else s'

/-! ### Traps (R252 to R256) -/

/-- The cause codes of R257 that the machine raises by name. -/
def cZeroWord : Nat := 0x01
def cIllegal : Nat := 0x02
def cPrivilege : Nat := 0x03
def cMisalignedFetch : Nat := 0x04
def cMisaligned : Nat := 0x05
def cAddressRange : Nat := 0x06
def cBankAbsent : Nat := 0x07
def cPathInvalid : Nat := 0x08
def cFormatInvalid : Nat := 0x09
def cPointerOverflow : Nat := 0x0A
def cInvalidOperand : Nat := 0x0B
def cDivideByZero : Nat := 0x0C
def cContextMisuse : Nat := 0x0D
def cBadTarget : Nat := 0x0E
def cBadNode : Nat := 0x0F
def cTrap : Nat := 0x10
def cDoubleFault : Nat := 0x11
def cPageUnserved : Nat := 0x19
def cTableMalformed : Nat := 0x1A
def cAccess : Nat := 0x1B
def cRemoteLost : Nat := 0x1C
def cSidecar : Nat := 0x1D
def cCapability : Nat := 0x20
def cCapMode : Nat := 0x21
def cControlBlock : Nat := 0x22
def cPostedFault : Nat := 0x23
def cTicketRange : Nat := 0x24
def cTicketClosed : Nat := 0x25
def cUndeliverable : Nat := 0x26
def cRedundancy : Nat := 0x29
def cMatrixPoisoned : Nat := 0x30
def cPoisonedSource : Nat := 0x31
def cRotationLost : Nat := 0x32
def cStreamBroken : Nat := 0x33
def cPoisonedData : Nat := 0x41

/-- The level a trap goes to (R252). -/
def trapTarget (isTrap : Bool) (l : Priv) : Priv :=
  match isTrap, l with
  | true, .task => .supervisor
  | true, _ => .steward
  | false, .steward => .steward
  | false, _ => .supervisor

def Thread.bank (t : Thread) (h : Priv) : TrapBank :=
  match h with
  | .steward => t.stw
  | _ => t.sup
def Thread.setBank (t : Thread) (h : Priv) (b : TrapBank) : Thread :=
  match h with
  | .steward => { t with stw := b }
  | _ => { t with sup := b }

/-- TRAPBASE of a level for a thread: the supervisor instance of its owner in its partition, or the
steward's (R253). -/
def State.trapBase (s : State) (t : ThreadId) (h : Priv) : Word :=
  match h with
  | .steward => s.floor.trapbase
  | _ => (s.owner (s.tagOf t)).trapbase

/-- Whether a trap to level `h` finds a handler that may take it (R254). -/
def State.trapReady (s : State) (t : ThreadId) (h : Priv) : Bool :=
  bitAt (s.trapBase t h) 0 && !((s.thread t).bank h).nest

/-- An address as EPC holds it: bits 1:0 read 0 (R253). -/
def alignPc (pc : Pc) : Pc := BitVec.ofNat 51 (pc.toNat / 4 * 4)

/-- A thread that has entered the handler of level `h` at TRAPBASE `base` (R254); a late fault that awaits it pends until
its ERET (R262). -/
def Thread.enter (th : Thread) (h : Priv) (base : Word) (cause : Nat) (tval : Word) (late : Bool) : Thread :=
  let b := th.bank h
  let saved := th.setBank h
    { b with epc := alignPc th.pc, code := BitVec.ofNat 7 cause, late := late, tval := tval, ppriv := th.priv, nest := true, pend := b.pend || th.late.isSome }
  { saved with priv := h, pc := BitVec.ofNat 51 (bits base 50 2 * 4), st := .ready
               expiry := none, expired := false, outcome := none, walked := none, kmark := none }

/-- The entry of a handler at level `h` (R254). -/
def State.enterHandler (s : State) (t : ThreadId) (h : Priv) (cause : Nat) (tval : Word) (late : Bool) :
    State :=
  s.modThread t fun th => th.enter h (s.trapBase t h) cause tval late

/-- A trap of thread `t` taken at its pc (R252, R254, R255): a supervisor that cannot take it hands it
to the steward as double-fault; a steward that cannot stops the thread and its context. -/
def State.takeTrap (s : State) (t : ThreadId) (isTrap : Bool) (cause : Nat) (tval : Word) (late : Bool) :
    State :=
  let h := trapTarget isTrap (s.thread t).priv
  if s.trapReady t h then s.enterHandler t h cause tval late
  else
    let stop (s : State) : State :=
      let k : Strike := { Strike.plain t.tile with slot := t.slot, stop := true, epc := (s.thread t).pc }
      ((s.modThread t fun th => { Thread.zero with st := .stopped, pc := th.pc }).keepRecord (s.tagOf t) cDoubleFault
        k).avalancheAll (s.tagOf t) cDoubleFault
    match h with
    | .steward => stop s
    | _ =>
      if s.trapReady t .steward then
        s.enterHandler t .steward cDoubleFault (BitVec.ofNat 64 cause) late
      else stop s

/-- The executing instruction raises a cause exactly: it has no effect (R258). -/
def State.trap (s : State) (cause : Nat) (tval : Word) : State := s.takeTrap s.cur false cause tval false

/-- The return from a handler (R256, R361): ERET itself retires at the level it executes at, and a late fault that was
held pending over the handler is now due (R262). -/
def State.eret (s : State) : State :=
  let l := s.me.priv
  let b := s.me.bank l
  (s.retireTo s.cur b.epc).modMe fun th =>
    { (th.setBank l { b with nest := false }) with priv := b.ppriv, owed := th.owed || (b.pend && th.late.isSome) }

/-! ### Late faults (R259 to R262) -/

/-- Whether a late fault of a thread may be taken where its mode lets it: one that a handler keeps pending waits for
that handler's ERET (R262). -/
def Thread.lateDue (th : Thread) : Bool :=
  let b := th.bank (trapTarget false th.priv)
  th.late.isSome && !b.nest && (th.owed || !(th.sup.pend || th.stw.pend))

/-- The state of the ring entry of a number (R259, R261). -/
def Tile.setRing (t : Tile) (ring : BitVec 6) (st : RingSt) (kept : Bool) : Tile :=
  let e := SMap.get RingEntry.zero t.ring ring.toNat
  { t with ring := SMap.set RingEntry.zero t.ring ring.toNat { e with st := st, kept := kept } }

/-- The trap of a late fault is taken at the thread's next instruction; at a level whose handler runs it stays
pending (R260, R262). -/
def State.takeLate (s : State) (t : ThreadId) : State :=
  let th := s.thread t
  match th.late with
  | none => s
  | some f =>
    let h := trapTarget false th.priv
    let b := th.bank h
    if b.nest then s.modThread t (·.setBank h { b with pend := true })
    else
      let s := s.modThread t fun th =>
        { th with late := none, st := .ready, owed := false, sup := { th.sup with pend := false }
                  stw := { th.stw with pend := false } }
      let s := s.modTile t.tile fun ti =>
        ti.setRing f.ring (SMap.get RingEntry.zero ti.ring f.ring.toNat).st false
      let s := s.takeTrap t false f.cause.toNat f.tval true
      s.modThread t fun th =>
        let h := th.priv
        if h = .task then th else th.setBank h { th.bank h with seq := f.ring, seqV := true }

/-! ### Parking (R89, R260) -/

/-- Thread `t` parks (R89). Where late faults are delivered at points only, parking is one (R260): the thread is
first held until its matrix instructions have completed, and a late fault is taken at the instruction that would park. -/
def State.parkAt (s : State) (t : ThreadId) (p : Park) : State :=
  if s.lateAtPoints t && s.matrixBusy t then s.modThread t fun th => { th with st := .held, walked := none }
  else if s.lateAtPoints t && (s.thread t).lateDue then s.takeLate t
  else s.modThread t fun th => { th with st := .parked p, walked := none }

/-- The executing instruction parks. -/
def State.park (s : State) (p : Park) : State := s.parkAt s.cur p

/-- The executing instruction parks with a timeout, counted from its first park (R91). -/
def State.parkFor (s : State) (p : Park) (n : Nat) : State :=
  let s' := s.park p
  match s.me.expiry with
  | some _ => s'
  | none =>
    if s'.me.st ≠ .parked p then s'
    else
      let quanta := (s.part s.myPart).mode = 1
      let at_ := if quanta then (s.part s.myPart).qnum + s.timeoutLen n else s.tc s.cur.tile + n
      let s' := s'.modMe fun th => { th with expiry := some at_ }
      if quanta then s' else s'.postAt at_ (.waitTimeout s.cur)

/-! ### Outcomes -/

/-- The step ends in the state, or in a fault where it met storage that does not exist. -/
def ends (s : State) : Host.Outcome State Fault Refusal :=
  match s.stray with
  | none => .next s
  | some pa => .fault (.noSuchStorage pa)

/-- The state that an outcome leaves. -/
def settle (s : State) (o : Host.Outcome State Fault Refusal) : State :=
  match o with
  | .next t => t
  | .fault (.noSuchStorage pa) => { s with stray := some pa }
  | .refused _ => s

end Sys2Proof.Machine
end

