-- ==== Sys2Proof/Machine/Frames.lean ====
section
/-! DEFINITION. The frames that leave the device by its optical ports: the ports that an owner's traffic may take, the
sequence numbers, and where traffic waits for a new key (R244, R245). -/

namespace Sys2Proof.Machine

/-- The key entry of an owner at a port. -/
def portKey (port owner : Nat) : Nat := port * 256 + owner % 256
def State.port (s : State) (port owner : Nat) : PortKey := SMap.get PortKey.zero s.floor.ports (portKey port owner)
def State.modPort (s : State) (port owner : Nat) (f : PortKey → PortKey) : State :=
  s.modFloor fun fl => { fl with ports := SMap.set PortKey.zero fl.ports (portKey port owner) (f (s.port port owner)) }

/-- The ports that the route table lists for a device and that an owner's frames may leave by: the owner is permitted on
the port, holds a key of the transmit epoch there, and its session is not lost (R244, R245; assumption 85). -/
def State.exits (s : State) (dev owner : Nat) : List Nat :=
  ((s.floor.routes.filter fun r => r.1 == dev).map (·.2)).filter fun p =>
    let k := s.port p owner
    k.v && !k.lost && (k.keys.getD (if k.ep then 1 else 0) none).isSome

/-- Whether an owner's next frame may leave by a port: its sequence number lies within its 48 bits (R245), and no lane of
the port retrains (R326). -/
def State.portOpen (s : State) (p owner : Nat) : Bool := (s.port p owner).txseq < 2 ^ 48 && !s.portRetrains p

/-- Whether an owner's frames to a device wait, for the steward to rekey or for a retraining to end: at every port left
the next sequence number would pass 2^48 - 1, or a lane retrains (R245, R326). -/
def State.frameWaits (s : State) (dev owner : Nat) : Bool :=
  !(s.exits dev owner).isEmpty && (s.exits dev owner).all fun p => !s.portOpen p owner

/-- A frame leaves by one of the ports left and takes its next sequence number; one not acknowledged within 4096 tc is
sent again (R244, R245). Which port takes it is open (assumption 85). -/
def State.sendFrame (s : State) (dev owner : Nat) : State :=
  let ps := (s.exits dev owner).filter (s.portOpen · owner)
  match ps[(Config.freeWord s.frees).toNat % ps.length]? with
  | none => s
  | some p =>
    let seq := (s.port p owner).txseq
    let again := Config.unacknowledged s.frees
    let s := { (s.modPort p owner fun k => { k with txseq := k.txseq + 1 }) with frees := s.frees + 1 }
    if again then s.postIn 4096 (.frameRetransmit p (BitVec.ofNat 8 owner) seq) else s

/-- The thread of another device's request, which no tile holds: its number names the device and the owner (R247). -/
def remoteThread (dev owner : Nat) : ThreadId := { tile := 2 ^ 20 + dev, slot := owner }

/-- A request of another device has been performed: its completion leaves as a frame (R247). -/
def State.completes (s : State) (t : ThreadId) : State :=
  if 2 ^ 20 ≤ t.tile then s.sendFrame (t.tile - 2 ^ 20) t.slot else s

end Sys2Proof.Machine
end

