-- ==== Sys2Proof/Machine/Access.lean ====
section
/-! DEFINITION. How an address reaches storage: pointer fields, paths, the page walk, TLBs, and the checks
that come before an access (R122 to R154, R308). -/

namespace Sys2Proof.Machine

/-! ### Fat pointers (R122) -/

def ptrFmt (p : Word) : Nat := bits p 63 58
def ptrK (p : Word) : Nat := bits p 57 54
def ptrPath (p : Word) : Nat := bits p 53 51
def ptrAddr (p : Word) : Nat := bits p 50 0
/-- A pointer with another address. -/
def withAddr (p : Word) (a : Nat) : Word := setBits p 50 0 a
def mkPtr (path addr : Nat) : Word := BitVec.ofNat 64 (addr % 2 ^ 51 + path % 8 * 2 ^ 51)

/-! ### Leaves (R135, R136) -/

def leafRd (e : Word) : Bool := bitAt e 2
def leafWr (e : Word) : Bool := bitAt e 3
def leafEx (e : Word) : Bool := bitAt e 4
def leafEcc (e : Word) : Nat := bits e 6 5
def leafRoc (e : Word) : Bool := bitAt e 7
def leafHome (e : Word) : Nat := bits e 9 8
def leafUs (e : Word) : Bool := bitAt e 10
def leafDt (e : Word) : Bool := bitAt e 11
def leafFrame (e : Word) : Nat := bits e 50 12 * 4096
def leafWin (e : Word) : Nat := bits e 62 51

/-- Whether a leaf of a page of 2^log bytes keeps the rules of R135 and R136. The ECC field of a tile-bank page is not
checked (R151). What the rules only call reserved counts as malformed too (assumption 135). -/
def leafOk (e : Word) (log : Nat) : Bool :=
  let f := leafFrame e
  f % 2 ^ log == 0 && !bitAt e 63 && (leafEcc e ≠ 3 || leafHome e = 1) &&
  (match leafHome e with
    | 0 => leafWin e == 0
    | 1 => log ≤ 22 && bits e 50 34 == 0 && leafWin e == 0
    | 2 => leafEcc e == 0
    | _ => false)

/-! ### The walk (R133) -/

/-- How a walk ends: the leaf with the page's size, the level and the entry's address; a page fault with
its level and entry; malformed; or a table in storage that does not exist. -/
inductive Walk where
  | leaf (e : Word) (log level pte : Nat)
  | invalid (level pte : Nat)
  | malformed
  | stray (pa : Nat)
  deriving DecidableEq, Repr

/-- The levels of a walk below the root: `fuel` levels remain. -/
def walkFrom (s : State) (va : Nat) : Nat → Nat → Nat → Nat → Walk
  | 0, _, _, _ => .malformed
  | fuel + 1, level, pte, rem =>
    if !isHbmCell pte then .stray pte
    else
      let e := s.read64 pte
      if !bitAt e 0 then .invalid level pte
      else if bitAt e 1 then
        if rem < 12 || rem > 30 || !leafOk e rem then .malformed else .leaf e rem level pte
      else
        let w := 2 * bits e 5 2
        if w < 2 || w > 12 || rem < w + 12 || bits e 63 51 ≠ 0 ||
            bits e 50 6 * 64 % Nat.max (2 ^ w * 8) 64 ≠ 0 then .malformed
        else
          walkFrom s va fuel (level + 1) (bits e 50 6 * 64 + va / 2 ^ (rem - w) % 2 ^ w * 8) (rem - w)

/-- The walk for a virtual address from a root (R132, R133). -/
def walk (s : State) (root : Word) (va : Nat) : Walk :=
  let w0 := bits root 4 0
  if !bitAt root 5 then .invalid 0 0
  else if w0 % 2 = 0 || w0 < 3 || w0 > 21 ||
      bits root 50 6 * 64 % Nat.max (2 ^ w0 * 8) 64 ≠ 0 then .malformed
  else walkFrom s va 8 0 (bits root 50 6 * 64 + va / 2 ^ (51 - w0) * 8) (51 - w0)

/-! ### Translation (R131, R137) -/

/-- Why an address does not reach storage now: a trap; a page fault with qualifier, level and entry; a
page to walk for. -/
inductive Why where
  | trap (cause : Nat) (tval : Word)
  | pageFault (va qual level pte : Nat)
  | miss (va : Nat)
  /-- The same two of a scale access, with the scale pointer's path (R125, R145). -/
  | scaleFault (path va qual level pte : Nat)
  | scaleMiss (path va : Nat)
  | stray (pa : Nat)
  deriving DecidableEq, Repr

/-- Where a page lies: the cell of an address in it, or an offset in a remote window. -/
inductive Spot where
  | cell (c : Nat)
  | remote (win off : Nat)
  deriving DecidableEq, Repr

/-- Entries of the same owner and partition hit (R131). -/
def TlbEntry.covers (e : TlbEntry) (tag : Tag) (va : Nat) : Bool :=
  ownerKey e.tag == ownerKey tag && va / 2 ^ e.log * 2 ^ e.log == e.vbase

/-- Whether an import window is open (R149, R246). -/
def State.importSt (s : State) (part win : Nat) : Nat :=
  bits (s.read64 (bits (s.part part).winb 50 17 * 2 ^ 17 + win * 32)) 1 0

/-- The state of an import window is written to its table entry. -/
def State.setImport (s : State) (n win st : Nat) : State :=
  let at_ := bits (s.part n).winb 50 17 * 2 ^ 17 + win * 32
  s.write64 0 at_ (setBits (s.read64 at_) 1 0 st)

/-- A request through an import window has been refused (R247). The answer may be a revoked completion: the window is
then revoked, and what a revoked notice brings follows (R248). Which it is, another device says (assumption 6). -/
def State.refusedBy (s : State) (n win : Nat) : State :=
  let revoked := Config.remoteRevokes s.frees && s.importSt n win == 1
  let s := { s with frees := s.frees + 1 }
  if revoked then (s.setImport n win 3).postOnce (.revokedNotice n win) else s

/-- What an import entry lets through (R246): loads, stores, or atomics and ticketed updates; and the size of its window.
The manual names the fields and not what an access meets that they forbid (assumption 41). -/
def State.importLets (s : State) (part win : Nat) (kind : AccKind) : Bool :=
  let d := s.read64 (bits (s.part part).winb 50 17 * 2 ^ 17 + win * 32 + 8)
  match kind with
  | .load | .scale | .footprint | .graph | .fetch => bitAt d 6
  | .store => bitAt d 7
  | .atomic => bitAt d 8
def State.importSize (s : State) (part win : Nat) : Nat :=
  2 ^ bits (s.read64 (bits (s.part part).winb 50 17 * 2 ^ 17 + win * 32 + 8)) 5 0

/-- Whether a granule is own-bank granule 1023 of a compute tile: its dirty log (R128). -/
def State.dirtyGranule (s : State) (gr : Nat) : Bool :=
  2 ^ 63 ≤ gr * 4096 && gr % 1024 == 1023 && s.computes (tileZ (cellBank (gr * 4096)))

def accWrites : AccKind → Bool
  | .store | .atomic => true
  | _ => false

/-- The checks of R137 on a leaf, and the spot of `va`. -/
def State.checkLeaf (s : State) (part : Nat) (priv : Priv) (kind : AccKind) (va : Nat) (e : TlbEntry) :
    Except Why Spot :=
  let off := va % 2 ^ e.log
  let denied : Except Why Spot := .error (.trap cAccess (BitVec.ofNat 64 va))
  let perm : Bool :=
    (match kind with
      | .load | .scale | .footprint | .graph => leafRd e.leaf
      | .store => leafWr e.leaf
      | .atomic => leafRd e.leaf && leafWr e.leaf
      | .fetch => leafEx e.leaf) && (priv != .task || leafUs e.leaf)
  match leafHome e.leaf with
  | 0 => if perm then .ok (.cell (leafFrame e.leaf + off)) else denied
  | 1 =>
    let tile := bits e.leaf 33 22
    let cell := bankCell tile (leafFrame e.leaf % 2 ^ 22 + off)
    if SMap.get false s.vacated (cell / 4096) then .error (.pageFault va 1 e.level e.pte)
    else if s.partOfTile tile ≠ some part then denied
    else if s.retiredTile tile then .error (.pageFault va 2 e.level e.pte)
    else if s.dirtyGranule (cell / 4096) && (priv == .task || accWrites kind) then denied
    else if perm then .ok (.cell cell) else denied
  | _ =>
    if !perm then denied
    else if s.importSt part (leafWin e.leaf) ≠ 1 then
      .error (.trap cRemoteLost (BitVec.ofNat 64 va))
    else if !s.importLets part (leafWin e.leaf) kind then denied
    else if leafFrame e.leaf + off ≥ s.importSize part (leafWin e.leaf) then
      .error (.trap cRemoteLost (BitVec.ofNat 64 va))
    else .ok (.remote (leafWin e.leaf) (leafFrame e.leaf + off))

/-- The TLB entry a walk fills (R131). -/
def fillEntry (s : State) (tag : Tag) (va : Nat) (leaf : Word) (log level pte : Nat) : TlbEntry :=
  { tag := tag, vbase := va / 2 ^ log * 2 ^ log, log := log, leaf := leaf, pte := pte, level := level
    dt := leafDt leaf
    dev := if leafHome leaf = 2 then
        bits (s.read64 (bits (s.part (tagPart tag)).winb 50 17 * 2 ^ 17 + leafWin leaf * 32)) 31 16
      else 0 }

/-- The entry for an address in the tile's TLB. -/
def State.lookup (s : State) (tile : Nat) (kind : AccKind) (tag : Tag) (va : Nat) : Option TlbEntry :=
  let t := s.tile tile
  (if kind = .fetch then t.itlb else t.dtlb).find? (·.covers tag va)

/-- The entry by which a thread's access is translated: the tile's, or that of a walk whose checks failed (R137). -/
def State.entryFor (s : State) (t : ThreadId) (kind : AccKind) (va : Nat) : Option TlbEntry :=
  let tag := s.tagOf t
  match s.lookup t.tile kind tag va with
  | some e => some e
  | none => (s.thread t).walked.filter (·.covers tag va)

/-- The cell that a leaf gives an address, whatever it permits; none where its page lies in a remote window (R136). -/
def leafCell (e : TlbEntry) (va : Nat) : Option Nat :=
  match leafHome e.leaf with
  | 0 => some (leafFrame e.leaf + va % 2 ^ e.log)
  | 1 => some (bankCell (bits e.leaf 33 22) (leafFrame e.leaf % 2 ^ 22 + va % 2 ^ e.log))
  | _ => none

/-- A thread's translation of one address (R131, R137): a miss in the tile goes to its cluster's agent. -/
def State.translate (s : State) (t : ThreadId) (kind : AccKind) (va : Nat) : Except Why Spot :=
  match s.entryFor t kind va with
  | some e => s.checkLeaf (tagPart (s.tagOf t)) (s.thread t).priv kind va e
  | none => .error (.miss va)

/-- A translation made with a walk of its own, by an engine or a check of a range (R137, R446). -/
def State.translateWalk (s : State) (tag : Tag) (priv : Priv) (kind : AccKind) (va : Nat) :
    Except Why Spot :=
  match walk s (s.owner tag).ptroot va with
  | .leaf e log level pte => s.checkLeaf (tagPart tag) priv kind va (fillEntry s tag va e log level pte)
  | .invalid level pte => .error (.pageFault va 0 level pte)
  | .malformed => .error (.trap cTableMalformed (BitVec.ofNat 64 va))
  | .stray pa => .error (.stray pa)

/-- Whether two entries translate the same page for the same owner. -/
def TlbEntry.same (a b : TlbEntry) : Bool := ownerKey a.tag == ownerKey b.tag && a.vbase == b.vbase && a.log == b.log

/-- A TLB of `n` entries with an entry filled: the one filled first makes room, which no rule says (assumption 136). -/
def fillOf (n : Nat) (e : TlbEntry) (es : List TlbEntry) : List TlbEntry := (e :: es.filter fun x => !x.same e).take n

/-- The TLBs of a tile and its cluster with an entry filled (R131, R137). -/
def State.fillTlb (s : State) (tile : Nat) (kind : AccKind) (e : TlbEntry) : State :=
  let s := s.modTile tile fun t =>
    if kind = .fetch then { t with itlb := fillOf 32 e t.itlb } else { t with dtlb := fillOf 64 e t.dtlb }
  let c := clusterOf tile
  { s with l2 := SMap.set [] s.l2 c (fillOf 2048 e (SMap.get [] s.l2 c)) }

/-- Whether the second level of a miss's cluster holds its translation: such a miss needs no walker (R131). -/
def State.l2Has (s : State) (r : WalkReq) : Bool :=
  (SMap.get [] s.l2 (clusterOf r.tid.tile)).any (·.covers (s.tagOf r.tid) r.va)

/-- A miss asked of a cluster's agent (R131): where the second level has it not either, it is admitted at once where the
agent has room, and otherwise held at its tile. -/
def State.askWalk (s : State) (r : WalkReq) : State :=
  let c := clusterOf r.tid.tile
  let hit := s.l2Has r
  let s := s.post (.pageWalk r)
  if hit then s else
  let held := (SMap.get [] s.walks c).filter fun w => s.agenda.any fun q => q.ev == .pageWalk w
  if held.length < 18 then { s with walks := SMap.set [] s.walks c (held ++ [r]) } else s

/-! ### Reaching a range of bytes -/

/-- The cells that stand for a range of a remote window: they name no storage of this device. -/
def remoteCells (win off n : Nat) : List Nat := cellsFrom (2 ^ 66 + win * 2 ^ 52 + off) n
def isRemoteCell (c : Nat) : Bool := 2 ^ 66 ≤ c
def remoteWin (c : Nat) : Nat := (c - 2 ^ 66) / 2 ^ 52

/-- The cells of `n` bytes from a spot on. -/
def Spot.cells (n : Nat) : Spot → List Nat
  | .cell c => cellsFrom c n
  | .remote w o => remoteCells w o n

/-- Where an access lands: the cells of its bytes and whether they are near (a bank of the local store
on paths 1–3 and 7), or a remote window. -/
inductive Reach where
  | cells (near : Bool) (cs : List Nat)
  | remote (win off : Nat)
  | stop (w : Why)
  deriving DecidableEq, Repr

/-- Whether an address breaks an alignment; 0 stands for one that no address keeps, an odd E2M1 element's (R377). -/
def misalignedBy (addr align : Nat) : Bool := align == 0 || addr % align ≠ 0

/-- The cells of `n` bytes on paths 1–3, in the order of R308: address range and dirty log (R128), bank, alignment. An
aligned range that runs past the bank's end meets address-range last (assumption 128). -/
def State.reachBank (s : State) (t : ThreadId) (ptr : Word) (path addr n align : Nat) (write : Bool) :
    Except Why (List Nat) :=
  if addr ≥ 2 ^ 22 then .error (.trap cAddressRange ptr)
  else
    match s.bankOf t.tile path with
    | none => .error (.trap cBankAbsent ptr)
    | some b =>
      let cs := cellsFrom (bankCell b addr) (Nat.min n (2 ^ 22 - addr))
      if cs.any fun c => s.dirtyGranule (c / 4096) && path == 1 &&
          ((s.thread t).priv == .task || write)
      then .error (.trap cAddressRange ptr)
      else if misalignedBy addr align then .error (.trap cMisaligned ptr)
      else if addr + n > 2 ^ 22 then .error (.trap cAddressRange ptr)
      else .ok cs

/-- The cells of `n` side bytes on path 7 (R153), with the check of the granule's mode. -/
def State.reachSide (s : State) (t : ThreadId) (ptr : Word) (addr n align : Nat) (write : Bool) :
    Except Why (List Nat) :=
  let sel := addr / 2 ^ 22 % 4
  let off := addr % 2 ^ 20
  if addr / 2 ^ 20 % 4 ≠ 0 || addr / 2 ^ 24 ≠ 0 || sel = 3 then
    .error (.trap cAddressRange ptr)
  else
    match s.bankOf t.tile (sel + 1) with
    | none => .error (.trap cBankAbsent ptr)
    | some b =>
      let cs := cellsFrom (sideCell b off) (Nat.min n (2 ^ 20 - off))
      if sel = 0 && (cs.any fun c => s.dirtyGranule (cellGranule c)) &&
          ((s.thread t).priv == .task || write)
      then .error (.trap cAddressRange ptr)
      else if misalignedBy addr align then .error (.trap cMisaligned ptr)
      else if off + n > 2 ^ 20 then .error (.trap cAddressRange ptr)
      else if cs.any fun c =>
          match SMap.get 0 s.gmode (cellGranule c) with
          | 0 => true
          | 1 => c % 2 == 0
          | _ => false
      then .error (.trap cSidecar ptr)
      else .ok cs

/-- Whether a page fits the path: path 5 reaches HBM only (R129). -/
def spotOnPath (path : Nat) (addr : Nat) : Spot → Except Why Spot
  | .cell c => if path = 5 && !isHbmCell c then
      (if c < 2 ^ 63 then .ok (.cell c) else .error (.trap cPathInvalid (BitVec.ofNat 64 addr)))
    else .ok (.cell c)
  | .remote w o => if path = 5 then .error (.trap cPathInvalid (BitVec.ofNat 64 addr)) else .ok (.remote w o)

/-- An access of `n` bytes through a pointer at address `addr`, in the order of R308: path, address
range, bank, alignment, translation of the lower page, then of the upper (R130). -/
def State.reach (s : State) (t : ThreadId) (paths : List Nat) (kind : AccKind) (ptr : Word)
    (addr n align : Nat) : Reach :=
  let path := ptrPath ptr
  let p := withAddr ptr addr
  let ofE (e : Except Why (List Nat)) : Reach :=
    match e with
    | .ok cs => .cells true cs
    | .error w => .stop w
  if !paths.contains path then .stop (.trap cPathInvalid p)
  else if addr ≥ 2 ^ 51 then .stop (.trap cAddressRange p)
  else if path = 7 then ofE (s.reachSide t p addr n align (accWrites kind))
  else if 1 ≤ path && path ≤ 3 then ofE (s.reachBank t p path addr n align (accWrites kind))
  else if misalignedBy addr align then .stop (.trap cMisaligned p)
  else if addr + n > 2 ^ 51 then .stop (.trap cAddressRange p)
  else
    let room := 4096 - addr % 4096
    match (s.translate t kind addr).bind (spotOnPath path addr) with
    | .error w => .stop w
    | .ok sp =>
      if n ≤ room then
        match sp with
        | .remote w o => .remote w o
        | .cell c => .cells false (cellsFrom c n)
      else
        match (s.translate t kind (addr + room)).bind (spotOnPath path (addr + room)) with
        | .error w => .stop w
        | .ok sp2 => .cells false (sp.cells room ++ sp2.cells (n - room))

/-- The cells of a range, page by page, each translated by `tr`: `fuel` pages; `rem` where pages of a remote window are
allowed. -/
def reachBy (tr : Nat → Except Why Spot) (rem : Bool) : Nat → Nat → Nat → Except Why (List Nat)
  | _, _, 0 => .ok []
  | 0, _, _ => .ok []
  | fuel + 1, addr, n =>
    let room := Nat.min n (4096 - addr % 4096)
    match tr addr with
    | .error w => .error w
    | .ok sp =>
      let here : Except Why (List Nat) :=
        match sp with
        | .remote w o => if rem then .ok (remoteCells w o room)
            else .error (.trap cPathInvalid (BitVec.ofNat 64 addr))
        | .cell c => .ok (cellsFrom c room)
      match here with
      | .error w => .error w
      | .ok h =>
        match reachBy tr rem fuel (addr + room) (n - room) with
        | .error w => .error w
        | .ok cs => .ok (h ++ cs)

/-- The cells of a range of an engine, by walks of its own (R172). -/
def State.reachWalk (s : State) (tag : Tag) (priv : Priv) (kind : AccKind) (rem : Bool) : Nat → Nat → Nat →
    Except Why (List Nat) := reachBy (s.translateWalk tag priv kind) rem

/-! ### Page faults (R144, R145) -/

def accCode : AccKind → Nat
  | .load => 0 | .store => 1 | .fetch => 2 | .atomic => 3 | .footprint => 4 | .scale => 5 | .graph => 6

/-- A fault ring entry (R145). -/
def State.faultRec (s : State) (n : Nat) (va path kind qual level pte : Nat) (tile slot : Nat)
    (tag : Tag) (who : FaultFor) : FaultRec :=
  { agent := match who with
      | .thread t _ => clusterOf t.tile
      | .footprint x _ => clusterOf x
      | .graph _ | .put _ _ _ _ => 256
    d0 := BitVec.ofNat 64 (va % 2 ^ 51 + path * 2 ^ 51 + kind * 2 ^ 54 + qual * 2 ^ 57)
    d1 := BitVec.ofNat 64 (tile % 2 ^ 12 + slot % 16 * 2 ^ 12 + tag.toNat * 2 ^ 16)
    d2 := BitVec.ofNat 64 (level % 8 + pte / 8 * 8 % 2 ^ 51)
    d3 := BitVec.ofNat 64 (if (s.part n).quanta then (s.part n).qnum % 2 ^ 48 else 0)
    who := who, act := none, void := false }

/-- A page fault enters the cluster fault queue and is copied to the ring in its turn (R144). -/
def State.pageFault (s : State) (n : Nat) (f : FaultRec) : State :=
  (s.modPart n fun p => { p with faultQ := p.faultQ ++ [f] }).postOnce (.faultRingCopy n)

/-- The executing thread parks on a page fault (R137, R144). -/
def State.parkOnFault (s : State) (t : ThreadId) (va path : Nat) (kind : AccKind) (qual level pte : Nat) :
    State :=
  let n := (s.partOfTile t.tile).getD 0
  let tag := s.tagOf t
  let lid := (s.tileId t.tile).toNat % 2 ^ 12
  let s' := s.parkAt t .pageFault
  if (s'.thread t).st = .parked .pageFault then
    s'.pageFault n (s.faultRec n va path (accCode kind) qual level pte lid t.slot tag (.thread t tag))
  else s'

/-- What an access that does not reach storage does to the executing thread (R137, R258). -/
def State.stop (s : State) (path : Nat) (kind : AccKind) (w : Why) : State :=
  match w with
  | .trap c v => s.trap c v
  | .stray pa => { s with stray := some pa }
  | .miss va => s.await.askWalk { tid := s.cur, va := va, path := path, kind := kind }
  | .pageFault va q l p => s.parkOnFault s.cur va path kind q l p
  | .scaleMiss sp va => s.await.askWalk { tid := s.cur, va := va, path := sp, kind := .scale }
  | .scaleFault sp va q l p => s.parkOnFault s.cur va sp .scale q l p

/-! ### Dirty logs (R141, R142) -/

/-- Where a dirty-log entry lies in the own bank. -/
def dirtyCell (tile idx : Nat) : Nat := bankCell tile (0x3FF000 + idx % 256 * 8)

/-- Whether a store through this page must append and the log is full (R142). -/
def State.dirtyFull (s : State) (t : ThreadId) (va : Nat) : Bool :=
  match s.lookup t.tile .store (s.tagOf t) va with
  | some e => !e.dt && (s.tile t.tile).dirtyTail - (s.tile t.tile).dirtyHead ≥ 256
  | none => false

/-- A store or atomic through an entry whose DT is 0 appends an entry and sets DT (R142). -/
def State.dirty (s : State) (t : ThreadId) (va : Nat) : State :=
  let tag := s.tagOf t
  match s.lookup t.tile .store tag va with
  | none => s
  | some e =>
    if e.dt then s
    else
      let ti := s.tile t.tile
      let ent := (e.log - 12) / 2 + tagOwner tag * 16 + e.vbase
      let s := ((cellsFrom (dirtyCell t.tile ti.dirtyTail) 8).zip (bytesOfNat 8 ent)).foldl
        (fun s cb => s.setByte cb.1 cb.2) s
      let mark (x : TlbEntry) : TlbEntry := if x.covers tag va then { x with dt := true } else x
      let s := s.modTile t.tile fun ti =>
        { ti with dirtyTail := ti.dirtyTail + 1
                  dtlb := ti.dtlb.map mark }
      if ti.dirtyTail + 1 - ti.dirtyHead ≥ 128 then s.postOnce (.dirtyLogMerge t.tile) else s

/-! ### Accesses in flight -/

/-- The cells that a load reads as data, and those it reads as scales (R125). -/
def dataCells : LoadDest → List Nat
  | .raw _ _ cs => cs
  | .elem _ _ _ src => src.cells
  | .lanes _ _ _ srcs => srcs.flatMap (·.cells)
def scaleCells : LoadDest → List Nat
  | .raw _ _ _ => []
  | .elem _ _ _ src => src.scale.toList
  | .lanes _ _ _ srcs => srcs.flatMap (·.scale.toList)

/-- The size of the cell of a ticketed format (R179). -/
def tfBytes : TfFmt → Nat
  | .fp64 => 8
  | .fp32 | .fp16x2 | .bf16x2 => 4

/-- The accesses an event stands for: the threads whose access each is, its path and its cells (R158). -/
def accessesOf : Instr → List (List ThreadId × Nat × List Nat)
  | .loadResponse r => [([r.tid], r.path, dataCells r.dest), ([r.tid], r.spath, scaleCells r.dest)]
  | .storeAtHome r =>
    [(r.tid :: r.slots.map fun sl => { tile := r.tid.tile, slot := sl }, r.path, r.cells.map (·.1))]
  | .feAtHome r => [([r.tid], r.path, cellsFrom r.cell 8)]
  | .atomicAtHome r => [([r.tid], r.path, cellsFrom r.cell r.bytes)]
  | .ticketUpdateArrival r => [([r.tid], r.path, cellsFrom r.cell (tfBytes r.fmt))]
  | _ => []

/-- Whether an event is a RED. -/
def isRed : Instr → Bool
  | .atomicAtHome r => !r.ret
  | _ => false

end Sys2Proof.Machine
end

