-- ==== Sys2Proof/Machine/Fetch.lean ====
section
/-! DEFINITION. The fetch of an instruction: the bytes at the pc, on path 0 with EX, and what they decode to (R298,
R301). -/

namespace Sys2Proof.Machine

/-- What a fetch delivers. -/
inductive Fetched where
  | insn (i : Instr)
  | illegal (w : InsnWord)
  | bad (b : FetchBad)
  | stray (pa : Nat)
  deriving DecidableEq, Repr

/-- The word at a virtual address, on path 0 with EX (R298). Another device may refuse a fetch through a window, and what
it holds is a free value (R247; assumption 6). -/
def State.fetchWord (s : State) (t : ThreadId) (va : Nat) : Except Fetched Nat :=
  match s.translate t .fetch va with
  | .ok (.cell c) =>
    if !isHbmCell c && c < 2 ^ 63 then .error (.stray c) else .ok (s.readN c 4)
  | .ok (.remote _ _) =>
    if Config.remoteRefuses s.frees then .error (.bad (.trap cRemoteLost (BitVec.ofNat 64 va)))
    else .ok ((Config.freeWord s.frees).toNat % 2 ^ 32)
  | .error (.trap c v) => .error (.bad (.trap c v))
  | .error (.pageFault va q l p) => .error (.bad (.pageFault va q l p))
  | .error (.miss va) => .error (.bad (.miss va))
  | .error (.scaleMiss _ va) => .error (.bad (.miss va))
  | .error (.scaleFault _ va q l p) => .error (.bad (.pageFault va q l p))
  | .error (.stray pa) => .error (.stray pa)

/-- The instruction at a thread's pc: one word, or an EXT with the word after it (R298, R301). -/
def State.fetch (s : State) (t : ThreadId) : Fetched :=
  let pc := (s.thread t).pc.toNat
  if pc % 4 ≠ 0 then .bad (.trap cMisalignedFetch (BitVec.ofNat 64 pc))
  else
    match s.fetchWord t pc with
    | .error f => f
    | .ok w =>
      let second : Except Fetched (List Byte) :=
        if w / 2 ^ 26 = 0x0F then
          match s.fetchWord t (pc + 4) with
          | .error f => .error f
          | .ok w2 => .ok (bytesOfWord w2)
        else .ok []
      match second with
      | .error f => f
      | .ok more =>
        match decode (bytesOfWord w ++ more) with
        | .ok (i, _) => .insn i
        | .error _ => .illegal (BitVec.ofNat 32 w)

end Sys2Proof.Machine
end

