-- ==== Sys2Proof/Machine/Log.lean ====
section
/-! DEFINITION. The record log as a ring in HBM: its records, their writing and reading, its room (R114 to R118). -/

namespace Sys2Proof.Machine

/-- A record (R115). -/
structure LogRec where
  kind  : Nat
  lid   : Nat
  slot  : Nat
  cnt   : Nat
  value : Word
  deriving DecidableEq, Repr

def rlogSize (p : Partition) : Nat := 2 ^ (bits p.rlogb 55 51 + 8)
def rlogUsed (p : Partition) : Nat := (p.rlogHead + 2 ^ 32 - p.rlogTail) % 2 ^ 32 % rlogSize p
/-- The log is full: what is left is the reserve. -/
def rlogFull (p : Partition) : Bool := rlogUsed p + bits p.rlogb 63 56 > rlogSize p
/-- Records that still have a place. -/
def rlogRoom (p : Partition) : Nat := rlogSize p - 1 - rlogUsed p
/-- Whether `k` more records have a place, and the pause's after them (R116). -/
def rlogTakes (p : Partition) (k : Nat) : Bool := rlogRoom p > k
def rlogAt (p : Partition) (i : Nat) : Nat := bits p.rlogb 50 12 * 4096 + i % rlogSize p * 16

/-- A record is written, and RLOGH advances. -/
def State.putLog (s : State) (n : Nat) (r : LogRec) : State :=
  let p := s.part n
  let at_ := rlogAt p p.rlogHead
  let lo := r.kind % 256 + r.lid % 2 ^ 12 * 2 ^ 8 + r.slot % 16 * 2 ^ 20 + r.cnt % 2 ^ 24 * 2 ^ 24 +
    p.qnum % 2 ^ 16 * 2 ^ 48
  let s := (s.write64 0 at_ (BitVec.ofNat 64 lo)).write64 0 (at_ + 8) r.value
  s.modPart n fun p => { p with rlogHead := (p.rlogHead + 1) % 2 ^ 32 }

/-- The record of an index. -/
def State.getLog (s : State) (n i : Nat) : LogRec × Nat :=
  let at_ := rlogAt (s.part n) i
  let w := s.read64 at_
  ({ kind := bits w 7 0, lid := bits w 19 8, slot := bits w 23 20, cnt := bits w 47 24, value := s.read64 (at_ + 8) },
    bits w 63 48)

/-- The record of an outcome at a thread. -/
def State.logAt (s : State) (n : Nat) (t : ThreadId) (kind : Nat) (v : Word) : LogRec :=
  { kind := kind, lid := s.logicalId n t.tile, slot := t.slot, cnt := (s.thread t).count, value := v }

/-- The records from RLOGH on, up to a quantum marker: those of the current quantum, with their distance from
RLOGH. -/
def State.quantumRecs (s : State) (n : Nat) : Nat → Nat → List (Nat × LogRec)
  | 0, _ => []
  | fuel + 1, i =>
    let (r, q) := s.getLog n ((s.part n).rlogHead + i)
    if r.kind = 1 || r.kind = 0 || q ≠ (s.part n).qnum % 2 ^ 16 then [] else (i, r) :: s.quantumRecs n fuel (i + 1)

/-- Those that replay still has to find: all but the log's own pauses. -/
def State.owed (s : State) (n : Nat) : List (Nat × LogRec) :=
  (s.quantumRecs n (rlogSize (s.part n)) 0).filter fun x => !(s.part n).rlogTaken.contains x.1 && x.2.kind < 0x0E

/-- The records owed at a tile, in log order (R117): those whose outcomes its threads await. Role changes and retirements
come at the boundary. -/
def State.owedAt (s : State) (n tile : Nat) : List LogRec :=
  ((s.owed n).filter fun x => x.2.lid = s.logicalId n tile && x.2.kind < 0x0C).map (·.2)

/-- Whether a record that `f` accepts lies anywhere ahead in the log, later quanta included. -/
def State.logAhead (s : State) (n : Nat) (f : LogRec → Bool) : Nat → Nat → Bool
  | 0, _ => false
  | fuel + 1, i =>
    let r := (s.getLog n ((s.part n).rlogHead + i)).1
    r.kind ≠ 0 && (f r || s.logAhead n f fuel (i + 1))

/-- Whether a partition replays ordinary outcomes (R117). -/
def State.replaying (s : State) (n : Nat) : Bool :=
  let p := s.part n
  p.rlogState == 2 && p.mode == 0 && p.quanta && !p.halted

/-- Whether replay still has to find a node somewhere: the tile where the log has it next dispatched to a slot, or the
tile that it is next stolen from (R115; assumption 125). -/
def State.logTile (s : State) (n node : Nat) : Option Nat :=
  let own (i : Nat) : Bool := !(s.part n).rlogTaken.contains i
  let go := (List.range (rlogSize (s.part n))).findSome? fun i =>
    let r := (s.getLog n ((s.part n).rlogHead + i)).1
    if r.kind = 0 then some none
    else if own i && r.kind = 2 && r.value = BitVec.ofNat 64 node then some (some r.lid)
    else if own i && r.kind = 3 && bits r.value 50 12 ≠ 0 && bits r.value 50 12 = node / 4096 then
      some (some (bits r.value 11 0))
    else none
  (go.getD none).bind fun l => (s.liveTiles n)[l]?

/-- The steal that replay owes at a tile: its victim, and the stolen node's place, 0 for a refusal (R115, R117). -/
def State.stealOwed (s : State) (n tile : Nat) : Option (Nat × Nat) :=
  if !s.replaying n then none
  else
    match s.owedAt n tile with
    | x :: _ => if x.kind = 3 then ((s.liveTiles n)[bits x.value 11 0]?).map fun v => (v, bits x.value 50 12) else none
    | [] => none

/-- Whether replay has a full/empty operation of a thread park, whatever its word's state (R117). -/
def State.parkOwed (s : State) (t : ThreadId) : Bool :=
  match s.partOfTile t.tile with
  | none => false
  | some n =>
    s.replaying n && (match s.owedAt n t.tile with
      | x :: _ => x.kind = 7 && x.slot = t.slot && x.value = 1
      | [] => false)

end Sys2Proof.Machine
end

