-- ==== Sys2Proof/Machine/Contain.lean ====
section
/-! DEFINITION. Containment of errors: event counters, containment records, the consumption of poison, fault
logs and the halt of a context (R193 to R195, R266 to R276). -/

namespace Sys2Proof.Machine

/-! ### Kettle units (R176, R276) -/

/-- The unit that an HBM address belongs to. -/
def kettleOf (pa : Nat) : Nat := pa / 2 ^ 12 % 32

/-- The serving unit of a unit: the first live one of u, u xor 1, u xor 2, u xor 3; none when the whole
stack's units are retired (R276). -/
def State.serving (s : State) (u : Nat) : Option Nat :=
  [u, u ^^^ 1, u ^^^ 2, u ^^^ 3].find? fun v => !(s.kettle v).dead

/-- The home of a cell, an HBM cell's being its serving unit (R155, R176). -/
def State.homeOf (s : State) (c : Nat) : Option Home :=
  if c < 2 ^ 63 then (s.serving (kettleOf c)).map Home.kettle else some (.bank (cellBank c))

/-- A home as the HOME field of a fault log entry (R193). A tile of a bank layer has no logical coordinates: its
physical tile ID stands for it (assumption 108). For a remote window the rule gives no word: the model has 0x8000_1000
plus the window's number (assumption 137). -/
def State.homeWord (s : State) : Home → Nat
  | .bank t => if s.computes (tileZ t) then (s.tileId t).toNat else s.physId t
  | .kettle u => 0x80000000 + u
  | .remote w => 0x80000000 + 0x1000 + w

/-- Where a cell's errors are located (R269 LOC). -/
def locOf (c : Nat) : Nat := if c < 2 ^ 63 then 0x80000000 + kettleOf c else cellBank c

/-! ### Event counters (R274) -/

def unitKey : Unit_ → Nat
  | .bank t => t
  | .core t => 2 ^ 12 + t
  | .vectorUnit t => 2 * 2 ^ 12 + t
  | .matrixUnit t => 3 * 2 ^ 12 + t
  | .router t => 4 * 2 ^ 12 + t
  | .agent c => 5 * 2 ^ 12 + c
  | .kettle u => 6 * 2 ^ 12 + u
  | .die z => 7 * 2 ^ 12 + z
  | .link l => 8 * 2 ^ 12 + l

def State.counter (s : State) (u : Unit_) : EventCount := SMap.get EventCount.zero s.counts (unitKey u)

/-- The cycles that a structure's clock has counted. -/
def State.unitTc (s : State) (u : Unit_) : Nat :=
  match unitTile u with
  | some t => s.tc t
  | none => s.now

/-- The count a structure holds now: none once its window has lapsed. -/
def State.eventsHeld (s : State) (u : Unit_) : Nat :=
  let c := s.counter u
  if c.count ≠ 0 && s.unitTc u - c.start ≥ 2 ^ 30 then 0 else c.count

/-- A partition hold is asked for (R31): every tile of the partition will arrive on the hold wire. -/
def State.takeHold (s : State) (n : Nat) (why : HoldFor) : State :=
  match (s.part n).hold with
  | some _ => s
  | none =>
    -- where quanta run the hold is taken at a boundary, at which every tile has already arrived
    if (s.part n).quanta then s.postOnce (.holdBegin n)
    else
      let s := s.modPart n fun p => { p with hold := some { why := why, begun := false, since := s.now, lags := s.lags, wakes := [] } }
      if (s.liveTiles n).isEmpty then s.post (.holdBegin n)
      else s.postAll ((s.liveTiles n).map Instr.holdWireArrival)

/-- The partitions a retirement concerns: a Kettle unit's is every partition (R37, R276). -/
def State.retireParts (s : State) (u : Unit_) : List Nat :=
  match unitTile u with
  | some t => (s.partOfTile t).toList
  | none => (List.range 8).filter fun n => pdescValid (s.pdesc n)

/-- Whether a role change of a partition is under way, whose step 4 takes its retirements with it (R33). -/
def State.roleRuns (s : State) (n : Nat) : Bool :=
  s.floor.roleBusy && 1 ≤ s.floor.roleStep && !s.floor.roleStop && s.floor.seqPart == n

/-- A lasting fault: the retirement is decided and the holds are taken (R37, R275). -/
def State.lasting (s : State) (u : Unit_) : State :=
  let s := s.modFloor fun f => { f with retireQ := f.retireQ ++ [u] }
  ((s.retireParts u).filter fun n => !s.roleRuns n).foldl (fun s n => s.takeHold n .retire) s

/-- The hold for the retirements of a partition that are decided and not yet in effect. -/
def State.holdRetired (s : State) (n : Nat) : State :=
  if s.floor.retireQ.any fun u => (s.retireParts u).contains n then s.takeHold n .retire else s

/-- An event of a structure (R274): the count it reports, and whether the fault is lasting. -/
def State.countEvent (s : State) (u : Unit_) : State × Nat × Bool :=
  let k := unitKey u
  let c := s.counter u
  let n := if s.eventsHeld u = 0 then 1 else c.count + 1
  let start := if n = 1 then s.unitTc u else c.start
  if n = 3 then
    (({ s with counts := SMap.set EventCount.zero s.counts k { c with count := 0, start := start } }).lasting u,
      3, true)
  else
    let s := { s with counts := SMap.set EventCount.zero s.counts k { c with count := n, start := start } }
    (if n = 1 then s.postIn (2 ^ 30) (.faultWindowLapse u) else s, n, false)

/-! ### Containment records (R268, R269) -/

/-- The tile that runs a context's task, where one is resident. -/
def State.tileOfCtx (s : State) (tag : Tag) : Option Nat :=
  (s.tiles.find? fun e =>
    match e.2.task with
    | some k => k.tag == tag
    | none => false).map (·.1)

/-- A record for the partition's ring, written in its turn. -/
def State.putRecord (s : State) (r : CtnRec) : State :=
  (s.modFloor fun f => { f with ctnWait := f.ctnWait ++ [r] }).post .containmentRecordWrite
def State.record (s : State) (tag : Tag) (cause : Nat) (await : Bool) (k : Strike) : State :=
  s.putRecord (ctnRec s.floor.device tag cause (s.ctx tag).surv await k)

/-- Every thread of a tile is stopped. -/
def State.stopAll (s : State) (tile : Nat) : State :=
  s.modTile tile fun t =>
    { t with slots := t.slots.map (fun (e : Nat × Thread) => (e.1, { Thread.zero with st := .stopped, pc := e.2.pc }))
             twins := []
             vq := t.vq.map (fun u => { u with slot := 16 }), mq := t.mq.map (fun u => { u with slot := 16 }) }

/-- A copy of a die pair ends and counts as disagreeing (R280): the comparison will see to it. -/
def State.spoilCopy (s : State) (tag : Tag) (node : Nat) : State :=
  let n := tagPart tag
  let hit (d : DiePair) : DiePair :=
    if d.tags.contains tag then { d with bad := d.bad.set (d.tags.findIdx (· == tag)) true } else d
  (s.modPart n fun p => { p with pairs := p.pairs.map hit }).postOnce (.digestCompare n node)

/-- A containment fault of a context (R268): survivable contexts await the supervisor, the others end by
Avalanche, whose record is written at its release (R271); a context without a live thread is recorded only (R267).
A thread pair diverges, and a copy of a die pair ends (R277, R280). -/
def State.contain (s : State) (tag : Tag) (cause : Nat) (k : Strike) : State :=
  if tagCtx tag = 0 then if k.last then s.record tag cause false k else s
  else
    let c := s.ctx tag
    -- what a redundant task meets is the comparison's affair, but a retirement is on record (R275)
    let reported := if k.last then s.record tag 0x45 false k else s
    match s.tileOfCtx tag with
    | none => s.record tag cause false k
    | some tile =>
      match (s.tile tile).task with
      | none => s
      | some task =>
        if !c.live then s.record tag cause false k
        else if c.dying then s.keepRecord tag cause k
        else if task.rdm = 1 then (reported.stopAll tile).postOnce (.twinTimeout { tile := tile, slot := 0 })
        else if task.copy ≠ 0 then (reported.stopAll tile).spoilCopy tag task.node
        else if c.surv then
          (s.record tag cause true k).modCtx tag fun c => { c with await := c.await + 1 }
        else (s.keepRecord tag cause k).avalancheAll tag cause

/-- The thread no longer owns what it has in the units' queues. -/
def Tile.detach (t : Tile) (slot : Nat) : Tile :=
  let f (u : UnitOp) : UnitOp := if u.slot = slot then { u with slot := 16 } else u
  { t with vq := t.vq.map f, mq := t.mq.map f }

/-- Whether an event brings thread `t` an answer: no later thread of the slot takes it (R39). -/
def answersTo (t : ThreadId) : Instr → Bool
  | .loadResponse r => r.tid == t
  | .pageWalk r => r.tid == t
  | .feAtHome r => r.tid == t
  | .atomicAnswer u _ _ _ => u == t
  | .waitTimeout u => u == t
  | _ => false

/-- The thread of an operation that goes on at its home without it: slot 16, which holds none. -/
def noThread (t : ThreadId) : ThreadId := { t with slot := 16 }

/-- Operations of a thread that go on at their homes are no longer its: what they answer reaches no thread (R39). -/
def State.orphan (s : State) (t : ThreadId) : State :=
  let gone (x : ThreadId) : ThreadId := if x = t then noThread t else x
  let op (g : GuestOp) : GuestOp := { g with tid := gone g.tid }
  let upd (u : TkUpd) : TkUpd := { u with tid := gone u.tid }
  let ev (e : Instr) : Instr := match e with
    | .atomicAtHome g => .atomicAtHome (op g)
    | .ticketUpdateArrival u => .ticketUpdateArrival (upd u)
    | .storeAtHome r => .storeAtHome { r with tid := gone r.tid }
    | e => e
  let s := s.mapTiles fun _ x =>
    { x with guests := x.guests.map fun (e : Nat × GuestOp) => (e.1, op e.2), guestQ := x.guestQ.map op }
  let s := s.mapKettles fun k =>
    { k with guests := k.guests.map fun (e : Nat × GuestOp) => (e.1, op e.2), waitQ := k.waitQ.map op }
  { s with
    agenda := (s.agenda.filter fun q => !answersTo t q.ev).map fun q => { q with ev := ev q.ev }
    windows := s.windows.map fun w => { w with caddy := w.caddy.map fun e => { e with upd := upd e.upd } } }

/-- A thread is stopped by an uncorrectable error (R267): its bank is scrubbed, and a thread that waits
for it, or for every helper, in HJOIN is woken (R81, R268). -/
def State.stopThread (s : State) (t : ThreadId) : State :=
  let s := s.modThread t fun th => { Thread.zero with st := .stopped, pc := th.pc }
  let s := s.modTile t.tile (·.detach t.slot)
  let s := s.orphan t
  s.wakeIf fun u p => u.tile == t.tile && (p == .helperJoin t.slot || p == .helperJoin 0)

/-- The strike of a cell: its structure, location and address form (R269). -/
def State.strikeCell (s : State) (c : Nat) : Strike :=
  { struct_ := if c < 2 ^ 63 then 13 else 0, slot := 0, stop := false, wide := false, last := false
    count := if c < 2 ^ 63 then 1 else Nat.max 1 (s.eventsHeld (.bank (cellBank c)))
    loc := locOf c, addr := BitVec.ofNat 64 c, epc := 0, seq := none }

/-- The first cell of a list whose word holds an uncorrectable error. -/
def State.firstPoison (s : State) (cells : List Nat) : Option Nat :=
  cells.find? fun c => SMap.get false s.pois (c / 8)

/-- Poisoned data of a context enters a register of thread `t` (R267, R277, R280, R344). -/
def State.eatPoison (s : State) (t : ThreadId) (owner : Tag) (addr : Word) : State :=
  let k := s.strikeCell (cellOfPhys addr)
  let mine := s.tagOf t
  let redundant : Bool := match (s.tile t.tile).task with
    | some x => x.rdm == 1 || x.copy != 0
    | none => false
  if owner = mine || redundant then
    let epc := (s.thread t).pc
    let s := if owner = mine then s else s.contain owner 0x40 k
    (s.stopThread t).contain mine 0x40 { k with stop := true, slot := t.slot, epc := epc }
  else (s.contain owner 0x40 k).takeTrap t false cPoisonedData addr false

/-- Uncorrectable data would enter a register of thread `t` (R267): nothing where the cells are clean. -/
def State.consume (s : State) (t : ThreadId) (cells : List Nat) : Option State :=
  match s.firstPoison cells with
  | none => none
  | some c =>
    some (s.eatPoison t (s.poisonOwner c) (s.physAddr (c / 8 * 8)))

/-! ### Fault logs (R193 to R195) -/

/-- An entry of a context's fault log. -/
structure LogEntry where
  ptr    : Word
  insn   : InsnWord
  cause  : Nat
  opnd   : Word
  ticket : Nat
  home   : Nat
  deriving DecidableEq, Repr

/-- The entry written to the log of a live context, or dropped with OVF when eight are held. -/
def State.flog (s : State) (tag : Tag) (e : LogEntry) : State :=
  let c := s.ctx tag
  if !c.live then s
  else if c.logCount ≥ 8 then s.modCtx tag fun c => { c with logOvf := true }
  else
    let base := bits (s.owner tag).flogb 50 21 * 2 ^ 21 + tagCtx tag * 256 + c.logCount * 32
    let s := s.write64 tag base e.ptr
    let s := s.write64 tag (base + 8)
      (BitVec.ofNat 64 (e.insn.toNat + e.cause % 128 * 2 ^ 32))
    let s := s.write64 tag (base + 16) e.opnd
    let s := s.write64 tag (base + 24) (BitVec.ofNat 64 (e.ticket % 2 ^ 32 + e.home % 2 ^ 32 * 2 ^ 32))
    s.modCtx tag fun c => { c with logCount := c.logCount + 1 }

/-- The check of FENCE and TEXIT (R195): a log that holds entries traps the instruction with posted-fault
and halts the context; none where the log is empty. -/
def State.logCheck (s : State) : Option State :=
  let tag := s.myTag
  let n := (s.ctx tag).logCount
  if n = 0 then none
  else
    some (((s.modCtx tag fun c => { c with halt := some s.cur })).trap cPostedFault (BitVec.ofNat 64 n))

/-! ### Control blocks (R174) -/

/-- The 256-byte lines that engines of the device hold. -/
def State.heldLines (s : State) : List Nat :=
  let parts := (List.range 8).flatMap fun n =>
    (s.part n).colls.flatMap (fun c => c.parts.map fun p => p.block / 256) ++
    ((s.part n).streams.filter fun st => !st.broken).map fun st => st.desc / 256
  let kets := s.kettles.flatMap fun e => e.2.queue.map fun k => k.block / 256
  parts ++ kets

/-- The cells of a partition's live node records, as the graph engine reaches them: from insertion to retirement a
record is the engine's (R76, R446). -/
def State.nodeCells (s : State) (n : Nat) : List Nat :=
  let p := s.part n
  (p.nodes.filter fun d => d.state < 4).flatMap fun d =>
    match p.launches.find? fun l => l.id = d.launch with
    | some l =>
      match s.reachWalk (mkTag l.owner.toNat n l.ctx) l.priv .graph true 2 d.addr 128 with
      | .ok cs => cs
      | .error _ => []
    | none => []

/-- Whether a store of the executing thread meets control-block-busy: deterministic mode and, among its cells, a
held line or part of a live node record (R76, R174). -/
def State.blockBusy (s : State) (cells : List Nat) : Option Nat :=
  if (s.part s.myPart).mode = 1 then
    let recs := s.nodeCells s.myPart
    cells.find? fun c => s.heldLines.contains (c / 256) || recs.contains c
  else none

end Sys2Proof.Machine
end

