-- ==== Sys2Proof/Machine/Flags.lean ====
section
/-! DEFINITION. Conditions and flags: the predicates of CMP (R299), the flag bits of FSTAT (R220), and how
a flag computation joins them. -/

namespace Sys2Proof.Machine

/-- Whether a condition holds between two words (R299). -/
def condHolds (c : Cond) (x y : Word) : Bool :=
  match c with
  | .eq => x == y
  | .ne => x != y
  | .lt => x.slt y
  | .ge => !x.slt y
  | .ltu => x.ult y
  | .geu => !x.ult y

/-- The flags of FSTAT, each at its bit (R220). -/
def flagInvalid : BitVec 5 := 1
def flagDivZero : BitVec 5 := 2
def flagOverflow : BitVec 5 := 4
def flagUnderflow : BitVec 5 := 8
def flagInexact : BitVec 5 := 16

/-- Flags raised are ORed into FSTAT (R221). -/
def Thread.raise (t : Thread) (f : BitVec 5) : Thread := { t with fstat := t.fstat ||| f }

/-- PLOG's value: bit (2 × pa + pb) of the table (R302). -/
def plogValue (tt : BitVec 4) (a b : Bool) : Bool :=
  tt.getLsbD ((if a then 2 else 0) + (if b then 1 else 0))

end Sys2Proof.Machine
end

