-- ==== Sys2Proof/Machine/Num.lean ====
section
/-! DEFINITION. Exact values, the number formats, and rounding (R196 to R208). A floating format is its grid:
magnitude code j·2^M + n stands for n·2^(qmin+j), so that the next grid point is the next code, in every
format of the machine. -/

namespace Sys2Proof.Machine

/-- An exact value: NaN (signalling or not), infinity, or (−1)^neg · m · 2^e. -/
inductive Val where
  | nan (sig : Bool)
  | inf (neg : Bool)
  | num (neg : Bool) (m : Nat) (e : Int)
  deriving DecidableEq, Repr

/-- A floating format: fraction bits M, exponent of the least grid step, the largest finite magnitude
code, the code's width, and what codes it has (R196 to R200). -/
structure Grid where
  m       : Nat
  qmin    : Int
  maxCode : Nat
  width   : Nat
  hasInf  : Bool
  hasNan  : Bool
  negZero : Bool
  signed  : Bool
  ieee    : Bool
  deriving DecidableEq, Repr

def ieeeGrid (w f : Nat) (bias : Int) (width : Nat) : Grid :=
  { m := f, qmin := 1 - bias - f, maxCode := (2 ^ w - 1) * 2 ^ f - 1, width := width, hasInf := true
    hasNan := true, negZero := true, signed := true, ieee := true }
def gFp64 : Grid := ieeeGrid 11 52 1023 64
def gFp32 : Grid := ieeeGrid 8 23 127 32
def gBf16 : Grid := ieeeGrid 8 7 127 16
def gFp16 : Grid := ieeeGrid 5 10 15 16
/-- E2M1: no infinity, no NaN, a negative zero (R200). -/
def gE2m1 : Grid :=
  { m := 1, qmin := -1, maxCode := 7, width := 4, hasInf := false, hasNan := false, negZero := true
    signed := true, ieee := false }
/-- A binary8 format by its code (R198, R199). -/
def gBin8 (fc : Nat) : Grid :=
  let p := fc % 8
  let u := fc / 16 % 2 == 1
  let i := fc / 8 % 2 == 1
  let bias : Int := ((2 ^ (if u then 8 - p else 7 - p) : Nat) : Int)
  { m := p - 1, qmin := 1 - bias - ((p - 1 : Nat) : Int)
    maxCode := if u then (if i then 0xFD else 0xFE) else (if i then 0x7E else 0x7F)
    width := 8, hasInf := i, hasNan := true, negZero := false, signed := !u, ieee := false }

/-- A grid point by its magnitude code. -/
def Grid.mag (g : Grid) (c : Nat) : Nat × Int :=
  if c < 2 ^ g.m then (c, g.qmin) else (c % 2 ^ g.m + 2 ^ g.m, g.qmin + (c / 2 ^ g.m - 1 : Nat))

/-- The value of an encoded number (R196 to R200). -/
def Grid.decode (g : Grid) (x : Nat) : Val :=
  let x := x % 2 ^ g.width
  let top := 2 ^ (g.width - 1)
  let fin (neg : Bool) (c : Nat) : Val := .num neg (g.mag c).1 (g.mag c).2
  if g.ieee then
    let neg := x / top == 1
    let c := x % top
    if c ≤ g.maxCode then fin neg c
    else if c = g.maxCode + 1 then .inf neg
    else .nan (c / 2 ^ (g.m - 1) % 2 == 0)
  else if !g.hasNan then fin (x / top == 1) (x % top)
  else if g.signed then
    if x = top then .nan false
    else if g.hasInf && x % top = top - 1 then .inf (x / top == 1)
    else fin (x / top == 1) (x % top)
  else if x = 2 * top - 1 then .nan false
  else if g.hasInf && x = 2 * top - 2 then .inf false
  else fin false x

/-- The NaN a format produces (R197, R198); formats without a NaN give +0 (R206). -/
def Grid.nanCode (g : Grid) : Nat :=
  if g.ieee then g.maxCode + 1 + 2 ^ (g.m - 1)
  else if !g.hasNan then 0
  else if g.signed then 2 ^ (g.width - 1) else 2 ^ g.width - 1

def Grid.infCode (g : Grid) : Nat := g.maxCode + 1

/-- A signed magnitude code as encoded: a format without −0 gives 0 for a zero. -/
def Grid.code (g : Grid) (neg : Bool) (c : Nat) : Nat :=
  if neg && (c ≠ 0 || g.negZero) then c + 2 ^ (g.width - 1) else c

/-- How a mode rounds a magnitude up, given twice the remainder against the step, the code's parity and
the sixteen random bits (R203, R208). -/
def roundsUp (mode : RMode) (neg odd : Bool) (rem step rnd : Nat) : Bool :=
  rem ≠ 0 &&
  match mode with
  | .rne | .rnesat => 2 * rem > step || (2 * rem == step && odd)
  | .rtz => false
  | .rdn => neg
  | .rup => !neg
  | .sr | .srsat => rem * 2 ^ 16 / step + rnd ≥ 2 ^ 16

/-- The integer part of m·2^(e−q), the remainder and the step it is counted against. -/
def splitAt (m : Nat) (e q : Int) : Nat × Nat × Nat :=
  if q ≤ e then (m * 2 ^ (e - q).toNat, 0, 1)
  else
    let st := 2 ^ (q - e).toNat
    (m / st, m % st, st)

/-- What an overflow gives: infinity or the largest finite value (R204). -/
def overflowInf (g : Grid) (mode : RMode) (neg : Bool) : Bool :=
  g.hasInf &&
  match mode with
  | .rne | .sr => true
  | .rtz | .rnesat | .srsat => false
  | .rdn => neg
  | .rup => !neg

/-- RoundFP (R203 to R206, R208): the code and the flags. -/
def roundFP (g : Grid) (mode : RMode) (rnd : Nat) (v : Val) : Nat × BitVec 5 :=
  let sat := mode == .rnesat || mode == .srsat
  match v with
  | .nan sig => (g.nanCode, if sig || !g.hasNan then flagInvalid else 0)
  | .inf neg =>
    if neg && !g.signed then
      if sat then (0, flagInexact) else (g.nanCode, flagInvalid)
    else if g.hasInf then (g.code neg g.infCode, 0)
    else if !g.hasNan then (g.code neg g.maxCode, flagOverflow ||| flagInexact)
    else if sat then (g.code neg g.maxCode, flagOverflow ||| flagInexact)
    else (g.nanCode, flagInvalid)
  | .num neg m e =>
    if m = 0 then (g.code neg 0, 0)
    else if neg && !g.signed then
      if sat then (0, flagInexact) else (g.nanCode, flagInvalid)
    else
      let q0 : Int := (Nat.log2 m : Int) + e - g.m
      let q := if q0 < g.qmin then g.qmin else q0
      let (n, rem, step) := splitAt m e q
      let c := (q - g.qmin).toNat * 2 ^ g.m + n
      let c' := if roundsUp mode neg (c % 2 == 1) rem step rnd then c + 1 else c
      if c' > g.maxCode then
        (if overflowInf g mode neg then g.code neg g.infCode else g.code neg g.maxCode,
          flagOverflow ||| flagInexact)
      else
        (g.code neg c',
          if rem = 0 then 0
          else if c' < 2 ^ g.m then flagInexact ||| flagUnderflow else flagInexact)

/-- Rounding to an integer format of `w` bits (R206, R207): saturation with invalid. -/
def roundInt (signed : Bool) (w : Nat) (mode : RMode) (rnd : Nat) (v : Val) : Nat × BitVec 5 :=
  let lo : Int := if signed then -((2 ^ (w - 1) : Nat) : Int) else 0
  let hi : Int := if signed then ((2 ^ (w - 1) : Nat) : Int) - 1 else ((2 ^ w : Nat) : Int) - 1
  let code (x : Int) : Nat := (BitVec.ofInt w x).toNat
  match v with
  | .nan _ => (0, flagInvalid)
  | .inf neg => (code (if neg then lo else hi), flagInvalid)
  | .num neg m e =>
    let (n, rem, step) := splitAt m e 0
    let n' := if roundsUp mode neg (n % 2 == 1) rem step rnd then n + 1 else n
    let x : Int := if neg then -(n' : Int) else n'
    if x < lo then (code lo, flagInvalid)
    else if x > hi then (code hi, flagInvalid)
    else (code x, if rem = 0 then 0 else flagInexact)

/-! ### Register and storage formats (R48, R123, R202) -/

end Sys2Proof.Machine
namespace Sys2Proof
open Sys2Proof.Machine

def VFmt.width : VFmt → Nat
  | .fp64 | .i64 => 64
  | .fp32 | .i32 => 32
  | .bf16 | .fp16 | .i16 => 16
  | .i8 => 8
/-- Lane counts (R48). -/
def VFmt.lanes (f : VFmt) : Nat := 2048 / f.width
def VFmt.grid? : VFmt → Option Grid
  | .fp64 => some gFp64
  | .fp32 => some gFp32
  | .bf16 => some gBf16
  | .fp16 => some gFp16
  | .i64 | .i32 | .i16 | .i8 => none
def VFmt.grid (f : VFmt) : Grid := f.grid?.getD gFp64

end Sys2Proof
namespace Sys2Proof.Machine

/-- A two's complement or unsigned integer as an exact value. -/
def intVal (signed : Bool) (w x : Nat) : Val :=
  let i : Int := if signed then (BitVec.ofNat w x).toInt else ((x % 2 ^ w : Nat) : Int)
  .num (i < 0) i.natAbs 0

end Sys2Proof.Machine
namespace Sys2Proof
open Sys2Proof.Machine

/-- The value of a register element. -/
def VFmt.decode (f : VFmt) (x : Nat) : Val :=
  match f.grid? with
  | some g => g.decode x
  | none => intVal true f.width x
/-- A value rounded into a register element. -/
def VFmt.encode (f : VFmt) (mode : RMode) (rnd : Nat) (v : Val) : Nat × BitVec 5 :=
  match f.grid? with
  | some g => roundFP g mode rnd v
  | none => roundInt true f.width mode rnd v

end Sys2Proof
namespace Sys2Proof.Machine

/-- What a storage format code stands for (R123). -/
inductive Storage where
  | raw
  | int (signed : Bool) (w : Nat)
  | float (g : Grid)
  | scale
  | reserved
  deriving DecidableEq, Repr

def storage (f : Nat) : Storage :=
  match f with
  | 0 => .raw
  | 1 => .int true 8
  | 2 => .int false 8
  | 3 => .int true 16
  | 4 => .int false 16
  | 5 => .int true 32
  | 6 => .int false 32
  | 7 => .int true 64
  | 8 => .float gFp64
  | 9 => .float gFp32
  | 10 => .float gBf16
  | 11 => .float gFp16
  | 12 => .float gE2m1
  | 13 => .scale
  | _ => if f < 0x20 || f % 8 = 0 || f ≥ 0x40 then .reserved else .float (gBin8 f)

/-- The value of a storage element; an E8M0 element is a power of two or NaN (R201). -/
def storageDecode (f x : Nat) : Val :=
  match storage f with
  | .raw => intVal false 8 x
  | .int sg w => intVal sg w x
  | .float g => g.decode x
  | .scale => if x % 256 = 255 then .nan false else .num false 1 ((x % 256 : Nat) - 127)
  | .reserved => .nan false

/-- E8M0 as a target (R408): a positive value rounds on the powers of two, outside them it saturates, and
zero, negative values, infinities and NaN give 0xFF with invalid. -/
def encodeE8m0 (mode : RMode) (rnd : Nat) (v : Val) : Nat × BitVec 5 :=
  match v with
  | .num false m e =>
    let l := Nat.log2 m
    let x : Int := (l : Int) + e
    if m = 0 then (0xFF, flagInvalid)
    else if x > 127 || (x = 127 && m ≠ 2 ^ l) then (0xFE, flagOverflow ||| flagInexact)
    else if x < -127 then (0, flagUnderflow ||| flagInexact)
    else
      let c := (x + 127).toNat
      if m = 2 ^ l then (c, 0)
      else (if roundsUp mode false (c % 2 == 1) (m - 2 ^ l) (2 ^ l) rnd then c + 1 else c, flagInexact)
  | _ => (0xFF, flagInvalid)

/-- A value rounded into a storage element (R203 to R208). -/
def storageEncode (f : Nat) (mode : RMode) (rnd : Nat) (v : Val) : Nat × BitVec 5 :=
  match storage f with
  | .raw => roundInt false 8 mode rnd v
  | .int sg w => roundInt sg w mode rnd v
  | .float g => roundFP g mode rnd v
  | .scale => encodeE8m0 mode rnd v
  | .reserved => (0, 0)

/-- A value scaled by 2^k (R210). -/
def Val.scale (v : Val) (k : Int) : Val :=
  match v with
  | .num neg m e => .num neg m (e + k)
  | x => x

/-- A block-scaled element with scale code `sc` (R210). -/
def scaledVal (sc : Nat) (v : Val) : Val :=
  if sc = 255 then .nan false else v.scale ((sc : Int) - 127)

/-! ### Exact arithmetic (R212, R213) -/

def Val.isNan : Val → Bool
  | .nan _ => true
  | _ => false
def Val.isSig : Val → Bool
  | .nan s => s
  | _ => false
def Val.neg? : Val → Bool
  | .nan _ => false
  | .inf n => n
  | .num n _ _ => n
def Val.isZero : Val → Bool
  | .num _ m _ => m == 0
  | _ => false

/-- A result with the flags that arise before rounding. -/
abbrev Raised := Val × BitVec 5

def sigFlag (vs : List Val) : BitVec 5 := if vs.any Val.isSig then flagInvalid else 0

/-- The integer that counts a finite value in steps of 2^e0, e0 at or below its exponent. -/
def Val.steps (e0 : Int) : Val → Int
  | .num neg m e => (if neg then -1 else 1) * ((m * 2 ^ (e - e0).toNat : Nat) : Int)
  | _ => 0

def Val.expo : Val → Option Int
  | .num _ m e => if m = 0 then none else some e
  | _ => none

/-- The exact sum of a list, each term finite, infinite or NaN; a zero sum has the terms' common sign,
or + (− under RDN) (R212, R217). -/
def exactSum (rdn : Bool) (vs : List Val) : Raised :=
  if vs.any Val.isNan then (.nan false, sigFlag vs)
  else
    let pos := vs.any fun v => v == .inf false
    let neg := vs.any fun v => v == .inf true
    if pos && neg then (.nan false, flagInvalid)
    else if pos then (.inf false, 0)
    else if neg then (.inf true, 0)
    else
      let e0 := (vs.filterMap Val.expo).foldl (fun (a : Option Int) e =>
        match a with
        | none => some e
        | some b => some (if e < b then e else b)) none
      match e0 with
      | none =>
        if vs.all Val.neg? then (.num true 0 0, 0)
        else if vs.all fun v => !v.neg? then (.num false 0 0, 0)
        else (.num rdn 0 0, 0)
      | some e0 =>
        let t := vs.foldl (fun a v => a + v.steps e0) 0
        if t = 0 then (.num rdn 0 0, 0) else (.num (t < 0) t.natAbs e0, 0)

/-- The exact product (R212). -/
def exactMul (a b : Val) : Raised :=
  if a.isNan || b.isNan then (.nan false, sigFlag [a, b])
  else
    let neg := a.neg? != b.neg?
    match a, b with
    | .num _ m e, .num _ n f => (.num neg (m * n) (e + f), 0)
    | x, y => if x.isZero || y.isZero then (.nan false, flagInvalid) else (.inf neg, 0)

/-- The exact negation. -/
def Val.negate : Val → Val
  | .nan s => .nan s
  | .inf n => .inf (!n)
  | .num n m e => .num (!n) m e

/-- The product and addend in one exact step (R212). -/
def exactFma (rdn : Bool) (a b c : Val) : Raised :=
  let (p, f) := exactMul a b
  if a.isNan || b.isNan || c.isNan then
    (.nan false, sigFlag [a, b, c] ||| (if a.isNan || b.isNan then 0 else f))
  else if f ≠ 0 then (p, f)
  else exactSum rdn [p, c]

/-- The order of numbers with −0 below +0 or equal to it: a key of sign and magnitude at a common step. -/
def Val.less (zeros : Bool) (a b : Val) : Bool :=
  match a, b with
  | .nan _, _ => false
  | _, .nan _ => false
  | .inf x, .inf y => x && !y
  | .inf x, .num .. => x
  | .num .., .inf y => !y
  | .num n m e, .num n' m' e' =>
    if m = 0 && m' = 0 then zeros && n && !n'
    else
      let e0 := if e < e' then e else e'
      (Val.num n m e).steps e0 < (Val.num n' m' e').steps e0

/-- Equality of numbers: zeros are equal (R213). -/
def Val.same (a b : Val) : Bool := !a.isNan && !b.isNan && !a.less false b && !b.less false a

/-- Minimum and maximum with NaN propagating and −0 below +0 (R181, R213). -/
def valMin (a b : Val) : Raised :=
  if a.isNan || b.isNan then (.nan false, sigFlag [a, b]) else (if b.less true a then b else a, 0)
def valMax (a b : Val) : Raised :=
  if a.isNan || b.isNan then (.nan false, sigFlag [a, b]) else (if a.less true b then b else a, 0)

/-- A result rounded into a format: flags before and from rounding joined. -/
def roundRaised (g : Grid) (mode : RMode) (r : Raised) : Nat × BitVec 5 :=
  let x := roundFP g mode 0 r.1
  (x.1, x.2 ||| r.2)

/-! ### Faithful functions (R214) -/

/-- The integer square root by bits, from bit `k` down. -/
def isqrtFrom : Nat → Nat → Nat → Nat
  | 0, n, r => if (r + 1) * (r + 1) ≤ n then r + 1 else r
  | k + 1, n, r =>
    let r' := r + 2 ^ (k + 1)
    isqrtFrom k n (if r' * r' ≤ n then r' else r)
def isqrt (n : Nat) : Nat := isqrtFrom (Nat.log2 n / 2 + 1) n 0

/-- A magnitude known as floor(v) in steps of 2^e with a sticky bit below it. -/
def sticky (neg : Bool) (v : Nat) (exact : Bool) (e : Int) : Val :=
  .num neg (2 * v + (if exact then 0 else 1)) (e - 1)

/-- 1/x (x finite, nonzero). -/
def recip (neg : Bool) (m : Nat) (e : Int) : Val :=
  sticky neg (2 ^ 256 / m) (2 ^ 256 % m == 0) (-e - 256)

/-- 1/√x (x finite, positive). -/
def rsqrt (m : Nat) (e : Int) : Val :=
  let odd := e.emod 2 == 1
  let m' := if odd then 2 * m else m
  let e' := if odd then e - 1 else e
  let v := isqrt (2 ^ 512 / m')
  sticky false v (v * v * m' == 2 ^ 512) (-(e' / 2) - 256)

/-- The first `n` bits of log2 of y/2^256, y in [2^256, 2^257). -/
def logBits : Nat → Nat → Nat → Nat
  | 0, _, acc => acc
  | n + 1, y, acc =>
    let z := y * y / 2 ^ 256
    if z ≥ 2 ^ 257 then logBits n (z / 2) (2 * acc + 1) else logBits n z (2 * acc)

/-- log2 x (x finite, positive). -/
def log2Val (m : Nat) (e : Int) : Val :=
  let l := Nat.log2 m
  let int : Int := (l : Int) + e
  if m = 2 ^ l then .num (int < 0) int.natAbs 0
  else
    let y := m * 2 ^ 256 / 2 ^ l
    let frac := logBits 128 y 0
    let t : Int := int * 2 ^ 128 + frac
    -- the exact value lies strictly between t and t + 1
    if t ≥ 0 then sticky false t.toNat false (-128)
    else sticky true (-(t + 1)).toNat false (-128)

/-- 2^(f/2^160) for the bits of f below 2^160, in steps of 2^−256: `c` is 2^(2^−k). -/
def exp2Bits : Nat → Nat → Nat → Nat → Nat
  | 0, _, _, acc => acc
  | n + 1, f, c, acc =>
    let acc' := if f / 2 ^ n % 2 = 1 then acc * c / 2 ^ 256 else acc
    exp2Bits n f (isqrt (c * 2 ^ 256)) acc'

/-- 2^x (x finite, |x| below 256). -/
def exp2Val (neg : Bool) (m : Nat) (e : Int) : Val :=
  let x : Int := (Val.num neg m e).steps (if e < -160 then e else -160)
  let unit : Int := if e < -160 then ((2 ^ (-e).toNat : Nat) : Int) else ((2 ^ 160 : Nat) : Int)
  let n := x / unit
  let f := (x - n * unit).toNat
  if f = 0 then .num false 1 n
  else sticky false (exp2Bits 160 f (isqrt (2 ^ 513)) (2 ^ 256)) false (n - 256)

/-- The faithful FP32 result of an exact-but-for-sticky value: one of its two neighbours, as the
configuration chooses for this input (assumption 3); above the largest finite value, infinity. Underflow is raised where
the lower neighbour is below the least normal number, whichever is chosen (assumption 138). -/
def faithful (fn : Nat) (x : BitVec 32) (v : Val) : Nat × BitVec 5 :=
  let neg := v.neg?
  let lo := roundFP gFp32 .rtz 0 v
  let hi := roundFP gFp32 (if neg then .rdn else .rup) 0 v
  if lo.2 &&& flagOverflow ≠ 0 || hi.2 &&& flagOverflow ≠ 0 then
    (gFp32.code neg gFp32.infCode, flagOverflow ||| flagInexact)
  else if lo.2 &&& flagInexact = 0 then lo
  else if Config.faithfulUp fn x then
    (hi.1, hi.2 ||| (lo.2 &&& flagUnderflow)) else lo

/-- The four functions on FP32 (R214, R434): 0 VEXP2, 1 VRCP, 2 VRSQ, 3 VLOG2. -/
def faithful32 (fn : Nat) (x : Nat) : Nat × BitVec 5 :=
  let b := BitVec.ofNat 32 x
  let nan := gFp32.nanCode
  let inf (neg : Bool) := gFp32.code neg gFp32.infCode
  let zero (neg : Bool) := gFp32.code neg 0
  match fn, gFp32.decode x with
  | _, .nan s => (nan, if s then flagInvalid else 0)
  | 0, .inf n => (if n then zero false else inf false, 0)
  | 1, .inf n => (zero n, 0)
  | _, .inf n => if n then (nan, flagInvalid) else (if fn = 2 then zero false else inf false, 0)
  | 0, .num n m e =>
    if m = 0 then (0x3F800000, 0)
    else if (Nat.log2 m : Int) + e ≥ 8 then
      if n then faithful 0 b (.num false 1 (-600))
      else (inf false, flagOverflow ||| flagInexact)
    else faithful 0 b (exp2Val n m e)
  | 1, .num n m e => if m = 0 then (inf n, flagDivZero) else faithful 1 b (recip n m e)
  | 2, .num n m e =>
    if m = 0 then (inf n, flagDivZero)
    else if n then (nan, flagInvalid) else faithful 2 b (rsqrt m e)
  | _, .num n m e =>
    if m = 0 then (inf true, flagDivZero)
    else if n then (nan, flagInvalid) else faithful 3 b (log2Val m e)

/-! ### The mixer (R209, R219) -/

def fmix32 (x : BitVec 32) : BitVec 32 :=
  let x := x ^^^ (x >>> 16)
  let x := x * 0x85EBCA6B
  let x := x ^^^ (x >>> 13)
  let x := x * 0xC2B2AE35
  x ^^^ (x >>> 16)

/-- Lane i of VRNG (R209). -/
def vrngLane (b seed : BitVec 32) (i : Nat) : BitVec 32 :=
  fmix32 ((b + BitVec.ofNat 32 i) * 0x9E3779B9 + seed)

end Sys2Proof.Machine
end

