-- ==== Sys2Proof/Machine/Operands.lean ====
section
/-! DEFINITION. Operand forms: immediates with and without EXT (R301), scaled offsets (R287, R303), branch
targets (R302), shift amounts, and the registers an instruction names (R42, R45). -/

namespace Sys2Proof.Machine

/-- simm without EXT (R301). -/
def simm (i : BitVec 14) : Word := i.signExtend 64

/-- simm with EXT: 40 bits (R301). -/
def simmExt (e : BitVec 26) (i : BitVec 14) : Word := (e ++ i).signExtend 64

/-- A memory operand's address: ADDR of the pointer plus the offset times the access unit, exact (R299,
R303). -/
def offAddr (p : Word) (off : BitVec 13) (unit : Nat) : Int := (ptrAddr p : Int) + off.toInt * unit

/-- The address of an element operand in units of its width in bits: E2M1 elements are half bytes
(R125, R303). -/
def elemAddr (p : Word) (off : BitVec 13) (bitsPer : Nat) : Int :=
  (ptrAddr p : Int) * 8 + off.toInt * bitsPer

/-- A pc-relative target in words, exact (R302). -/
def relTarget {n : Nat} (pc : Pc) (off : BitVec n) : Int := (pc.toNat : Int) + off.toInt * 4

/-- Shift amounts of a register shift: six bits, or five in the 32-bit form (R302). -/
def shiftAmount (w : Bool) (t : Word) : Nat := if w then bits t 4 0 else bits t 5 0

/-- A result of the 32-bit form: bits 31:0 sign-extended (R302). -/
def narrow (w : Bool) (v : Word) : Word := if w then (v.truncate 32).signExtend 64 else v

/-- Left, logical right and arithmetic right shifts (R302). -/
def shlWord (w : Bool) (x : Word) (n : Nat) : Word := narrow w (x <<< n)
def shrWord (w : Bool) (x : Word) (n : Nat) : Word :=
  if w then ((x.truncate 32) >>> n).signExtend 64 else x >>> n
def sarWord (w : Bool) (x : Word) (n : Nat) : Word :=
  if w then ((x.truncate 32).sshiftRight n).signExtend 64 else x.sshiftRight n

/-- The high half of a product (R359). -/
def mulHigh (m : MulhMode) (x y : Word) : Word :=
  let a : Int := match m with
    | .uu => x.toNat
    | _ => x.toInt
  let b : Int := match m with
    | .ss => y.toInt
    | _ => y.toNat
  BitVec.ofInt 64 ((a * b) / 2 ^ 64)

/-- The quotient rounded toward zero (R359): signed −2^63 ÷ −1 wraps to −2^63. -/
def quotient (u : Bool) (x y : Word) : Word := if u then x / y else BitVec.sdiv x y

/-- The remainder with the dividend's sign (R359). -/
def remainder (u : Bool) (x y : Word) : Word := x - y * quotient u x y

/-! ### Registers an instruction names -/

/-- The g registers an instruction reads or writes, as the fields of its word name them. -/
def gNamed : Instr → List GReg
  | .add d s t _ | .sub d s t _ | .mul d s t _ | .mulh d s t _ | .div d s t _ | .rem d s t _
  | .and d s t | .or d s t | .xor d s t | .shl d s t _ | .shr d s t _ | .sar d s t _
  | .min d s t _ | .max d s t _ | .sel d _ s t | .recvt d t s | .start d s t | .barwt _ d s t => [d, s, t]
  | .clz d s | .popc d s | .mov d s | .addi d s _ | .andi d s _ | .ori d s _ | .xori d s _
  | .shli d s _ _ | .shri d s _ _ | .sari d s _ _ | .limh d s _ | .jr d s _ | .hjoin d s | .task d s
  | .migrate d s | .monarm d s | .monwait d s | .sysx d s _ | .kill d s => [d, s]
  | .lim d _ | .jal d _ | .waitwork d | .sysr d _ | .sigrd d _ => [d]
  | .cmp _ _ s t => [s, t]
  | .cmpi _ _ s _ | .hexit s | .barw _ s | .cbsync s | .sysw s _ | .tlbinv s _ _ => [s]
  | .ext _ w2 =>
    if w2.toNat / 2 ^ 26 = 0x0C then [gAt w2.toNat 14] else [gAt w2.toNat 20, gAt w2.toNat 14]
  | .amk _ _ t | .aadd _ _ t | .aaddb _ _ t | .asub t _ _ | .afld t _ | .atag _ _ t | .movag t _
  | .movga _ t => [t]
  | .ld d _ _ _ | .st d _ _ _ | .lde d _ _ _ | .ste d _ _ _ | .take d _ _ | .fill d _ _
  | .readf d _ _ | .feprobe d _ _ | .boinit d _ _ | .boexpect d _ _ | .bowait d _ _ | .botest d _ _
  | .bostat d _ _ => [d]
  | .send s t | .reply s t => [s, t, 8, 9, 10, 11]
  | .sendv s t _ => [s, t]
  | .recv d t => [d, t, 8, 9, 10, 11]
  | .recvv _ t => [t]
  | .probe d t => [d, t]
  | .spawn s t d => [s, t, d, 8, 9, 10, 11]
  | .amo _ _ _ d _ t | .cas _ _ d _ t | .tkopen _ d _ t | .tkskip d _ t | .capgive d _ t
  | .kcmd d _ t => [d, t]
  | .cas128 _ d _ t => [d, d + 1, t, t + 1]
  | .tfadd _ d _ v k | .tfmin _ d _ v k | .tfmax _ d _ v k => [d, v, k]
  | .tkclose _ d _ | .tkdrain d _ | .tkstat d _ | .capq d _ | .collwait d _ | .kstat d _ => [d]
  | .red _ _ _ t | .captake _ t | .capmode _ _ t => [t]
  | .vbcast _ _ s _ => [s.castLE (by decide)]
  | .vmovg _ d _ i => [d.castLE (by decide), i.castLE (by decide)]
  | .vlane _ _ s i => [s.castLE (by decide), i.castLE (by decide)]
  | .vargx _ d _ _ _ => [d.castLE (by decide)]
  | .vrng _ b s _ => [b.castLE (by decide), s.castLE (by decide)]
  | .msub _ _ g _ | .mpost _ g | .mpois g _ _ | .mwait _ g => [g]
  | _ => []

/-- The g registers whose values an instruction of one word uses. -/
def gUsed : Instr → List GReg
  | .add _ s t _ | .sub _ s t _ | .mul _ s t _ | .mulh _ s t _ | .div _ s t _ | .rem _ s t _
  | .and _ s t | .or _ s t | .xor _ s t | .shl _ s t _ | .shr _ s t _ | .sar _ s t _
  | .min _ s t _ | .max _ s t _ | .sel _ _ s t | .recvt _ t s | .start _ s t | .barwt _ _ s t => [s, t]
  | .clz _ s | .popc _ s | .mov _ s | .addi _ s _ | .andi _ s _ | .ori _ s _ | .xori _ s _
  | .shli _ s _ _ | .shri _ s _ _ | .sari _ s _ _ | .limh _ s _ | .jr _ s _ | .hjoin _ s | .task _ s
  | .migrate _ s | .monarm _ s | .monwait _ s | .sysx _ s _ | .kill _ s => [s]
  | .cmp _ _ s t => [s, t]
  | .cmpi _ _ s _ | .hexit s | .barw _ s | .cbsync s | .sysw s _ | .tlbinv s _ _ => [s]
  | .amk _ _ t | .aadd _ _ t | .aaddb _ _ t | .atag _ _ t | .movga _ t => [t]
  | .st d _ _ _ | .ste d _ _ _ | .fill d _ _ | .boinit d _ _ | .boexpect d _ _ => [d]
  | .send s t | .reply s t => [s, t, 8, 9, 10, 11]
  | .sendv s t _ => [s, t]
  | .recv _ t | .recvv _ t | .probe _ t => [t]
  | .spawn s t d => [s, t, d, 8, 9, 10, 11]
  | .cas _ _ d _ t => [d, t]
  | .amo _ _ _ _ _ t | .tkopen _ _ _ t | .tkskip _ _ t | .capgive _ _ t | .kcmd _ _ t | .red _ _ _ t | .captake _ t
  | .capmode _ _ t => [t]
  | .cas128 _ d _ t => [d, d + 1, t, t + 1]
  | .tfadd _ _ _ v k | .tfmin _ _ _ v k | .tfmax _ _ _ v k => [v, k]
  | .vbcast _ _ s _ => [s.castLE (by decide)]
  | .vmovg _ _ _ i => [i.castLE (by decide)]
  | .vlane _ _ s i => [s.castLE (by decide), i.castLE (by decide)]
  | .vrng _ b s _ => [b.castLE (by decide), s.castLE (by decide)]
  | .msub _ _ g _ | .mpost _ g => [g]
  | _ => []

/-- The g registers whose values an instruction uses. -/
def gReads : Instr → List GReg
  | .ext _ w2 => ((decodeWord w2.toNat 0).map gUsed).getD []
  | i => gUsed i

/-- The g register a unit instruction writes when it completes. -/
def gTarget : Instr → Option GReg
  | .vmovg _ d _ _ => some (d.castLE (by decide))
  | .vargx _ d _ _ _ => some (d.castLE (by decide))
  | .mpois g _ _ => some g
  | .mwait _ g => some g
  | _ => none

/-- The v registers an instruction names. -/
def vNamed : Instr → List VReg
  | .ldv d _ _ _ | .stv d _ _ _ | .sendv _ _ d | .recvv d _ => [d]
  | .ldvx d _ _ b _ | .stvx d _ _ b _ => [d, b]
  | .vadd _ d a b _ | .vsub _ d a b _ | .vmul _ d a b _ | .vfma _ d a b _ | .vmin _ d a b _
  | .vmax _ d a b _ | .viadd _ d a b _ | .visub _ d a b _ | .vimul _ d a b _ | .vand _ d a b _
  | .vor _ d a b _ | .vxor _ d a b _ | .vshl _ d a b _ | .vshr _ d a b _ | .vsar _ d a b _
  | .vimin _ d a b _ | .vimax _ d a b _ | .vsel _ d a b _ | .vshuf _ d a b _ => [d, a, b]
  | .vabs _ d a _ | .vneg _ d a _ | .vexp2 _ d a _ | .vrcp _ d a _ | .vrsq _ d a _ | .vlog2 _ d a _
  | .vred _ _ d a _ | .vscan _ _ d a _ | .vcvt _ _ d a _ _ => [d, a]
  | .vquant _ d a _ _ => [d, d + 1, a]
  | .vdeq _ d a _ _ => [d, a, a + 1]
  | .vcmp _ _ _ a b _ => [a, b]
  | .vbcast _ d _ _ | .vlane _ d _ _ | .vrng d _ _ _ => [d]
  | .vmovg _ _ a _ | .vmask _ _ a | .vargx _ _ a _ _ => [a]
  | _ => []

/-- The mask registers an instruction names. -/
def kNamed : Instr → List KReg
  | .ldvx _ _ _ _ k | .stvx _ _ _ _ k => [k]
  | .vcmp _ _ k _ _ m => [k, m]
  | .vmask _ k _ => [k]
  | .vadd _ _ _ _ m | .vsub _ _ _ _ m | .vmul _ _ _ _ m | .vfma _ _ _ _ m | .vmin _ _ _ _ m
  | .vmax _ _ _ _ m | .viadd _ _ _ _ m | .visub _ _ _ _ m | .vimul _ _ _ _ m | .vand _ _ _ _ m
  | .vor _ _ _ _ m | .vxor _ _ _ _ m | .vshl _ _ _ _ m | .vshr _ _ _ _ m | .vsar _ _ _ _ m
  | .vimin _ _ _ _ m | .vimax _ _ _ _ m | .vsel _ _ _ _ m | .vshuf _ _ _ _ m | .vabs _ _ _ m
  | .vneg _ _ _ m | .vexp2 _ _ _ m | .vrcp _ _ _ m | .vrsq _ _ _ m | .vlog2 _ _ _ m
  | .vred _ _ _ _ m | .vscan _ _ _ _ m | .vbcast _ _ _ m | .vargx _ _ _ _ m | .vrng _ _ _ m
  | .vquant _ _ _ _ m | .vdeq _ _ _ _ m => [m]
  | _ => []

/-- Instructions of the vector unit's queue (R45, R305). -/
def isVector : Instr → Bool
  | .vadd .. | .vsub .. | .vmul .. | .vfma .. | .vmin .. | .vmax .. | .vabs .. | .vneg .. | .vexp2 ..
  | .vrcp .. | .vrsq .. | .vlog2 .. | .vred .. | .vscan .. | .vcmp .. | .viadd .. | .visub ..
  | .vimul .. | .vand .. | .vor .. | .vxor .. | .vshl .. | .vshr .. | .vsar .. | .vimin .. | .vimax ..
  | .vsel .. | .vshuf .. | .vbcast .. | .vmovg .. | .vlane .. | .vmask .. | .vargx .. | .vrng ..
  | .vcvt .. | .vquant .. | .vdeq .. => true
  | _ => false

/-- Instructions of the matrix unit's queue (R45, R306). -/
def isMatrix : Instr → Bool
  | .mzero .. | .mma .. | .mldb .. | .mrot .. | .mstz .. | .mldz .. | .msub .. | .mpost .. | .munsub ..
  | .mpois .. | .mwait .. => true
  | _ => false

def isMma : Instr → Bool
  | .mma .. => true
  | _ => false

/-- The registers of a thread that each twin reads and writes on its own copy: FSTAT, RMODE, SEED and those that serve its
traps (R220, R253). -/
def twinRegs (n : BitVec 10) : Bool :=
  n == 0x010 || n == 0x011 || n == 0x012 || (0x3D1 ≤ n.toNat && n.toNat ≤ 0x3D5) || n == 0x3D7

/-- Instructions that each twin of a pair executes on its own registers (R46, R47, R429). -/
def twinOwn : Instr → Bool
  | .add .. | .sub .. | .mul .. | .mulh .. | .div .. | .rem .. | .and .. | .or .. | .xor .. | .shl .. | .shr .. | .sar ..
  | .min .. | .max .. | .clz .. | .popc .. | .sel .. | .mov .. | .addi .. | .andi .. | .ori .. | .xori .. | .shli ..
  | .shri .. | .sari .. | .lim .. | .limh .. | .cmp .. | .cmpi .. | .plog .. | .ext .. | .br .. | .jal .. | .jr ..
  | .amk .. | .aadd .. | .aaddb .. | .asub .. | .afld .. | .atag .. | .movag .. | .movga .. | .aaddi .. | .trap ..
  | .eret => true
  | .sysr _ n | .sysw _ n | .sysx _ _ n => twinRegs n
  | i => isVector i

/-- Instructions of which the store comparator holds the leading twin until the trailing one has come to them too: stores,
those that act outside the tile, those of the matrix unit, whose registers the unit keeps for both, and those that both
twins must reach (R46, R47, R82, R417). Of the others the trailing twin takes the results from the load-value queue. -/
def twinOnce : Instr → Bool
  | .st .. | .ste .. | .stv .. | .stvx .. | .fill .. | .feempty .. | .fefull .. | .acopy .. | .boinit .. | .boexpect ..
  | .boarrive .. | .send .. | .sendv .. | .reply .. | .spawn .. | .start .. | .hexit .. | .texit | .yield | .migrate ..
  | .task .. | .cbsync .. | .tfadd .. | .tfmin .. | .tfmax .. | .tkopen .. | .tkclose .. | .tkskip .. | .tkdrain ..
  | .tkstat .. | .red .. | .capgive .. | .captake .. | .capmode .. | .coll .. | .kcmd .. | .tlbinv .. | .halt | .kill .. => true
  | .sysw _ n | .sysx _ _ n => !twinRegs n
  | i => isMatrix i

/-- The register that a load writes, and whether it may raise a flag (R374 to R378). -/
def loadG : LoadDest → Option GReg
  | .raw d _ _ | .elem d _ _ _ => if d = 0 then none else some d
  | .lanes _ _ _ _ => none
def loadV : LoadDest → Option VReg
  | .lanes d _ _ _ => some d
  | _ => none
def loadFlags : LoadDest → Bool
  | .raw _ _ _ => false
  | _ => true

/-- Whether the first instruction of a tile's vector queue finds every load written whose register it names (R377). -/
def State.vectorReady (s : State) (tile : Nat) : Bool :=
  match (s.tile tile).vq with
  | [] => true
  | u :: _ => (s.thread { tile := tile, slot := u.slot }).loads.all fun l => !(loadV l.2).any (vNamed u.insn).contains

/-- Whether an instruction names a register whose result a load under way or a unit of the tile has not yet written, or
reads or writes FSTAT while a load or one of its unit instructions may raise a flag (R42, R45, R221, R374, R377). A vector
instruction that names the register of a load waits in its queue. -/
def State.mustWait (s : State) (t : ThreadId) (i : Instr) : Bool :=
  let ti := s.tile t.tile
  let vq := ti.vq.filter fun u => u.slot == t.slot
  let mq := ti.mq.filter fun u => u.slot == s.unitSlot t
  let gs := gNamed i
  let ls := (s.thread t).loads
  let gWait := ((vq ++ mq).any fun u =>
    match gTarget u.insn with
    | some r => gs.contains r
    | none => false) || ls.any fun l => (loadG l.2).any gs.contains
  let vWait := !isVector i && ((vq.any fun u =>
    (vNamed u.insn).any (vNamed i).contains || (kNamed u.insn).any (kNamed i).contains) ||
    ls.any fun l => (loadV l.2).any (vNamed i).contains)
  let fWait := match i with
    | .sysr _ n | .sysx _ _ n | .sysw _ n =>
      n == 0x010 && !(vq.isEmpty && (mq.all fun u => !isMma u.insn) && ls.all fun l => !loadFlags l.2)
    | _ => false
  gWait || vWait || fWait

end Sys2Proof.Machine
end

