-- ==== Sys2Proof/Machine/Scalar.lean ====
section
/-! DEFINITION. The scalar, predicate, branch and address-register instructions (R302, R309, R336 to R368,
R379). -/

namespace Sys2Proof.Machine

/-- A result into a g register, and the instruction of `len` bytes completes. -/
def setRet (d : GReg) (v : Word) (len : Nat) (s : State) : Host.Outcome State Fault Refusal :=
  .next ((s.setG d v).retireLen len)

def execAdd (d s t : GReg) (w : Bool) (σ : State) : Host.Outcome State Fault Refusal :=
  setRet d (narrow w (σ.g s + σ.g t)) 4 σ
def execSub (d s t : GReg) (w : Bool) (σ : State) : Host.Outcome State Fault Refusal :=
  setRet d (narrow w (σ.g s - σ.g t)) 4 σ
def execMul (d s t : GReg) (w : Bool) (σ : State) : Host.Outcome State Fault Refusal :=
  setRet d (narrow w (σ.g s * σ.g t)) 4 σ
def execMulh (d s t : GReg) (m : MulhMode) (σ : State) : Host.Outcome State Fault Refusal :=
  setRet d (mulHigh m (σ.g s) (σ.g t)) 4 σ
/-- A zero divisor raises integer-divide-by-zero with the dividend (R359). -/
def execDiv (d s t : GReg) (u : Bool) (σ : State) : Host.Outcome State Fault Refusal :=
  if σ.g t = 0 then .next (σ.trap cDivideByZero (σ.g s))
  else setRet d (quotient u (σ.g s) (σ.g t)) 4 σ
def execRem (d s t : GReg) (u : Bool) (σ : State) : Host.Outcome State Fault Refusal :=
  if σ.g t = 0 then .next (σ.trap cDivideByZero (σ.g s))
  else setRet d (remainder u (σ.g s) (σ.g t)) 4 σ
def execAnd (d s t : GReg) (σ : State) : Host.Outcome State Fault Refusal :=
  setRet d (σ.g s &&& σ.g t) 4 σ
def execOr (d s t : GReg) (σ : State) : Host.Outcome State Fault Refusal :=
  setRet d (σ.g s ||| σ.g t) 4 σ
def execXor (d s t : GReg) (σ : State) : Host.Outcome State Fault Refusal :=
  setRet d (σ.g s ^^^ σ.g t) 4 σ
def execShl (d s t : GReg) (w : Bool) (σ : State) : Host.Outcome State Fault Refusal :=
  setRet d (shlWord w (σ.g s) (shiftAmount w (σ.g t))) 4 σ
def execShr (d s t : GReg) (w : Bool) (σ : State) : Host.Outcome State Fault Refusal :=
  setRet d (shrWord w (σ.g s) (shiftAmount w (σ.g t))) 4 σ
def execSar (d s t : GReg) (w : Bool) (σ : State) : Host.Outcome State Fault Refusal :=
  setRet d (sarWord w (σ.g s) (shiftAmount w (σ.g t))) 4 σ
def execMin (d s t : GReg) (u : Bool) (σ : State) : Host.Outcome State Fault Refusal :=
  setRet d (if condHolds (if u then .ltu else .lt) (σ.g t) (σ.g s) then σ.g t else σ.g s) 4 σ
def execMax (d s t : GReg) (u : Bool) (σ : State) : Host.Outcome State Fault Refusal :=
  setRet d (if condHolds (if u then .ltu else .lt) (σ.g s) (σ.g t) then σ.g t else σ.g s) 4 σ
def execClz (d s : GReg) (σ : State) : Host.Outcome State Fault Refusal :=
  setRet d (BitVec.ofNat 64 (leadingZeros (σ.g s))) 4 σ
def execPopc (d s : GReg) (σ : State) : Host.Outcome State Fault Refusal :=
  setRet d (BitVec.ofNat 64 (popCount (σ.g s))) 4 σ
def execSel (d : GReg) (p : PReg) (s t : GReg) (σ : State) : Host.Outcome State Fault Refusal :=
  setRet d (if σ.me.getP p then σ.g s else σ.g t) 4 σ
def execMov (d s : GReg) (σ : State) : Host.Outcome State Fault Refusal := setRet d (σ.g s) 4 σ

/-! ### Immediates: one operation each, for the word alone and for the EXT pair (R301) -/

def opAddi (d s : GReg) (x : Word) (len : Nat) (σ : State) : Host.Outcome State Fault Refusal :=
  setRet d (σ.g s + x) len σ
def opAndi (d s : GReg) (x : Word) (len : Nat) (σ : State) : Host.Outcome State Fault Refusal :=
  setRet d (σ.g s &&& x) len σ
def opOri (d s : GReg) (x : Word) (len : Nat) (σ : State) : Host.Outcome State Fault Refusal :=
  setRet d (σ.g s ||| x) len σ
def opXori (d s : GReg) (x : Word) (len : Nat) (σ : State) : Host.Outcome State Fault Refusal :=
  setRet d (σ.g s ^^^ x) len σ
def opLim (d : GReg) (x : Word) (len : Nat) (σ : State) : Host.Outcome State Fault Refusal :=
  setRet d x len σ
/-- Only bits 23:0 of simm survive (R379). -/
def opLimh (d s : GReg) (x : Word) (len : Nat) (σ : State) : Host.Outcome State Fault Refusal :=
  setRet d ((x <<< 40) ||| (σ.g s &&& 0xFFFFFFFFFF)) len σ
def opCmpi (p : PReg) (c : Cond) (s : GReg) (x : Word) (len : Nat) (σ : State) :
    Host.Outcome State Fault Refusal :=
  .next ((σ.modMe (·.setP p (condHolds c (σ.g s) x))).retireLen len)

def execAddi (d s : GReg) (i : BitVec 14) (σ : State) : Host.Outcome State Fault Refusal :=
  opAddi d s (simm i) 4 σ
def execAndi (d s : GReg) (i : BitVec 14) (σ : State) : Host.Outcome State Fault Refusal :=
  opAndi d s (simm i) 4 σ
def execOri (d s : GReg) (i : BitVec 14) (σ : State) : Host.Outcome State Fault Refusal :=
  opOri d s (simm i) 4 σ
def execXori (d s : GReg) (i : BitVec 14) (σ : State) : Host.Outcome State Fault Refusal :=
  opXori d s (simm i) 4 σ
def execShli (d s : GReg) (w : Bool) (n : BitVec 6) (σ : State) : Host.Outcome State Fault Refusal :=
  setRet d (shlWord w (σ.g s) n.toNat) 4 σ
def execShri (d s : GReg) (w : Bool) (n : BitVec 6) (σ : State) : Host.Outcome State Fault Refusal :=
  setRet d (shrWord w (σ.g s) n.toNat) 4 σ
def execSari (d s : GReg) (w : Bool) (n : BitVec 6) (σ : State) : Host.Outcome State Fault Refusal :=
  setRet d (sarWord w (σ.g s) n.toNat) 4 σ
def execLim (d : GReg) (i : BitVec 14) (σ : State) : Host.Outcome State Fault Refusal :=
  opLim d (simm i) 4 σ
def execLimh (d s : GReg) (i : BitVec 14) (σ : State) : Host.Outcome State Fault Refusal :=
  opLimh d s (simm i) 4 σ
def execCmp (p : PReg) (c : Cond) (s t : GReg) (σ : State) : Host.Outcome State Fault Refusal :=
  .next ((σ.modMe (·.setP p (condHolds c (σ.g s) (σ.g t)))).retire)
def execCmpi (p : PReg) (c : Cond) (s : GReg) (i : BitVec 14) (σ : State) :
    Host.Outcome State Fault Refusal :=
  opCmpi p c s (simm i) 4 σ
def execPlog (d a b : PReg) (tt : BitVec 4) (σ : State) : Host.Outcome State Fault Refusal :=
  .next ((σ.modMe (·.setP d (plogValue tt (σ.me.getP a) (σ.me.getP b)))).retire)

/-- The pair of R301: the second word with the 40-bit immediate, as one instruction; a second word that is
none of the seven raises illegal-instruction at the EXT with the second word. -/
def execExt (e : BitVec 26) (w2 : InsnWord) (σ : State) : Host.Outcome State Fault Refusal :=
  match decodeWord w2.toNat 0 with
  | some (.addi d s i) => opAddi d s (simmExt e i) 8 σ
  | some (.andi d s i) => opAndi d s (simmExt e i) 8 σ
  | some (.ori d s i) => opOri d s (simmExt e i) 8 σ
  | some (.xori d s i) => opXori d s (simmExt e i) 8 σ
  | some (.lim d i) => opLim d (simmExt e i) 8 σ
  | some (.limh d s i) => opLimh d s (simmExt e i) 8 σ
  | some (.cmpi p c s i) => opCmpi p c s (simmExt e i) 8 σ
  | _ => .next (σ.trap cIllegal (w2.zeroExtend 64))

/-! ### Branches (R349, R368) -/

/-- The pc goes to an exact target, or address-range is raised with it. -/
def jumpTo (target : Int) (σ : State) : State :=
  if target < 0 || target ≥ 2 ^ 51 then σ.trap cAddressRange (BitVec.ofInt 64 target)
  else σ.retireTo σ.cur (BitVec.ofInt 51 target)

def execBr (p : PReg) (n : Bool) (off : BitVec 22) (σ : State) : Host.Outcome State Fault Refusal :=
  if σ.me.getP p != n then .next (jumpTo (relTarget σ.me.pc off) σ) else .next σ.retire

/-- The link PC + 4 as a word. -/
def linkWord (pc : Pc) : Word := BitVec.ofNat 64 (pc.toNat + 4)

def execJal (d : GReg) (off : BitVec 20) (σ : State) : Host.Outcome State Fault Refusal :=
  let t := relTarget σ.me.pc off
  if t < 0 || t ≥ 2 ^ 51 then .next (σ.trap cAddressRange (BitVec.ofInt 64 t))
  else .next ((σ.setG d (linkWord σ.me.pc)).retireTo σ.cur (BitVec.ofInt 51 t))

def execJr (d s : GReg) (i : BitVec 14) (σ : State) : Host.Outcome State Fault Refusal :=
  let t := σ.g s + simm i <<< 2
  if bits t 1 0 ≠ 0 then .next (σ.trap cMisalignedFetch t)
  else if bits t 63 51 ≠ 0 then .next (σ.trap cAddressRange t)
  else .next ((σ.setG d (linkWord σ.me.pc)).retireTo σ.cur (t.truncate 51))

/-! ### Address registers (R337, R338) -/

/-- A result into an a register. -/
def setARet (d : AReg) (v : Word) (σ : State) : Host.Outcome State Fault Refusal :=
  .next ((σ.modMe (·.setA d v)).retire)

def execAmk (d s : AReg) (t : GReg) (σ : State) : Host.Outcome State Fault Refusal :=
  if bits (σ.g t) 63 51 ≠ 0 then .next (σ.trap cAddressRange (σ.g t))
  else setARet d (withAddr (σ.me.getA s) (ptrAddr (σ.g t))) σ

/-- Pointer addition (R126): bits 50:0 only, pointer-overflow outside 0 to 2^51 − 1. -/
def pointerAdd (d s : AReg) (x : Int) (σ : State) : Host.Outcome State Fault Refusal :=
  let p := σ.me.getA s
  let n := (ptrAddr p : Int) + x
  if n < 0 || n ≥ 2 ^ 51 then .next (σ.trap cPointerOverflow p)
  else setARet d (withAddr p n.toNat) σ

def execAadd (d s : AReg) (t : GReg) (σ : State) : Host.Outcome State Fault Refusal :=
  pointerAdd d s (σ.g t).toInt σ
def execAaddi (d s : AReg) (i : BitVec 18) (σ : State) : Host.Outcome State Fault Refusal :=
  pointerAdd d s i.toInt σ

/-- Element widths in bits by format code; none for a reserved code (R123). -/
def fmtBits (f : Nat) : Option Nat :=
  if f ≤ 2 then some 8
  else if f ≤ 4 then some 16
  else if f ≤ 6 then some 32
  else if f ≤ 8 then some 64
  else if f = 9 then some 32
  else if f = 10 || f = 11 then some 16
  else if f = 12 then some 4
  else if f = 13 then some 8
  else if f < 0x20 then none
  else if f % 8 = 0 then none else some 8

/-- The formats that allow a block scale (R123). -/
def fmtScales (f : Nat) : Bool :=
  f == 1 || f == 10 || f == 11 || f == 12 || (f ≥ 0x20 && f % 8 != 0)

/-- The scale pointer in a(n+1), where R125 allows it. -/
def State.scalePtr (s : State) (a : AReg) : Option Word :=
  if a.val = 15 then none
  else
    let q := s.me.getA (a + 1)
    if ptrFmt q = 0x0D && ptrK q = 0 && ptrPath q ≠ 6 then some q else none

/-- Whether the pointer in a register is block-scaled as R124 and R125 allow it: its format allows a block scale and its
scale pointer stands. -/
def State.scaledOk (s : State) (a : AReg) : Bool :=
  ptrK (s.me.getA a) != 0 && fmtScales (ptrFmt (s.me.getA a)) && (s.scalePtr a).isSome

/-- AADDB (R338); a scale pointer that breaks R125 is format-invalid, as in every decoding instruction (R124,
assumption 123). -/
def execAaddb (d s : AReg) (t : GReg) (σ : State) : Host.Outcome State Fault Refusal :=
  let p := σ.me.getA s
  let sc := σ.me.getA (s + 1)
  let x := (σ.g t).toInt
  if !σ.scaledOk s then .next (σ.trap cFormatInvalid p)
  else
    let b : Int := (((fmtBits (ptrFmt p)).getD 8 * 2 ^ ptrK p / 8 : Nat) : Int)
    if x.tmod b ≠ 0 then .next (σ.trap cMisaligned p)
    else
      let n := (ptrAddr p : Int) + x
      let m := (ptrAddr sc : Int) + x.tdiv b
      if n < 0 || n ≥ 2 ^ 51 then .next (σ.trap cPointerOverflow p)
      else if m < 0 || m ≥ 2 ^ 51 then .next (σ.trap cPointerOverflow sc)
      else .next ((σ.modMe fun th =>
        (th.setA d (withAddr p n.toNat)).setA (d + 1) (withAddr sc m.toNat)).retire)

def execAsub (t : GReg) (d s : AReg) (σ : State) : Host.Outcome State Fault Refusal :=
  setRet t (BitVec.ofInt 64 ((ptrAddr (σ.me.getA d) : Int) - ptrAddr (σ.me.getA s))) 4 σ
def execAfld (t : GReg) (s : AReg) (σ : State) : Host.Outcome State Fault Refusal :=
  setRet t (BitVec.ofNat 64 (bits (σ.me.getA s) 63 51)) 4 σ
def execAtag (d s : AReg) (t : GReg) (σ : State) : Host.Outcome State Fault Refusal :=
  if bits (σ.g t) 63 13 ≠ 0 then .next (σ.trap cInvalidOperand (σ.g t))
  else setARet d (BitVec.ofNat 64 (ptrAddr (σ.me.getA s) + bits (σ.g t) 12 0 * 2 ^ 51)) σ
def execMovag (t : GReg) (s : AReg) (σ : State) : Host.Outcome State Fault Refusal :=
  setRet t (σ.me.getA s) 4 σ
def execMovga (d : AReg) (t : GReg) (σ : State) : Host.Outcome State Fault Refusal :=
  setARet d (σ.g t) σ

end Sys2Proof.Machine
end

