-- ==== Sys2Proof/Machine/Memory.lean ====
section
/-! DEFINITION. Loads and stores (R303, R357, R374 to R378, R405 to R410): effective pointers, the issue of an
access, its conversion, and what happens at its home (R156, R163, R406). -/

namespace Sys2Proof.Machine

/-! ### Vector registers as lanes (R48) -/

def lane (v : VWord) (w i : Nat) : Nat := v.toNat / 2 ^ (w * i) % 2 ^ w
def lanesOf (v : VWord) (w n : Nat) : List Nat := (List.range n).map (lane v w)
def natOfLanes (w : Nat) : List Nat → Nat
  | [] => 0
  | x :: xs => x % 2 ^ w + 2 ^ w * natOfLanes w xs
def ofLanes (w : Nat) (xs : List Nat) : VWord := BitVec.ofNat 2048 (natOfLanes w xs)

/-- The active lanes under a mask (R49). -/
def activeLanes (k : Word) (n : Nat) : List Nat := (List.range n).filter fun i => k.toNat.testBit i

/-! ### Accesses in flight -/

/-- The guest operations at homes, in a slot or waiting for one (R190), each with its number. -/
def State.guestOps (s : State) : List (Nat × Instr) :=
  s.tiles.flatMap (fun e => (e.2.guestQ ++ e.2.guests.map (·.2)).map fun g => (g.ord, Instr.atomicAtHome g)) ++
  s.kettles.flatMap fun e => (e.2.waitQ ++ e.2.guests.map (·.2)).map fun g => (g.ord, Instr.atomicAtHome g)

/-- The operations on their way to a home or waiting at one, each with its number: events, guest operations
(R190), and ticketed updates not yet applied (R183). -/
def State.flight (s : State) : List (Nat × Instr) :=
  s.agenda.map (fun q => (q.id, q.ev)) ++ s.guestOps ++
  s.windows.flatMap fun w => w.caddy.map fun e => (e.upd.ord, Instr.ticketUpdateArrival e.upd)

/-- The cells that a Kettle command reads and writes (R369). -/
def KCommand.cells (k : KCommand) : List Nat :=
  cellsFrom k.base (bits k.d0 31 8 * (if k.fmt = 8 then 8 else if k.fmt = 9 then 4 else 2))

/-- Element bits of a pointer; 8 where the format has none, which the format check refuses. -/
def eb (p : Word) : Nat := (fmtBits (ptrFmt p)).getD 8

/-- The bytes of an accumulator image in a format (R318). -/
def imageBytes (p : Word) : Nat := 1024 * eb p / 8

/-- The accesses of a queued matrix instruction, each with its path: its operand's extent (R381 to R384) and its scale
bytes. `cells` and `scales` keep the first cell of each, `x0` the number of scale bytes and `x1` their pointer. -/
def unitReach (u : UnitOp) : List (Nat × List Nat) :=
  let data (n : Nat) : Nat × List Nat := (ptrPath u.ptr, u.cells.flatMap fun c => cellsFrom c n)
  let scales : Nat × List Nat := (ptrPath u.x1, u.scales.flatMap fun c => cellsFrom c u.x0.toNat)
  match u.insn with
  | .mma .. | .mldb .. => [data 4096, scales]
  | .mldz .. | .mstz .. => [data (imageBytes u.ptr)]
  | _ => []

/-- The accesses of the matrix units' queues (R383) and of the Kettle commands (R158), each a path-6 access. -/
def State.unitAccesses (s : State) : List (List ThreadId × Nat × List Nat) :=
  s.tiles.flatMap (fun e => e.2.mq.flatMap fun u =>
    (unitReach u).map fun a => ([{ tile := e.1, slot := u.slot }], a.1, a.2)) ++
  s.kettles.flatMap fun e => e.2.queue.map fun k => ([k.tid], 6, k.cells)

/-- Whether an access on a path to these cells waits for an earlier one that a thread-scope fence ordered
before it (R161). -/
def State.fenceHolds (s : State) (path : Nat) (cells : List Nat) : Bool :=
  s.me.fthr.any fun f =>
    let meets (a : List ThreadId × Nat × List Nat) : Bool :=
      a.1.contains s.cur && a.2.1 != path && f.1.getLsbD a.2.1 && a.2.2.any cells.contains
    f.1.getLsbD path &&
    ((s.flight.any fun q => q.1 < f.2 && (accessesOf q.2).any meets) || s.unitAccesses.any meets)

/-- Whether R158 orders an access of the executing thread on one path before its later one on another path (the first two
arguments with their cells): always on one of the paths 1 to 3, a path-7 access to the own bank among those of path 1, else
where they share a location. -/
def State.pairOrdered (s : State) (p : Nat) (cs : List Nat) (path : Nat) (cells : List Nat) : Bool :=
  let chan (p : Nat) (cs : List Nat) : Nat :=
    if p = 7 && cs.any fun c => cellBank c == s.cur.tile then 1 else p
  let mine := chan path cells
  chan p cs == mine && ((1 ≤ mine && mine ≤ 3) || cs.any cells.contains)

/-- Whether an access of the executing thread waits for an earlier ticketed update of its that is not applied yet (R183). -/
def State.caddyHolds (s : State) (path : Nat) (cells : List Nat) : Bool :=
  s.flight.any fun q => match q.2 with
    | .ticketUpdateArrival u => u.tid == s.cur && s.pairOrdered u.path (cellsFrom u.cell (tfBytes u.fmt)) path cells
    | _ => false

/-- Whether an access of the executing thread waits for an earlier one that R158 orders before it and that is
performed apart from the agenda: a ticketed update that no result is awaited of (R183), and the matrix unit's (R383). -/
def State.orderHolds (s : State) (path : Nat) (cells : List Nat) : Bool :=
  s.caddyHolds path cells || s.myTile.mq.any fun u => u.slot == s.cur.slot && (unitReach u).any fun a =>
    s.pairOrdered a.1 a.2 path cells

/-- Whether an access on a path to these cells must wait for an earlier one of its thread. -/
def State.mustHold (s : State) (path : Nat) (cells : List Nat) : Bool :=
  s.fenceHolds path cells || s.orderHolds path cells

/-- The same for an access that is performed as it issues and not on its way to its home: it also waits for the earlier
ones of its thread on its path that share a location and are under way (R156, R158). -/
def State.nowHolds (s : State) (path : Nat) (cells : List Nat) : Bool :=
  s.mustHold path cells || s.flight.any fun q => !isRed q.2 && (accessesOf q.2).any fun a =>
    a.1.contains s.cur && a.2.1 == path && a.2.2.any cells.contains

/-- What a control block, a shape record or a scale byte read at issue holds, a remote page's bytes being free values
(assumption 6); or the state in which its reading ends, held, stopped by poison or by a remote home's refusal. -/
def State.readNow (s : State) (path : Nat) (va : Nat → Nat) (cells : List Nat) : Except State (List Byte × State) :=
  if s.nowHolds path cells then .error s.held
  else
    match s.firstPoison (cells.filter fun c => !isRemoteCell c) with
    | some c => .error (s.eatPoison s.cur (s.poisonOwner c) (s.physAddr (c / 8 * 8)))
    | none =>
      match cells.findIdx? isRemoteCell with
      | none => .ok (s.readBytes cells, s)
      | some i =>
        if Config.remoteRefuses s.frees then
          .error ((s.refusedBy s.myPart (remoteWin (cells.getD i 0))).trap cRemoteLost (BitVec.ofNat 64 (va i)))
        else
          .ok (cells.zipIdx.map fun ci =>
              if isRemoteCell ci.1 then BitVec.ofNat 8 (Config.freeWord (s.frees + ci.2)).toNat else s.byte ci.1,
            { s with frees := s.frees + cells.length })

/-! ### Effective pointers (R357) -/

def epOf (p : Word) (ea : Int) : Word := withAddr p (ea.emod (2 ^ 51)).toNat

/-- The access to `n` bytes at the exact address `ea` through pointer `p`, checked in the order of R308 and
R357: path, format, range and bank, alignment, translation, side-byte mode. -/
def State.access (s : State) (paths : List Nat) (kind : AccKind) (p : Word) (fmtOk : Bool) (ea : Int)
    (n align : Nat) : Reach :=
  if !paths.contains (ptrPath p) then .stop (.trap cPathInvalid p)
  else if !fmtOk then .stop (.trap cFormatInvalid p)
  else if ea < 0 || ea ≥ 2 ^ 51 then .stop (.trap cAddressRange (epOf p ea))
  else s.reach s.cur paths kind p ea.toNat n align

/-- Cells and whether they are near, or why not. -/
def Reach.get (r : Reach) (n : Nat) : Except Why (Bool × List Nat) :=
  match r with
  | .cells near cs => .ok (near, cs)
  | .remote w o => .ok (false, remoteCells w o n)
  | .stop w => .error w

/-! ### Element operands (R123 to R125) -/

/-- The rank of an exact condition of an address among those of R308: address-range, bank-absent, misaligned, then those
of translation. -/
def whyRank : Why → Nat
  | .trap c _ => if c = cAddressRange then 0 else if c = cBankAbsent then 1 else if c = cMisaligned then 2 else 3
  | _ => 3

/-- The first condition of an access made of several parts: the lowest rank, and of those the first part's. -/
def firstWhy (ws : List Why) : Option Why :=
  ws.foldl (fun acc w => match acc with
    | none => some w
    | some v => if whyRank w < whyRank v then some w else acc) none

/-- Why a part does not reach storage. -/
def whyOf {α : Type} : Except Why α → Option Why
  | .error w => some w
  | .ok _ => none

/-- The path of an element access's scale bytes; the data's own where it has none. -/
def State.scalePath (s : State) (a : AReg) : Nat :=
  if ptrK (s.me.getA a) = 0 then ptrPath (s.me.getA a) else ((s.scalePtr a).map ptrPath).getD 0

/-- The format check of an element access (R124). -/
def State.elemOk (s : State) (a : AReg) (one : Bool) (lanes : Nat) : Bool :=
  let p := s.me.getA a
  (fmtBits (ptrFmt p)).isSome && !(one && ptrFmt p = 0) && lanes * eb p ≤ 2048 &&
  (ptrK p = 0 || s.scaledOk a)

/-- The byte offset of element q (R357): rounded down for E2M1. -/
def elemOff (p : Word) (q : Int) : Int := (q * eb p) / 8

/-- The cell of the scale byte of element q; none where the pointer is not block-scaled. -/
def State.scaleCell (s : State) (a : AReg) (q : Int) : Except Why (Bool × Option Nat) :=
  let p := s.me.getA a
  if ptrK p = 0 then .ok (true, none)
  else
    match s.scalePtr a with
    | none => .ok (true, none)
    | some sp =>
      match (s.access [0, 1, 2, 3, 4, 5] .scale sp true ((ptrAddr sp : Int) + q / (2 ^ ptrK p : Nat)) 1 1).get 1 with
      | .error (.miss va) => .error (.scaleMiss (ptrPath sp) va)
      | .error (.pageFault va q l p) => .error (.scaleFault (ptrPath sp) va q l p)
      | .error w => .error w
      | .ok (near, cs) => .ok (near, cs.head?)

/-- Whether an element access's scale bytes are near: it has none, or its scale pointer names a bank of the local store. -/
def State.scaleNear (s : State) (a : AReg) : Bool :=
  ptrK (s.me.getA a) = 0 || (1 ≤ s.scalePath a && s.scalePath a ≤ 3)

/-- The scale pointer of an element access where its path serves no scale (R125, R127). -/
def State.badScalePath (s : State) (a : AReg) : Option Word :=
  if ptrK (s.me.getA a) = 0 then none else (s.scalePtr a).filter fun sp => ptrPath sp = 7

/-- What `n` elements from element `q` occupy as one access, whether it is near, and the lanes' sources. The conditions
of the data and of the scale bytes come in the order of R308; an odd E2M1 count is misaligned (R377). -/
def State.elements (s : State) (paths : List Nat) (kind : AccKind) (a : AReg) (ok : Bool) (q : Int)
    (n : Nat) : Except Why (Bool × List Nat × List LaneSrc) :=
  let p := s.me.getA a
  let w := eb p
  let ea := (ptrAddr p : Int) + elemOff p q
  let len := Nat.max 1 (n * w / 8)
  if !paths.contains (ptrPath p) then .error (.trap cPathInvalid p)
  else
    match s.badScalePath a with
    | some sp => .error (.trap cPathInvalid sp)
    | none =>
      if !ok then .error (.trap cFormatInvalid p)
      else
        let align := if w = 4 && n > 1 && q % 2 ≠ 0 then 0 else Nat.max 1 (w / 8)
        let data := (s.access paths kind p true ea len align).get len
        let scs := (List.range n).map fun (i : Nat) => s.scaleCell a (q + (i : Int))
        match firstWhy ((whyOf data).toList ++ scs.filterMap whyOf), data with
        | some e, _ => .error e
        | none, .error e => .error e
        | none, .ok (near, cs) =>
          let at_ (i : Nat) : List Nat :=
            if w = 4 then (cs.drop (if n = 1 then 0 else i / 2)).take 1 else (cs.drop (i * w / 8)).take (w / 8)
          let lane (sc : Option Nat) (i : Nat) : LaneSrc :=
            { lane := i, cells := at_ i, hi := w == 4 && (q + (i : Int)) % 2 ≠ 0, scale := sc
              va := ((ptrAddr p : Int) + elemOff p (q + (i : Int))).toNat
              sva := ((s.scalePtr a).map fun sp =>
                ((ptrAddr sp : Int) + (q + (i : Int)) / (2 ^ ptrK p : Nat)).toNat).getD 0 }
          .ok (near, cs, scs.zipIdx.map fun si => lane (match si.1 with
            | .ok sc => sc.2
            | .error _ => none) si.2)

/-! ### Reading -/

/-- What the executing thread's buffered path-5 stores hold of these cells (R156): value and written nibbles. -/
def State.ownBytes (s : State) (cells : List Nat) : List (Nat × Byte × BitVec 2) :=
  cells.filterMap fun c =>
    (s.myTile.wcb.find? fun l => l.line == c / 256 && l.threads.contains s.cur.slot).map fun l =>
      (c, SMap.get (0, 0) l.bytes (c % 256))

/-- A byte under what the thread's own buffered stores held of it. -/
def underOwn (own : List (Nat × Byte × BitVec 2)) (c : Nat) (home : Byte) : Byte :=
  match own.find? fun e => e.1 == c with
  | some e =>
    let h := if e.2.2.getLsbD 1 then nibbleInto home e.2.1 true else home
    if e.2.2.getLsbD 0 then nibbleInto h e.2.1 false else h
  | none => home

/-- The path on which a load reads a cell: its scale bytes come through the scale pointer (R125). -/
def loadPath (r : LoadReq) (c : Nat) : Nat :=
  if (dataCells r.dest).contains c then r.path else r.spath

/-- A byte as a load sees it: one that its own thread's buffered store held at issue (R156), one of a line of
the read-only cache (R56), or the home's. -/
def State.seen (s : State) (r : LoadReq) (c : Nat) : Byte :=
  let home := ((r.got.find? fun e => e.1 == c).map (·.2)).getD (s.byte c)
  if loadPath r c = 5 then underOwn r.own c home
  else if loadPath r c = 4 && r.fills.any (fun f => f.line == c / 256) then
    match (s.tile r.tid.tile).roc.find? fun l => l.fill.line == c / 256 && ownerKey l.tag == ownerKey (s.tagOf r.tid) with
    | some l => (l.data[c % 256]?).getD home
    | none => home
  else home

/-- The bits of one element. -/
def elemRaw (rd : Nat → Byte) (src : LaneSrc) (w : Nat) : Nat :=
  let v := natOfBytes (src.cells.map rd)
  if w = 4 then (if src.hi then v / 16 % 16 else v % 16) else v

/-- Whether a storage format is a floating register format's own: such an element is copied unchanged (R197). -/
def ownFormat (f : VFmt) (fmt : Nat) : Bool :=
  match f with
  | .fp64 => fmt == 8
  | .fp32 => fmt == 9
  | .bf16 => fmt == 10
  | .fp16 => fmt == 11
  | _ => false

/-- One element converted to a register format (R376), with its flags; bits are copied where nothing is converted
(R197). -/
def elemLoad (rd : Nat → Byte) (f : VFmt) (fmt : Nat) (src : LaneSrc) : Nat × BitVec 5 :=
  let raw := elemRaw rd src ((fmtBits fmt).getD 8)
  let x := storageDecode fmt raw
  match src.scale with
  | some c => f.encode .rne 0 (scaledVal (rd c).toNat x)
  | none => if ownFormat f fmt then (raw % 2 ^ f.width, 0) else f.encode .rne 0 x

/-- A raw load's value (R374). -/
def rawLoad (sz : LdSize) (bs : List Byte) : Word :=
  let v := natOfBytes bs
  match sz with
  | .b => sext v 8
  | .bu => zext v 8
  | .h => sext v 16
  | .hu => zext v 16
  | .w => sext v 32
  | .wu => zext v 32
  | .d => zext v 64

/-- An element in a g register: integers sign-extended, floating formats zero-extended (R376). -/
def elemWord (f : VFmt) (x : Nat) : Word := if f.isFloat then zext x f.width else sext x f.width

/-- A thread with a load's registers written from the bytes `rd`, and its flags joined (R374 to R378). -/
def Thread.loaded (th : Thread) (dest : LoadDest) (rd : Nat → Byte) : Thread :=
  match dest with
  | .raw d sz cs => th.setG d (rawLoad sz (cs.map rd))
  | .elem d f fmt src =>
    let r := elemLoad rd f fmt src
    (th.setG d (elemWord f r.1)).raise r.2
  | .lanes vd f fmt srcs =>
    let rs := srcs.map fun src => (src.lane, elemLoad rd f fmt src)
    let old := lanesOf (th.getV vd) f.width f.lanes
    let new := old.zipIdx.map fun xi =>
      match rs.find? fun r => r.1 == xi.2 with
      | some r => r.2.1
      | none => xi.1
    (th.setV vd (ofLanes f.width new)).raise (rs.foldl (fun a r => a ||| r.2.2) 0)

/-- A load of thread `t` returns: its registers are written, and it completes. -/
def State.loadDone (s : State) (t : ThreadId) (dest : LoadDest) (rd : Nat → Byte) : State :=
  let s := s.modThread t (·.loaded dest rd)
  s.retireTo t ((s.thread t).pc + 4)

/-- The lines of the read-only cache that a path-4 access is served from or fills: those of its bytes whose page
is marked cacheable (R56). -/
def State.rocFills (s : State) (path va : Nat) (cells : List Nat) : List RocFill :=
  if path ≠ 4 then []
  else
    ((cells.zipIdx).filterMap fun ci =>
      match s.lookup s.cur.tile .load s.myTag (va + ci.2) with
      | some e =>
        if leafRoc e.leaf then
          some { line := ci.1 / 256, va := (va + ci.2) / 256 * 256, log := e.log, dev := e.dev : RocFill }
        else none
      | none => none).eraseDups

/-- The lines that an element load's scale bytes and, lane by lane, its data are served from or fill. -/
def State.laneFills (s : State) (path spath : Nat) (srcs : List LaneSrc) : List RocFill :=
  (srcs.flatMap fun x => s.rocFills path x.va x.cells ++ s.rocFills spath x.sva x.scale.toList).eraseDups

def State.rocHit (s : State) (t : ThreadId) (line : Nat) : Bool :=
  (s.tile t.tile).roc.any fun l => l.fill.line == line && ownerKey l.tag == ownerKey (s.tagOf t)

/-- A load of the executing thread, as it is issued. -/
def State.loadReq (s : State) (path spath : Nat) (ptr : Word) (dest : LoadDest) (fills : List RocFill) : LoadReq :=
  { tid := s.cur, path := path, spath := spath, ptr := ptr, dest := dest
    remote := ((destCells dest).find? isRemoteCell).map remoteWin, fills := fills
    ord := s.nextId, gone := false, got := []
    own := s.ownBytes ((if path = 5 then dataCells dest else []) ++ (if spath = 5 then scaleCells dest else [])) }

/-- Whether every byte of a load lies in lines that the read-only cache holds for it. -/
def State.rocServes (s : State) (r : LoadReq) : Bool :=
  (destCells r.dest).all fun c => loadPath r c == 4 && r.fills.any (fun f => f.line == c / 256) && s.rocHit r.tid (c / 256)

/-- Whether the thread of a load goes on while it is under way (R42, R374): not where its failure would still be exact, as
that of one that leaves the device (R150) or whose words hold an error (R267), nor in a thread pair, whose trailing twin
takes the value in its turn (R46; assumption 12). -/
def State.goesOn (s : State) (r : LoadReq) : Bool :=
  r.remote.isNone && !s.poisoned (destCells r.dest) && !s.paired s.cur.tile

/-- The accesses that a load is made of: a gather's elements are apart (R378). -/
def loadParts (apart : Bool) (dest : LoadDest) : List LoadDest :=
  match apart, dest with
  | true, .lanes d f fmt srcs => srcs.map fun x => .lanes d f fmt [x]
  | _, d => [d]

/-- One access of a load leaves for its home, and its thread goes on without it. -/
def State.sendPart (s : State) (r : LoadReq) (dest : LoadDest) : State :=
  (s.modMe fun th => { th with loads := th.loads ++ [(s.nextId, dest)] }).post
    (.loadResponse { r with
      dest := dest, ord := s.nextId, gone := true
      fills := r.fills.filter fun f => (destCells dest).any fun c => c / 256 == f.line })

/-- A load leaves for its home: its thread goes on, and an instruction that names what it writes is held (R42); or it is held
itself. -/
def State.sendLoad (s : State) (r : LoadReq) (apart : Bool) : State :=
  if s.goesOn r then ((loadParts apart r.dest).foldl (fun s d => s.sendPart r d) s).retire
  else s.await.post (.loadResponse r)

/-- A load is issued: at once from a near bank or from lines that the read-only cache holds, otherwise on its
way to its home (R61, R156). -/
def State.issueLoad (s : State) (r : LoadReq) (near apart : Bool) : State :=
  let cs := destCells r.dest
  if s.mustHold r.path (dataCells r.dest) || s.mustHold r.spath (scaleCells r.dest) then s.held
  else if near || (!cs.isEmpty && s.rocServes r) then
    match if near then s.consume s.cur cs else none with
    | some s' => s'
    | none => s.loadDone s.cur r.dest (s.seen r)
  else s.sendLoad r apart

/-- A line enters the read-only cache: of the four ways of its set the oldest makes room (R56). The manual gives the
cache 64 sets and no index: the model takes the line's number at its home modulo 64 (assumption 107). -/
def Tile.fillRoc (t : Tile) (l : RocLine) : Tile :=
  let set := t.roc.filter fun m => m.fill.line % 64 == l.fill.line % 64
  let out := if set.length ≥ 4 then set.getLast? else none
  { t with roc := l :: (match out with
      | some m => dropFirst (· == m) t.roc
      | none => t.roc) }

def ldPaths : List Nat := [0, 1, 2, 3, 4, 5, 7]
def elPaths : List Nat := [0, 1, 2, 3, 4, 5]
def stPaths : List Nat := [0, 1, 2, 3, 5, 7]
def esPaths : List Nat := [0, 1, 2, 3, 5]

def ldBytes : LdSize → Nat
  | .b | .bu => 1
  | .h | .hu => 2
  | .w | .wu => 4
  | .d => 8
def stBytes : StSize → Nat
  | .b => 1 | .h => 2 | .w => 4 | .d => 8

def execLd (d : GReg) (a : AReg) (sz : LdSize) (off : BitVec 13) (σ : State) :
    Host.Outcome State Fault Refusal :=
  let p := σ.me.getA a
  let n := ldBytes sz
  let ea := offAddr p off n
  match (σ.access ldPaths .load p true ea n n).get n with
  | .error w => ends (σ.stop (ptrPath p) .load w)
  | .ok (near, cs) =>
    ends (σ.issueLoad (σ.loadReq (ptrPath p) (ptrPath p) (epOf p ea) (.raw d sz cs)
      (σ.rocFills (ptrPath p) ea.toNat cs)) near false)

def execLde (d : GReg) (a : AReg) (f : VFmt) (off : BitVec 13) (σ : State) :
    Host.Outcome State Fault Refusal :=
  let p := σ.me.getA a
  let ea := (ptrAddr p : Int) + elemOff p off.toInt
  match σ.elements elPaths .load a (σ.elemOk a true 1) off.toInt 1 with
  | .error w => ends (σ.stop (ptrPath p) .load w)
  | .ok (near, _, srcs) =>
    match srcs with
    | src :: _ =>
      ends (σ.issueLoad (σ.loadReq (ptrPath p) (σ.scalePath a) (epOf p ea) (.elem d f (ptrFmt p) src)
        (σ.laneFills (ptrPath p) (σ.scalePath a) [src])) (near && σ.scaleNear a) false)
    | [] => .next σ

def execLdv (d : VReg) (a : AReg) (f : VFmt) (off : BitVec 13) (σ : State) :
    Host.Outcome State Fault Refusal :=
  let p := σ.me.getA a
  let ea := (ptrAddr p : Int) + elemOff p off.toInt
  match σ.elements elPaths .load a (σ.elemOk a false f.lanes) off.toInt f.lanes with
  | .error w => ends (σ.stop (ptrPath p) .load w)
  | .ok (near, _, srcs) =>
    ends (σ.issueLoad (σ.loadReq (ptrPath p) (σ.scalePath a) (epOf p ea) (.lanes d f (ptrFmt p) srcs)
      (σ.laneFills (ptrPath p) (σ.scalePath a) srcs)) (near && σ.scaleNear a) false)

/-- The index of a gather's or scatter's lane: a signed I32 (R378). -/
def laneIndex (v : VWord) (i : Nat) : Int := sintOf (lane v 32 i) 32

/-- The lanes of a gather or scatter, checked in ascending order, each in full before the next: as an access, then for
what `stop` finds (R378, R410). -/
def State.indexed (s : State) (paths : List Nat) (kind : AccKind) (a : AReg) (idx : VWord)
    (lanes : List Nat) (stop : Bool → Nat → LaneSrc → Option Why) : Except Why (Bool × List (Nat × List Nat × LaneSrc)) :=
  lanes.foldl (fun acc i =>
    match acc with
    | .error e => .error e
    | .ok (nr, out) =>
      match s.elements paths kind a (s.elemOk a false 1) (laneIndex idx i) 1 with
      | .error e => .error e
      | .ok (nr', cs, srcs) =>
        match srcs.findSome? (stop nr' i) with
        | some e => .error e
        | none => .ok (nr && nr', out ++ srcs.map fun x => (i, cs, { x with lane := i })))
    (.ok (true, []))

def execLdvx (d : VReg) (a : AReg) (f : VFmt) (b : VReg) (k : KReg) (σ : State) :
    Host.Outcome State Fault Refusal :=
  let p := σ.me.getA a
  let idx := σ.me.getV b
  let lanes := activeLanes (σ.me.getK k) f.lanes
  match σ.indexed elPaths .load a idx lanes fun _ _ _ => none with
  | .error w => ends (σ.stop (ptrPath p) .load w)
  | .ok (near, ls) =>
    let srcs := ls.map (·.2.2)
    ends (σ.issueLoad (σ.loadReq (ptrPath p) (σ.scalePath a) p (.lanes d f (ptrFmt p) srcs)
      (σ.laneFills (ptrPath p) (σ.scalePath a) srcs)) ((near && σ.scaleNear a) || lanes.isEmpty) true)

/-! ### Stores -/

/-- The bytes a store leaves: a nibble store keeps the other nibble as it stands at the home. -/
def State.storeBytes (s : State) (cells : List (Nat × Byte)) (nib : Option Bool) : List (Nat × Byte) :=
  match nib with
  | none => cells
  | some hi => cells.map fun cb => (cb.1, nibbleInto (s.byte cb.1) cb.2 hi)

/-- The first poisoned word that a store covers only in part (R406). -/
def State.partPoison (s : State) (cells : List (Nat × Byte)) (nib : Option Bool) : Option Nat :=
  let cs := cells.map (·.1)
  (cs.find? fun c => SMap.get false s.pois (c / 8) &&
    (nib.isSome || !(List.range 8).all fun i => cs.contains (c / 8 * 8 + i))).map fun c => c / 8 * 8

/-- What a store fails with at its home, and the cell it fails at: the capability check, then a poisoned word
written in part. -/
def State.storeFailCell (s : State) (tag : Tag) (cells : List (Nat × Byte)) (nib : Option Bool) :
    Option (Nat × Nat) :=
  match s.capFail tag (granulesOf (cells.map (·.1))) with
  | some (c, g) => some (c, g * 4096)
  | none => (s.partPoison cells nib).map fun c => (cPoisonedData, c)

/-- The same with the cell's address as the trap value. -/
def State.storeFails (s : State) (tag : Tag) (cells : List (Nat × Byte)) (nib : Option Bool) :
    Option (Nat × Word) :=
  (s.storeFailCell tag cells nib).map fun f => (f.1, s.physAddr f.2)

/-- The part of a store that is homed on this device. -/
def localPart (cells : List (Nat × Byte)) : List (Nat × Byte) := cells.filter fun cb => !isRemoteCell cb.1

/-- Whether a cell lies outside the local store of a tile (R53, R279). -/
def State.outsideStore (s : State) (tile c : Nat) : Bool :=
  !((2 ^ 63 ≤ c && !isRemoteCell c) && ([1, 2, 3].any fun p => s.bankOf tile p == some (cellBank c)))

/-- Whether the executing task is a die-pair copy (R47, R278). -/
def State.dieCopy (s : State) : Bool :=
  match s.myTile.task with
  | some k => k.rdm == 2
  | none => false

/-- The faults that a store raises exactly at issue, in order; `exact` where its capability check is exact
(R163). -/
def State.storeStops (s : State) (ep : Word) (exact : Bool) (cells : List (Nat × Byte)) (nib : Option Bool) :
    Option (Nat × Word) :=
  if s.dieCopy && cells.any fun c => s.outsideStore s.cur.tile c.1 then some (cRedundancy, ep)
  else
    match s.blockBusy (cells.map (·.1)) with
    | some c => some (cControlBlock, s.physAddr (c / 256 * 256))
    | none => if exact then s.storeFails s.myTag (localPart cells) nib else none

/-- Whether every access of the executing thread's stores is answered before it goes on. -/
def State.det (s : State) : Bool := (s.part s.myPart).mode = 1

/-- Lines of a write-combining buffer leave for their homes (R129): whole bytes as one store, the bytes
with one written nibble as nibble writes. -/
def lineStores (l : WcLine) : List StoreReq :=
  let pick (m : BitVec 2) : List (Nat × Byte) :=
    l.bytes.filterMap fun e => if e.2.2 == m then some (l.line * 256 + e.1, e.2.1) else none
  let req (nib : Option Bool) (cs : List (Nat × Byte)) : List StoreReq :=
    if cs.isEmpty then []
    else [{ tid := l.tid, tag := l.tag, path := 5, ptr := l.ptr, insn := l.insn, cells := cs, nib := nib
            opnd := l.opnd, remote := none, slots := l.threads, waited := none }]
  req none (pick 3) ++ req (some false) (pick 1) ++ req (some true) (pick 2)

def State.drainLines (s : State) (tile : Nat) (f : WcLine → Bool) : State :=
  let go := (s.tile tile).wcb.filter f
  let s := s.modTile tile fun t => { t with wcb := t.wcb.filter fun l => !f l }
  s.postAll ((go.flatMap lineStores).map Instr.storeAtHome)

/-- A path-5 store of one 256-byte line joins the buffer. -/
def State.combine (s : State) (ptr : Word) (insn : InsnWord) (line : Nat) (cells : List (Nat × Byte))
    (nib : Option Bool) (opnd : Word) : State :=
  let tile := s.cur.tile
  let mine (l : WcLine) : Bool := l.line == line && l.tag == s.myTag
  let s :=
    if s.myTile.wcb.any mine then s
    else
      let s := if s.myTile.wcb.length ≥ 8 then
          match s.myTile.wcb.head? with
          | some old => s.drainLines tile (· == old)
          | none => s
        else s
      s.modTile tile fun t =>
        { t with wcb := t.wcb ++ [{ tag := s.myTag, line := line, bytes := [], threads := [], ptr := ptr
                                    insn := insn, tid := s.cur, opnd := opnd }] }
  let put (bs : SMap (Byte × BitVec 2)) (cb : Nat × Byte) : SMap (Byte × BitVec 2) :=
    let e := SMap.get (0, 0) bs (cb.1 % 256)
    let e' : Byte × BitVec 2 := match nib with
      | none => (cb.2, 3)
      | some hi => (nibbleInto e.1 cb.2 hi, e.2 ||| (if hi then 2 else 1))
    SMap.set (0, 0) bs (cb.1 % 256) e'
  let s := s.modTile tile fun t =>
    { t with
      wcDue := s.tc tile + 64
      wcb := t.wcb.map fun l =>
        if mine l then
          { l with bytes := cells.foldl put l.bytes
                   threads := if l.threads.contains s.cur.slot then l.threads else s.cur.slot :: l.threads }
        else l }
  if s.agenda.any fun q => q.ev == .wcLineDrain tile then s else s.postIn 64 (.wcLineDrain tile)

/-- A store that has passed its issue checks: performed at once at a near bank and in deterministic mode,
combined on path 5, posted otherwise. In deterministic mode one through a remote window is answered (R163). -/
def State.doStore (s : State) (path : Nat) (ep : Word) (insn : InsnWord) (near : Bool)
    (cells : List (Nat × Byte)) (nib : Option Bool) (flags : BitVec 5) : State :=
  let opnd := BitVec.ofNat 64 (natOfBytes ((cells.take 8).map (·.2)))
  let remote := (cells.find? fun c => isRemoteCell c.1).map fun c => remoteWin c.1
  let s := if path = 0 || path = 5 then
      (((cells.zipIdx).filter fun ci => ci.2 = 0 || (ptrAddr ep + ci.2) % 4096 = 0)).foldl
        (fun s ci => s.dirty s.cur (ptrAddr ep + ci.2)) s
    else s
  if remote.isNone && (near || s.det) then s.storeCells s.myTag (s.storeBytes cells nib)
  else if path = 5 then
    ((cells.map fun c => c.1 / 256).eraseDups).foldl (fun s line =>
      s.combine ep insn line (cells.filter fun c => c.1 / 256 == line) nib opnd) s
  else
    s.post (.storeAtHome
      { tid := s.cur, tag := s.myTag, path := path, ptr := ep, insn := insn, cells := cells, nib := nib
        opnd := opnd, remote := remote, slots := [], waited := if s.det then some flags else none })

/-- Whether the addresses that an instruction stores to must append more entries than the dirty log has room for
(R142). -/
def State.dirtyLacks (s : State) (vas : List Nat) : Bool :=
  let es := (vas.filterMap fun va => s.lookup s.cur.tile .store s.myTag va).eraseDups
  let need := (es.filter fun e => !e.dt).length
  need ≠ 0 && s.myTile.dirtyTail - s.myTile.dirtyHead + need > 256

/-- The addresses of a store's first and last byte, where its pages may be marked dirty. -/
def dirtyVas (path : Nat) (ep : Word) (n : Nat) : List Nat :=
  if path = 0 || path = 5 then [ptrAddr ep, ptrAddr ep + n - 1] else []

/-- Whether a store must wait: for a dirty-log entry (R142) or for an earlier access of its thread (R158, R161), of which one
performed at once meets those under way. -/
def State.storeWaits (s : State) (path : Nat) (ep : Word) (cells : List (Nat × Byte)) : Bool :=
  let cs := cells.map (·.1)
  s.dirtyLacks (dirtyVas path ep cells.length) || (if s.det then s.nowHolds path cs else s.mustHold path cs)

/-- The completion of a store instruction with its flags: held until its home has accepted it where it is answered. -/
def State.storeDone (s : State) (cells : List (Nat × Byte)) (flags : BitVec 5) : State :=
  if s.det && cells.any (fun c => isRemoteCell c.1) then s.await else (s.modMe (·.raise flags)).retire

/-- One store as an instruction: checked, performed or posted, completed, its flags joined. -/
def State.storeInsn (s : State) (path : Nat) (ep : Word) (insn : InsnWord) (near : Bool)
    (cells : List (Nat × Byte)) (nib : Option Bool) (flags : BitVec 5) : State :=
  match s.storeStops ep (near || s.det) cells nib with
  | some (c, v) => s.trap c v
  | none =>
    if s.storeWaits path ep cells then s.held
    else (s.doStore path ep insn near cells nib flags).storeDone cells flags

def execSt (r : GReg) (a : AReg) (sz : StSize) (off : BitVec 13) (σ : State) :
    Host.Outcome State Fault Refusal :=
  let p := σ.me.getA a
  let n := stBytes sz
  let ea := offAddr p off n
  match (σ.access stPaths .store p true ea n n).get n with
  | .error w => ends (σ.stop (ptrPath p) .store w)
  | .ok (near, cs) =>
    ends (σ.storeInsn (ptrPath p) (epOf p ea) (BitVec.ofNat 32 (encodeWord (.st r a sz off))) near
      (cs.zip (bytesOfNat n (σ.g r).toNat)) none 0)

/-- One register element converted to storage (R408), with its flags; bits are copied where nothing is converted
(R197). -/
def elemStore (mode : RMode) (f : VFmt) (fmt : Nat) (scale : Option Nat) (x : Nat) : Nat × BitVec 5 :=
  let v := f.decode x
  match scale with
  | none => if ownFormat f fmt then (x % 2 ^ f.width, 0) else storageEncode fmt mode 0 v
  | some 255 =>
    ((match storage fmt with
      | .float g => g.nanCode
      | _ => 0), flagInvalid)
  | some e => storageEncode fmt mode 0 (v.scale (127 - (e : Int)))

/-- RMODE.RM as a mode: 0, 1, 2, 3 or 5 (R220). -/
def rmodeOf (rm : BitVec 3) : RMode :=
  match rm.toNat with
  | 1 => .rtz
  | 2 => .rdn
  | 3 => .rup
  | 5 => .rnesat
  | _ => .rne

/-- The bytes that an element's code occupies: an E2M1 code stands in both nibbles of its byte, for the
nibble write to pick. -/
def elemBytes (fmt : Nat) (src : LaneSrc) (code : Nat) : List (Nat × Byte) :=
  if fmt = 12 then src.cells.map fun c => (c, BitVec.ofNat 8 (code % 16 * 17))
  else src.cells.zip (bytesOfNat src.cells.length code)

/-- The scale byte of a source among the bytes read for a store. -/
def scaleIn (rd : Nat → Byte) (src : LaneSrc) : Option Nat := src.scale.map fun c => (rd c).toNat

/-- The scale bytes of a store's sources as the executing thread reads them on the scale pointer's path (R125, R156), or the
state in which their reading ends. -/
def State.readScales (s : State) (path : Nat) (srcs : List LaneSrc) : Except State ((Nat → Byte) × State) :=
  let cs := srcs.flatMap (·.scale.toList)
  let va (i : Nat) : Nat := ((srcs.filter (·.scale.isSome))[i]?.map (·.sva)).getD 0
  match s.readNow path va cs with
  | .error s' => .error s'
  | .ok (bs, s') =>
    let fills := srcs.flatMap fun x => s.rocFills path x.sva x.scale.toList
    let home (c : Nat) : Byte := (((cs.zip bs).find? fun e => e.1 == c).map (·.2)).getD 0
    .ok ((fun c => if isRemoteCell c then home c else s.seen (s.loadReq path path 0 (.raw 0 .bu [c]) fills) c), s')

def execSte (r : GReg) (a : AReg) (f : VFmt) (off : BitVec 13) (σ : State) :
    Host.Outcome State Fault Refusal :=
  let p := σ.me.getA a
  let ea := (ptrAddr p : Int) + elemOff p off.toInt
  let path := ptrPath p
  match σ.elements esPaths .store a (σ.elemOk a true 1) off.toInt 1 with
  | .error w => ends (σ.stop path .store w)
  | .ok (near, _, srcs) =>
    match srcs, σ.readScales (σ.scalePath a) srcs with
    | [], _ => .next σ
    | _, .error σ' => ends σ'
    | src :: _, .ok (rd, σ) =>
      let fmt := ptrFmt p
      let c := elemStore (rmodeOf σ.me.rm) f fmt (scaleIn rd src) (bits (σ.g r) (f.width - 1) 0)
      ends (σ.storeInsn path (epOf p ea) (BitVec.ofNat 32 (encodeWord (.ste r a f off))) near
        (elemBytes fmt src c.1) (if fmt = 12 then some src.hi else none) c.2)

/-- The codes of all lanes as one range of bytes. -/
def State.laneBytes (s : State) (p : Word) (rd : Nat → Byte) (f : VFmt) (v : VWord) (cs : List Nat) (srcs : List LaneSrc) :
    List (Nat × Byte) × BitVec 5 :=
  let fmt := ptrFmt p
  let codes := srcs.map fun src => elemStore (rmodeOf s.me.rm) f fmt (scaleIn rd src) (lane v f.width src.lane)
  (cs.zip (bytesOfNat cs.length (natOfLanes (eb p) (codes.map (·.1)))),
    codes.foldl (fun a c => a ||| c.2) 0)

def execStv (r : VReg) (a : AReg) (f : VFmt) (off : BitVec 13) (σ : State) :
    Host.Outcome State Fault Refusal :=
  let p := σ.me.getA a
  let ea := (ptrAddr p : Int) + elemOff p off.toInt
  let path := ptrPath p
  match σ.elements esPaths .store a (σ.elemOk a false f.lanes) off.toInt f.lanes with
  | .error w => ends (σ.stop path .store w)
  | .ok (near, cs, srcs) =>
    match σ.readScales (σ.scalePath a) srcs with
    | .error σ' => ends σ'
    | .ok (rd, σ) =>
      let b := σ.laneBytes p rd f (σ.me.getV r) cs srcs
      ends (σ.storeInsn path (epOf p ea) (BitVec.ofNat 32 (encodeWord (.stv r a f off))) near b.1 none b.2)

/-- The effective pointer of a lane of a gather or a scatter. -/
def laneEp (p : Word) (idx : VWord) (i : Nat) : Word := epOf p ((ptrAddr p : Int) + elemOff p (laneIndex idx i))

/-- The stores of a scatter's lanes, in ascending order: effective pointer, bytes, nibble and flags (R410). -/
def State.scatter (s : State) (p : Word) (rd : Nat → Byte) (f : VFmt) (v idx : VWord)
    (ls : List (Nat × List Nat × LaneSrc)) : List (Word × List (Nat × Byte) × Option Bool × BitVec 5) :=
  ls.map fun l =>
    let fmt := ptrFmt p
    let c := elemStore (rmodeOf s.me.rm) f fmt (scaleIn rd l.2.2) (lane v f.width l.1)
    (laneEp p idx l.1, elemBytes fmt l.2.2 c.1, (if fmt = 12 then some l.2.2.hi else none : Option Bool), c.2)

/-- Why a lane of a scatter may not store (R163, R410): a cell of a range checked before its code is known. -/
def State.scatterStop (s : State) (p : Word) (idx : VWord) (near : Bool) (i : Nat) (src : LaneSrc) : Option Why :=
  (s.storeStops (laneEp p idx i) (near || s.det) (elemBytes (ptrFmt p) src 0)
    (if ptrFmt p = 12 then some src.hi else none)).map fun e => .trap e.1 e.2

/-- A scatter: every lane is checked in full, in ascending order, before any is stored, then the lanes go in ascending
order (R410). -/
def execStvx (r : VReg) (a : AReg) (f : VFmt) (b : VReg) (k : KReg) (σ : State) :
    Host.Outcome State Fault Refusal :=
  let p := σ.me.getA a
  let path := ptrPath p
  let idx := σ.me.getV b
  let insn := BitVec.ofNat 32 (encodeWord (.stvx r a f b k))
  match σ.indexed esPaths .store a idx (activeLanes (σ.me.getK k) f.lanes) (σ.scatterStop p idx) with
  | .error w => ends (σ.stop path .store w)
  | .ok (near, ls) =>
    match σ.readScales (σ.scalePath a) (ls.map (·.2.2)) with
    | .error σ' => ends σ'
    | .ok (rd, σ1) =>
      let ops := σ1.scatter p rd f (σ1.me.getV r) idx ls
      if (ops.any fun o => σ1.storeWaits path o.1 o.2.1) ||
          σ1.dirtyLacks (ops.flatMap fun o => dirtyVas path o.1 o.2.1.length) then .next σ1.held
      else
        let flags := ops.foldl (fun x o => x ||| o.2.2.2) 0
        let σ' := ops.foldl (fun s o => s.doStore path o.1 insn near o.2.1 o.2.2.1 flags) σ1
        ends (σ'.storeDone (ops.flatMap (·.2.1)) flags)

/-! ### At the home -/

/-- Whether the thread of a request still waits for it: a thread removed meanwhile does not. -/
def State.waits (s : State) (t : ThreadId) : Bool := (s.thread t).st == .awaiting

/-- The address at which a load loses a remote window that is not open: the datum's or the scale byte's (R150). -/
def State.lostVa (s : State) (n : Nat) (lost : Nat → Bool) (r : LoadReq) : Option Nat :=
  let gone (c : Nat) : Bool := isRemoteCell c && (lost (s.importSt n (remoteWin c)))
  let lane (x : LaneSrc) : Option Nat :=
    if x.cells.any gone then some x.va else if x.scale.toList.any gone then some x.sva else none
  match r.dest with
  | .raw _ _ cs => if cs.any gone then some (ptrAddr r.ptr) else none
  | .elem _ _ _ x => lane x
  | .lanes _ _ _ xs => xs.findSome? lane

/-- Whether an import window's state makes requests under way fail: lost or revoked. After a close they complete
normally (R248). -/
def lostSt (st : Nat) : Bool := st == 2 || st == 3

/-- Whether a load is still wanted: its thread is held for it, or counts it among those it has gone on without. -/
def State.wants (s : State) (r : LoadReq) : Bool :=
  if r.gone then (s.thread r.tid).loads.any fun l => l.1 == r.ord else s.waits r.tid

/-- A load that its thread has gone on without returns: its registers are written, and it is under way no longer. -/
def State.loadLands (s : State) (r : LoadReq) (rd : Nat → Byte) : State :=
  s.modThread r.tid fun th => { th.loaded r.dest rd with loads := th.loads.filter fun l => l.1 ≠ r.ord }

/-- Load data returns (R156, R374, R375). A line of the read-only cache with an error in it is not kept (R57). -/
def execLoadResponse (r : LoadReq) (σ : State) : Host.Outcome State Fault Refusal :=
  if !σ.wants r then .next σ
  else
    let n := (σ.partOfTile r.tid.tile).getD 0
    let here := (destCells r.dest).filter fun c => !isRemoteCell c
    let lost : Option Nat := match r.remote with
      | none => none
      | some _ =>
        match σ.lostVa n lostSt r with
        | some va => some va
        | none => if Config.remoteRefuses σ.frees then σ.lostVa n (fun _ => true) r else none
    match lost with
    | some va => .next ((σ.refusedBy n (r.remote.getD 0)).takeTrap r.tid false cRemoteLost (BitVec.ofNat 64 va) false)
    | none =>
      match if r.gone then none else σ.consume r.tid here with
      | some σ' => ends σ'
      | none =>
        let tag := σ.tagOf r.tid
        -- the data of another device (assumption 6)
        let at0 := σ.frees
        let σ := if r.remote.isSome then { σ with frees := σ.frees + 257 } else σ
        let byte (c : Nat) : Byte :=
          if isRemoteCell c then BitVec.ofNat 8 (Config.freeWord (at0 + 1 + c % 256)).toNat else σ.byte c
        let lines := r.fills.filter fun f => !σ.rocHit r.tid f.line && !σ.poisoned (cellsFrom (f.line * 256) 256)
        let σ := here.foldl State.touch σ
        let σ := σ.modTile r.tid.tile fun t =>
          lines.foldl (fun t f =>
            t.fillRoc { tag := tag, fill := f, data := (cellsFrom (f.line * 256) 256).map byte }) t
        let rd (c : Nat) : Byte :=
          if isRemoteCell c && !(loadPath r c == 4 && σ.rocHit r.tid (c / 256)) then byte c else σ.seen r c
        ends (if r.gone then σ.loadLands r rd else σ.loadDone r.tid r.dest rd)

/-- What a request through a remote window fails with: the window is lost or revoked, the export refuses it, or, where
capabilities are checked there, the remote home does (R163, R247). What another device answers is open (assumption 6). -/
def State.remoteFails (s : State) (n w : Nat) (checked : Bool) : Option Nat :=
  if lostSt (s.importSt n w) || Config.remoteRefuses s.frees then some cRemoteLost
  else if checked && Config.remoteChecks s.frees = 1 then some cCapability
  else if checked && Config.remoteChecks s.frees = 2 then some cCapMode
  else none

/-- Stores of thread `t` that it is held for (R163). -/
def awaitedStore (t : ThreadId) : Instr → Bool
  | .storeAtHome r => r.tid == t && r.waited.isSome
  | _ => false

/-- A store is refused: reported exactly where its thread is held for it, and logged otherwise (R163, R193). -/
def State.storeRefused (s : State) (r : StoreReq) (cause home : Nat) (tval : Word) : State :=
  if r.waited.isSome && s.waits r.tid then
    { s.takeTrap r.tid false cause tval false with agenda := s.agenda.filter fun q => !awaitedStore r.tid q.ev }
  else s.flog r.tag { ptr := r.ptr, insn := r.insn, cause := cause, opnd := r.opnd, ticket := 0, home := home }

/-- A store is accepted: a thread held for it goes on with its flags once no other is on its way (R163). -/
def State.storeAccepted (s : State) (r : StoreReq) : State :=
  match r.waited with
  | some flags =>
    if s.waits r.tid && !(s.agenda.any fun q => awaitedStore r.tid q.ev) then
      (s.modThread r.tid (·.raise flags)).retireTo r.tid ((s.thread r.tid).pc + 4)
    else s
  | none => s

/-- A posted store arrives (R163, R193, R273, R406). -/
def execStoreAtHome (r : StoreReq) (σ : State) : Host.Outcome State Fault Refusal :=
  let c := σ.ctx r.tag
  if c.dying && !Config.landsUnderAvalanche σ.frees then .next { σ with frees := σ.frees + 1 }
  else
    let σ := if c.dying then { σ with frees := σ.frees + 1 } else σ
    let refusal : Option Nat := r.remote.bind fun w => σ.remoteFails (tagPart r.tag) w true
    let σ := match r.remote with
      | some w => if refusal = some cRemoteLost then σ.refusedBy (tagPart r.tag) w else { σ with frees := σ.frees + 1 }
      | none => σ
    let fails : Option (Nat × Nat × Word) := match refusal with
      | some cause => some (cause, σ.homeWord (.remote (r.remote.getD 0)), BitVec.ofNat 64 (ptrAddr r.ptr))
      | none =>
        (σ.storeFailCell r.tag (localPart r.cells) r.nib).map fun f =>
          (f.1, ((σ.homeOf f.2).map σ.homeWord).getD 0, σ.physAddr f.2)
    match fails with
    | some (cause, home, tval) => ends (σ.storeRefused r cause home tval)
    | none => ends ((σ.storeCells r.tag (σ.storeBytes (localPart r.cells) r.nib)).storeAccepted r)

/-- The write-combining buffer drains 64 tc after its last store (R129). -/
def execWcLineDrain (tile : Nat) (σ : State) : Host.Outcome State Fault Refusal :=
  if σ.tc tile < (σ.tile tile).wcDue then .next (σ.postAt (σ.tile tile).wcDue (.wcLineDrain tile))
  else .next (σ.drainLines tile fun _ => true)

end Sys2Proof.Machine
end

