-- ==== Sys2Proof/Machine/Sync.lean ====
section
/-! DEFINITION. Fences, full/empty words, barrier objects, asynchronous copies, monitors, barrier wires, wakes
and timeouts (R89 to R92, R157 to R174, R232 to R235, R315, R339 to R348, R363 to R365, R386, R387). -/

namespace Sys2Proof.Machine

/-! ### What is in flight (R158 to R161) -/

/-- The operations on their way that the fabric holds: events and what waits at homes, packets, and messages that a
forwarding entry keeps (R95). -/
def State.inFlight (s : State) : List Instr :=
  s.flight.map (·.2) ++ s.packets.map (·.ev) ++ s.tiles.flatMap fun e => e.2.fwd.flatMap (·.queue)

/-- Operations that count as accesses on every path with a home in every scope (R159): messages, SPAWN,
REPLY and RED of thread `t` of a context. -/
def countsEverywhere (tag : Tag) (t : ThreadId) : Instr → Bool
  | .messageArrival m => m.ctag == tag
  | .undeliverableReturn m => m.ctag == tag
  | .spawnArrival m => m.caller == tag
  | .atomicAtHome r => !r.ret && r.tid == t
  | _ => false

/-- Whether a cell's home lies in a scope of a tile (R157). -/
def State.inScope (s : State) (tile : Nat) (sc : Scope) (c : Nat) : Bool :=
  match sc with
  | .thr => true
  | .tile => !isRemoteCell c && 2 ^ 63 ≤ c && !s.outsideStore tile c
  | .col => !isRemoteCell c && 2 ^ 63 ≤ c && (s.column tile).contains (cellBank c)
  | .dev => !isRemoteCell c
  | .fab => true

/-- Whether an access is one that a fence of thread `t` waits for. -/
def State.covers (s : State) (t : ThreadId) (sc : Scope) (mask : BitVec 8) (a : List ThreadId × Nat × List Nat) : Bool :=
  a.1.contains t && mask.getLsbD a.2.1 && a.2.2.any (s.inScope t.tile sc)

/-- Whether an operation on its way is one that a fence of thread `t` waits for. -/
def State.fenced (s : State) (t : ThreadId) (sc : Scope) (mask : BitVec 8) (e : Instr) : Bool :=
  countsEverywhere (s.tagOf t) t e || (accessesOf e).any (s.covers t sc mask)

/-- Whether a fence of thread `t` has something to wait for: an operation on its way, or an access of the matrix unit
or of a Kettle unit. -/
def State.fenceWaits (s : State) (t : ThreadId) (sc : Scope) (mask : BitVec 8) : Bool :=
  s.inFlight.any (s.fenced t sc mask) || s.unitAccesses.any (s.covers t sc mask)

/-- Whether a fence of thread `t` has something to wait for that was collected as racing: only the boundary performs it
(R109, R111). -/
def State.raceWaits (s : State) (t : ThreadId) (sc : Scope) (mask : BitVec 8) : Bool :=
  (s.part ((s.partOfTile t.tile).getD 0)).racing.any fun r => s.fenced t sc mask r.ev

/-- The wait of a fence or a release of the executing thread: held while an operation before it is on its way, then until the
boundary where one was collected as racing; none where it may go on. -/
def State.orderWaits (s : State) (sc : Scope) (mask : BitVec 8) : Option State :=
  if s.fenceWaits s.cur sc mask then some s.held
  else if s.raceWaits s.cur sc mask then some s.heldToBoundary
  else none

/-- The release of R160: the buffered lines of the thread leave, and it waits while an earlier access of
its is not performed; none where the operation may go on. -/
def State.releaseAt (s : State) (sc : Scope) : Option State :=
  (s.drainLines s.cur.tile fun l => l.threads.contains s.cur.slot).orderWaits sc 0xFF
def State.release (s : State) : Option State := s.releaseAt .dev

/-- FENCE (R159, R161, R195). -/
def execFence (sc : Scope) (mask : BitVec 8) (σ : State) : Host.Outcome State Fault Refusal :=
  let σ := if mask.getLsbD 5 then σ.drainLines σ.cur.tile fun l => l.threads.contains σ.cur.slot else σ
  match sc with
  | .thr =>
    match σ.logCheck with
    | some σ' => ends σ'
    | none =>
      let open_ (f : BitVec 8 × Nat) : Bool :=
        (σ.flight.any fun q => q.1 < f.2 && (accessesOf q.2).any fun a => a.1.contains σ.cur) ||
        σ.unitAccesses.any fun a => a.1.contains σ.cur
      .next (σ.modMe fun th => { th with fthr := (th.fthr ++ [(mask, σ.nextId)]).filter open_ }).retire
  | _ =>
    match σ.orderWaits sc mask with
    | some σ' => .next σ'
    | none =>
      let σ := if mask.getLsbD 4 then σ.modMyTile fun t => { t with roc := [] } else σ
      match σ.logCheck with
      | some σ' => ends σ'
      | none => .next σ.retire

/-! ### Racing requests (R111) -/

/-- A request whose thread waits for its result: collected in deterministic mode where it is racing, on
its way otherwise. R111 does not say for which levels: the model collects those of task-level threads, as R109 counts their
instructions only, while messages and SPAWN of every level are collected (assumption 109). -/
def State.ask (s : State) (racing : Bool) (ev : Instr) : State :=
  if s.det && racing && s.me.priv == .task then
    let n := s.myPart
    let r : Racing :=
      { tid := s.cur, lid := s.logicalId n s.cur.tile, slot := s.cur.slot, cnt := s.me.count, ev := ev }
    let s' := s.parkAt s.cur .racing
    if s'.me.st = .parked .racing then s'.modPart n fun p => { p with racing := p.racing ++ [r] } else s'
  else s.await.post ev

/-- Whether the thread of a request still waits for its result. -/
def State.expects (s : State) (t : ThreadId) : Bool :=
  let st := (s.thread t).st
  st == .awaiting || st == .parked .racing

/-! ### Full/empty words (R168, R169, R363, R364) -/

def State.full (s : State) (c : Nat) : Bool := SMap.get false s.fe (c / 8)

/-- The bit of a word changed: its waiters are woken. -/
def State.setFull (s : State) (c : Nat) (b : Bool) : State :=
  let s' := { s with fe := SMap.set false s.fe (c / 8) b }
  if s.full c = b then s' else s'.wakeIf fun _ (p : Park) => p == Park.fullEmpty c

/-- The waiters of a word that still stand at the instruction they parked at. -/
def State.feWaiters (s : State) (c : Nat) : List FeWait :=
  (SMap.get [] s.feq (c / 8)).filter fun w =>
    (s.thread w.tid).pc == w.pc && (s.thread w.tid).st != .free && (s.thread w.tid).st != .stopped

/-- Whether a thread's operation that needs the bit as given may go: the bit is so, and no earlier waiter
needs it so. -/
def State.feGo (s : State) (t : ThreadId) (c : Nat) (full : Bool) : Bool :=
  s.full c == full &&
  !(((s.feWaiters c).takeWhile fun w => w.tid != t).any fun w => w.full == full)

/-- A thread joins a word's waiters, or leaves them and the others are woken. -/
def State.feJoin (s : State) (t : ThreadId) (c : Nat) (full : Bool) : State :=
  let ws := s.feWaiters c
  let ws := if ws.any fun w => w.tid == t then ws
    else ws ++ [{ tid := t, pc := (s.thread t).pc, full := full }]
  let s' := s.parkAt t (.fullEmpty c)
  if (s'.thread t).st = .parked (.fullEmpty c) then { s' with feq := SMap.set [] s.feq (c / 8) ws } else s'
def State.feLeave (s : State) (t : ThreadId) (c : Nat) : State :=
  let ws := s.feWaiters c
  if ws.any fun w => w.tid == t then
    ({ s with feq := SMap.set [] s.feq (c / 8) (ws.filter fun w => w.tid != t) }).wakeIf
      fun _ (p : Park) => p == Park.fullEmpty c
  else s

def State.retireOf (s : State) (t : ThreadId) : State := s.retireTo t ((s.thread t).pc + 4)

/-- A full/empty operation at its home, in one instant. -/
def State.feAtHome (s : State) (r : FeReq) : State :=
  let c := r.cell
  let writes : Bool := match r.op with
    | .fill | .feempty | .fefull => true
    | _ => false
  let fault : Option Nat := if writes then s.capCheck r.tag (cellGranule c) else none
  match fault with
  | some cause => s.takeTrap r.tid false cause (s.granAddr (cellGranule c)) false
  | none =>
    match r.op with
    | .take | .readf =>
      if !s.feGo r.tid c true then s.feJoin r.tid c true
      else
        match s.consume r.tid (cellsFrom c 8) with
        | some s' => s'
        | none =>
          let s := (s.modThread r.tid (·.setG r.reg (s.read64 c))).feLeave r.tid c
          let s := if r.op = .take then s.setFull c false else s
          s.retireOf r.tid
    | .fill =>
      if !s.feGo r.tid c false then s.feJoin r.tid c false
      else (((s.write64 r.tag c r.data).feLeave r.tid c).setFull c true).retireOf r.tid
    | .feempty => (s.setFull c false).retireOf r.tid
    | .fefull => (s.setFull c true).retireOf r.tid
    | .feprobe => (s.modThread r.tid (·.setG r.reg (boolWord (s.full c)))).retireOf r.tid

/-- Why a path-0 page is no page of a tile bank (R169): this comes before its permissions. -/
def State.notBankPage (s : State) (p : Word) (ea : Int) : Bool :=
  ptrPath p = 0 &&
  (match s.entryFor s.cur .load ea.toNat with
    | some e => leafHome e.leaf ≠ 1
    | none => false)

/-- A full/empty instruction (R363). -/
def opFe (op : FeOp) (reg : GReg) (a : AReg) (off : BitVec 13) (data : Word) (σ : State) :
    Host.Outcome State Fault Refusal :=
  let p := σ.me.getA a
  let ea := offAddr p off 8
  let ep := epOf p ea
  let kind : AccKind := match op with
    | .fill | .feempty | .fefull => .store
    | _ => .load
  let r := (σ.access [0, 1, 2, 3] kind p true ea 8 8).get 8
  let inRange : Bool := match r with
    | .error (.trap c _) => c == cAccess || c == cRemoteLost
    | .error _ => false
    | .ok _ => true
  if inRange && σ.notBankPage p ea then ends (σ.trap cPathInvalid ep)
  else
    match r with
    | .error w => ends (σ.stop (ptrPath p) kind w)
    | .ok (near, cs) =>
      let c := cs.headD 0
      if kind = .store && σ.dieCopy && σ.outsideStore σ.cur.tile c then ends (σ.trap cRedundancy ep)
      else
        match if op = .fill then σ.blockBusy cs else none with
        | some b => ends (σ.trap cControlBlock (σ.physAddr (b / 256 * 256)))
        | none =>
          if σ.mustHold (ptrPath p) cs || (op = .fill && !near && σ.dirtyLacks [ea.toNat]) then
            .next σ.held
          else
            match if op = .fill || op = .fefull then σ.release else none with
            | some σ' => .next σ'
            | none =>
              let q : FeReq :=
                { tid := σ.cur, tag := σ.myTag, path := ptrPath p, ptr := ep, cell := c, op := op
                  reg := reg, data := data }
              let σ := if op = .fill && !near then σ.dirty σ.cur ea.toNat else σ
              -- one to another tile's word is racing, and the log records it (R111, R114), whatever its path
              let racing := cellBank c ≠ σ.cur.tile && (op = .take || op = .fill || op = .readf)
              if near && !(racing && σ.lateAtPoints σ.cur) then ends (σ.feAtHome q)
              else .next (σ.ask racing (.feAtHome q))

def execTake (d : GReg) (a : AReg) (off : BitVec 13) (σ : State) : Host.Outcome State Fault Refusal :=
  opFe .take d a off 0 σ
def execFill (r : GReg) (a : AReg) (off : BitVec 13) (σ : State) : Host.Outcome State Fault Refusal :=
  opFe .fill r a off (σ.g r) σ
def execReadf (d : GReg) (a : AReg) (off : BitVec 13) (σ : State) : Host.Outcome State Fault Refusal :=
  opFe .readf d a off 0 σ
def execFeempty (a : AReg) (off : BitVec 13) (σ : State) : Host.Outcome State Fault Refusal :=
  opFe .feempty 0 a off 0 σ
def execFefull (a : AReg) (off : BitVec 13) (σ : State) : Host.Outcome State Fault Refusal :=
  opFe .fefull 0 a off 0 σ
def execFeprobe (d : GReg) (a : AReg) (off : BitVec 13) (σ : State) : Host.Outcome State Fault Refusal :=
  opFe .feprobe d a off 0 σ

/-- A full/empty operation arrives at its home (R168). Where the log that is replayed has it park, it does, and is woken
again if its word lets it go on (R117). -/
def execFeAtHome (r : FeReq) (σ : State) : Host.Outcome State Fault Refusal :=
  if !σ.expects r.tid then .next σ
  else if σ.parkOwed r.tid then
    let full := r.op ≠ .fill
    let σ' := σ.feJoin r.tid r.cell full
    .next (if σ.feGo r.tid r.cell full then σ'.wake r.tid else σ')
  else ends (σ.feAtHome r)

/-! ### Barrier objects (R170, R171, R347) -/

def boPend (d : Word) : Int := sintOf (bits d 39 0) 40
def boArr (d : Word) : Nat := bits d 55 40
def boPh (d : Word) : Bool := bitAt d 56
def boErrp (d : Word) : Bool := bitAt d 57
def boErrc (d : Word) : Bool := bitAt d 58
def mkBo (pend : Int) (arr : Nat) (ph errp errc : Bool) : Word :=
  let b (x : Bool) (i : Nat) : Nat := if x then 2 ^ i else 0
  BitVec.ofNat 64 ((BitVec.ofInt 40 pend).toNat + arr % 2 ^ 16 * 2 ^ 40 + b ph 56 + b errp 57 + b errc 58)

/-- The object with the flip of R170 where nothing is expected any more; `init` is dword 1. -/
def boFlip (d init : Word) : Word :=
  if boPend d = 0 && boArr d = 0 then mkBo 0 (bits init 15 0) (!boPh d) false (boErrp d) else d

/-- An object's dword 0 written at the bank, its waiters woken where it flipped. -/
def State.setBo (s : State) (tag : Tag) (c : Nat) (d : Word) : State :=
  let ph := boPh (s.read64 c)
  let s := s.write64 tag c d
  if boPh d = ph then s else s.wakeIf fun _ (p : Park) => p == .barrierObject c

/-- A credit of an engine (R170). -/
def State.credit (s : State) (tag : Tag) (c n : Nat) (err : Bool) : State :=
  let d := s.read64 c
  s.setBo tag c (boFlip (mkBo (boPend d - n) (boArr d) (boPh d) (boErrp d || err) (boErrc d))
    (s.read64 (c + 8)))

def boReserved (d0 d1 : Word) : Bool := bits d0 63 59 ≠ 0 || bits d1 63 16 ≠ 0

/-- The result of BOWAIT and BOTEST. -/
def boResult (d : Word) : Word := boolWord (boPh d) ||| (boolWord (boErrc d) <<< 1)

/-- The checks of R347 common to the six, then `f` on the cell and the two dwords. -/
def opBo (a : AReg) (off : BitVec 13) (cap : Bool) (σ : State)
    (f : Nat → Word → Word → Host.Outcome State Fault Refusal) : Host.Outcome State Fault Refusal :=
  let p := σ.me.getA a
  let ea := offAddr p off 16
  let ep := epOf p ea
  match (σ.access [1, 2, 3] (if cap then .store else .load) p true ea 16 16).get 16 with
  | .error w => ends (σ.stop (ptrPath p) .load w)
  | .ok (_, cs) =>
    let c := cs.headD 0
    match if cap then σ.capCheck σ.myTag (cellGranule c) else none with
    | some cause => ends (σ.trap cause (σ.granAddr (cellGranule c)))
    | none =>
      let d0 := σ.read64 c
      let d1 := σ.read64 (c + 8)
      if boReserved d0 d1 then ends (σ.trap cInvalidOperand ep)
      else if σ.mustHold (ptrPath p) cs then .next σ.held
      else f c d0 d1

/-- BOINIT writes both dwords (R347): it is no flip, and wakes no one that waits for one (R170, R348). -/
def execBoinit (r : GReg) (a : AReg) (off : BitVec 13) (σ : State) : Host.Outcome State Fault Refusal :=
  opBo a off true σ fun c _ _ =>
    let n := bits (σ.g r) 15 0
    ends (σ.writeN σ.myTag c 16 ((mkBo 0 n false false false).toNat + n * 2 ^ 64)).retire

def execBoexpect (r : GReg) (a : AReg) (off : BitVec 13) (σ : State) : Host.Outcome State Fault Refusal :=
  opBo a off true σ fun c d0 d1 =>
    let x := boPend d0 + (σ.g r).toInt
    if x < -(2 ^ 39) || x ≥ 2 ^ 39 then ends (σ.trap cInvalidOperand (σ.g r))
    else
      ends (σ.setBo σ.myTag c (boFlip (mkBo x (boArr d0) (boPh d0) (boErrp d0) (boErrc d0)) d1)).retire

def execBoarrive (a : AReg) (off : BitVec 13) (σ : State) : Host.Outcome State Fault Refusal :=
  opBo a off true σ fun c d0 d1 =>
    if boArr d0 = 0 then
      ends (σ.trap cInvalidOperand (epOf (σ.me.getA a) (offAddr (σ.me.getA a) off 16)))
    else
      match σ.release with
      | some σ' => .next σ'
      | none =>
        ends (σ.setBo σ.myTag c
          (boFlip (mkBo (boPend d0) (boArr d0 - 1) (boPh d0) (boErrp d0) (boErrc d0)) d1)).retire

/-- A result read from an object's dword 0. -/
def boRead (d : GReg) (c : Nat) (v : Word) (σ : State) : Host.Outcome State Fault Refusal :=
  match σ.consume σ.cur (cellsFrom c 8) with
  | some σ' => ends σ'
  | none => ends (σ.setG d v).retire

def execBowait (d : GReg) (a : AReg) (off : BitVec 13) (σ : State) : Host.Outcome State Fault Refusal :=
  opBo a off false σ fun c d0 _ =>
    if boPh d0 != bitAt (σ.g d) 0 then boRead d c (boResult d0) σ
    else .next (σ.park (.barrierObject c))
def execBotest (d : GReg) (a : AReg) (off : BitVec 13) (σ : State) : Host.Outcome State Fault Refusal :=
  opBo a off false σ fun c d0 _ => boRead d c (boResult d0) σ
def execBostat (d : GReg) (a : AReg) (off : BitVec 13) (σ : State) : Host.Outcome State Fault Refusal :=
  opBo a off false σ fun c d0 _ => boRead d c d0 σ

/-! ### Asynchronous copies (R172, R173, R339) -/

/-- The cells of one row on a path: a bank range, or pages walked for. -/
def State.rowCells (s : State) (kind : AccKind) (p : Word) (addr : Int) (n : Nat) : Except Why (List Nat) :=
  let path := ptrPath p
  if addr < 0 || addr + n > 2 ^ 51 then .error (.trap cAddressRange p)
  else if 1 ≤ path && path ≤ 3 then
    match s.reachBank s.cur p path addr.toNat n 1 (accWrites kind) with
    | .error (.trap c _) => .error (.trap c p)
    | r => r
  else
    match s.reachWalk s.myTag s.me.priv kind true (n / 4096 + 2) addr.toNat n with
    | .ok cs =>
      -- a page of another home than HBM on path 5: the trap value is the address (R129)
      match if path = 5 then cs.findIdx? (fun c => !isHbmCell c) else none with
      | some i => .error (.trap cPathInvalid (BitVec.ofNat 64 (addr.toNat + i)))
      | none => .ok cs
    | e => e

/-- What a row of a copy's end breaks before its pages are translated: address-range or bank-absent (R339). -/
def State.rowStop (s : State) (kind : AccKind) (p : Word) (addr : Int) (n : Nat) : Option Nat :=
  let path := ptrPath p
  if addr < 0 || addr + n > 2 ^ 51 then some cAddressRange
  else if 1 ≤ path && path ≤ 3 then
    match s.reachBank s.cur p path addr.toNat n 1 (accWrites kind) with
    | .error (.trap c _) => some c
    | _ => none
  else none

/-- Whether some row of a copy's end breaks a cause. -/
def State.rowsBreak (s : State) (cause : Nat) (kind : AccKind) (p : Word) (stride : Int) (rowb nrow : Nat) : Bool :=
  (List.range nrow).any fun (r : Nat) => s.rowStop kind p ((ptrAddr p : Int) + (r : Int) * stride) rowb == some cause

/-- The cells of every row of a copy's end. -/
def State.rowsCells (s : State) (kind : AccKind) (p : Word) (stride : Int) (rowb nrow : Nat) :
    Except Why (List (List Nat)) :=
  (List.range nrow).foldl (fun acc (r : Nat) =>
    match acc with
    | .error e => .error e
    | .ok rows =>
      match s.rowCells kind p ((ptrAddr p : Int) + (r : Int) * stride) rowb with
      | .error e => .error e
      | .ok cs => .ok (rows ++ [cs])) (.ok [])

/-- The chunks of a row: at most 256 bytes, within one 256-byte line of the destination (R339). -/
def chunksOf : List Nat → List Nat → List (List Nat × List Nat)
  | x :: xs, d :: ds =>
    match chunksOf xs ds with
    | (cx, cd) :: rest =>
      if (cd.headD 0) / 256 = d / 256 then (x :: cx, d :: cd) :: rest else ([x], [d]) :: (cx, cd) :: rest
    | [] => [([x], [d])]
  | _, _ => []

/-- ACOPY: every check, then the release, the expectation and the queue (R339). -/
def execAcopy (ad as_ ah ab : AReg) (exp : Bool) (σ : State) : Host.Outcome State Fault Refusal :=
  let d := σ.me.getA ad
  let r := σ.me.getA as_
  let h := σ.me.getA ah
  let b := σ.me.getA ab
  let bad (paths : List Nat) (p : Word) : Bool := !paths.contains (ptrPath p)
  if bad [0, 1, 2, 3, 5] d then ends (σ.trap cPathInvalid d)
  else if bad [0, 1, 2, 3, 4, 5] r then ends (σ.trap cPathInvalid r)
  else if bad [0, 1, 2, 3] h then ends (σ.trap cPathInvalid h)
  else if bad [1, 2, 3] b then ends (σ.trap cPathInvalid b)
  else if ptrAddr d % 8 ≠ 0 then ends (σ.trap cMisaligned d)
  else if ptrAddr r % 8 ≠ 0 then ends (σ.trap cMisaligned r)
  else if ptrAddr h % 32 ≠ 0 then ends (σ.trap cMisaligned h)
  else if ptrAddr b % 16 ≠ 0 then ends (σ.trap cMisaligned b)
  else
    match (σ.access [0, 1, 2, 3] .load h true (ptrAddr h) 32 32).get 32 with
    | .error w => ends (σ.stop (ptrPath h) .load w)
    | .ok (_, hc) =>
      match σ.readNow (ptrPath h) (ptrAddr h + ·) hc with
      | .error σ' => ends σ'
      | .ok (hb, σ) =>
      let rec_ := dwordsOf 4 hb
      let w0 := rec_.getD 0 0
      let w1 := rec_.getD 1 0
      let w2 := rec_.getD 2 0
      let rowb := bits w0 23 0
      let nrow := bits w0 47 24
      let sstr := sintOf (bits w1 39 0) 40
      let dstr := sintOf (bits w2 39 0) 40
      let sgn (w : Word) : Bool := sintOf (bits w 39 0) 40 == w.toInt
      if sstr % 8 ≠ 0 then ends (σ.trap cMisaligned r)
      else if dstr % 8 ≠ 0 then ends (σ.trap cMisaligned d)
      else if bits w0 63 48 ≠ 0 || !sgn w1 || !sgn w2 || rec_.getD 3 0 ≠ 0 || rowb % 8 ≠ 0 || rowb < 8 ||
          nrow < 1 || rowb * nrow > 2 ^ 32 then ends (σ.trap cInvalidOperand h)
      else
        let breaks (cause : Nat) : Option Word :=
          if σ.rowsBreak cause .load r sstr rowb nrow then some r
          else if σ.rowsBreak cause .store d dstr rowb nrow then some d
          else if σ.rowStop .load b (ptrAddr b) 16 == some cause then some b
          else none
        match breaks cAddressRange, breaks cBankAbsent with
        | some p, _ => ends (σ.trap cAddressRange p)
        | none, some p => ends (σ.trap cBankAbsent p)
        | none, none =>
        match (σ.access [1, 2, 3] .load b true (ptrAddr b) 16 16).get 16 with
        | .error w => ends (σ.stop (ptrPath b) .load w)
        | .ok (_, bc) =>
          let bo := bc.headD 0
          let o0 := σ.read64 bo
          let o1 := σ.read64 (bo + 8)
          let total := rowb * nrow
          if boReserved o0 o1 || (exp && boPend o0 + (total : Int) ≥ 2 ^ 39) then
            ends (σ.trap cInvalidOperand b)
          else
            match σ.rowsCells .load r sstr rowb nrow with
            | .error w => ends (σ.stop (ptrPath r) .load w)
            | .ok srcs =>
              match σ.rowsCells .store d dstr rowb nrow with
              | .error w => ends (σ.stop (ptrPath d) .store w)
              | .ok dsts =>
                let dcs := dsts.flatten
                let grs := granulesOf (dcs.filter fun c => !isRemoteCell c) ++
                  (if exp then [cellGranule bo] else [])
                if σ.dieCopy && dcs.any (σ.outsideStore σ.cur.tile) then ends (σ.trap cRedundancy d)
                else
                  match σ.capFail σ.myTag grs with
                  | some (cause, g) => ends (σ.trap cause (σ.granAddr g))
                  | none =>
                    if ptrPath r = ptrPath d && srcs.flatten.any dcs.contains then
                      ends (σ.trap cInvalidOperand d)
                    else if σ.myTile.engQ.length ≥ 16 then .next σ.held
                    else
                      match σ.release with
                      | some σ' => .next σ'
                      | none =>
                        let σ := if exp then
                            σ.setBo σ.myTag bo
                              (boFlip (mkBo (boPend o0 + total) (boArr o0) (boPh o0) (boErrp o0) (boErrc o0)) o1)
                          else σ
                        let cp : Copy :=
                          { tag := σ.myTag, bo := bo, lost := false, active := false
                            chunks := (srcs.zip dsts).flatMap fun sd => chunksOf sd.1 sd.2 }
                        let σ := σ.modMyTile fun t => { t with engQ := t.engQ ++ [cp] }
                        ends (σ.postOnce (.acopyStart σ.cur.tile)).retire

/-- The engine starts the copy at the head of its queue (R173). -/
def execAcopyStart (tile : Nat) (σ : State) : Host.Outcome State Fault Refusal :=
  match (σ.tile tile).engQ with
  | c :: cs =>
    if c.active then .next σ
    else
      .next ((σ.modTile tile fun t => { t with engQ := { c with active := true } :: cs }).post
        (.acopyChunkLand tile))
  | [] => .next σ

/-- One chunk's bytes at the destination: the line that poisoned data goes to is written poisoned (R173), and what a
lost window held does not land. -/
def State.landChunk (s : State) (tag : Tag) (src dst : List Nat) : State :=
  let pois := s.poisoned src
  let bytes := src.map fun c =>
    if isRemoteCell c then BitVec.ofNat 8 (Config.freeWord (s.frees + c % 256)).toNat else s.byte c
  let s := if src.any isRemoteCell then { s with frees := s.frees + 256 } else s
  let local_ := (dst.zip bytes).filter fun cb => !isRemoteCell cb.1
  let s := src.foldl (fun s c => if isRemoteCell c then s else s.touch c) s
  let lines := (local_.map fun cb => cb.1 / 256 * 256).eraseDups
  let words := lines.flatMap fun l => (List.range 32).map fun i => l + 8 * i
  if pois then s.storePoisoned tag local_ words else s.storeCells tag local_

/-- One chunk of a copy lands, and credits the object with release (R173). What goes through a window that is lost or
revoked, or whose request the other device refuses, does not land and is credited with ERRP (R150, R247, R249). -/
def State.chunkLands (s : State) (c : Copy) (src dst : List Nat) : State :=
  let n := tagPart c.tag
  match ((src ++ dst).filter isRemoteCell).map remoteWin with
  | [] => (s.landChunk c.tag src dst).credit c.tag c.bo src.length false
  | w :: ws =>
    let gone := (w :: ws).any fun w => lostSt (s.importSt n w)
    if gone || Config.remoteRefuses s.frees then (s.refusedBy n w).credit c.tag c.bo src.length true
    else ({ s with frees := s.frees + 1 }.landChunk c.tag src dst).credit c.tag c.bo src.length false

/-- A chunk lands, any of those still to land. -/
def execAcopyChunkLand (tile : Nat) (σ : State) : Host.Outcome State Fault Refusal :=
  match (σ.tile tile).engQ with
  | [] => .next σ
  | c :: cs =>
    if !c.active then .next σ
    else
      let (w, σ) := σ.free
      let i := w.toNat % Nat.max 1 c.chunks.length
      match c.chunks[i]? with
      | none => .next (σ.modTile tile fun t => { t with engQ := cs })
      | some (src, dst) =>
        let σ := σ.chunkLands c src dst
        let rest := c.chunks.eraseIdx i
        if rest.isEmpty then
          let σ := σ.modTile tile fun t => { t with engQ := cs }
          ends (if cs.isEmpty then σ else σ.post (.acopyStart tile))
        else
          ends ((σ.modTile tile fun t => { t with engQ := { c with chunks := rest } :: cs }).post
            (.acopyChunkLand tile))

/-! ### Monitors (R315, R386, R387) -/

/-- The monitor entries that a home holds, 256 at most. -/
def State.armedAt (s : State) (h : Home) : Nat :=
  (s.allThreads.map fun t => ((s.thread t).mons.filter fun m => !m.gone && s.homeOf (m.line * 256) == some h).length).sum

def execMonarm (d r : GReg) (σ : State) : Host.Outcome State Fault Refusal :=
  let p := σ.g r
  match (σ.access [0, 1, 2, 3] .load p true (ptrAddr p) 1 1).get 1 with
  | .error (.trap c v) =>
    -- a remote page is path-invalid whether or not its window is open
    ends (σ.trap (if c = cRemoteLost then cPathInvalid else c) (if c = cRemoteLost then p else v))
  | .error w => ends (σ.stop (ptrPath p) .load w)
  | .ok (_, cs) =>
    let c := cs.headD 0
    if isRemoteCell c then ends (σ.trap cPathInvalid p)
    else
      match σ.homeOf c with
      | none => ends (σ.trap cPathInvalid p)
      | some h =>
        let ms := σ.me.mons.filter fun m => !m.gone
        let line := c / 256
        if ms.any fun m => m.line == line then
          .next ((σ.modMe fun th => { th with mons := th.mons.map fun m =>
              if m.line == line && !m.gone then { m with hit := false } else m }).setG d (BitVec.ofNat 64 ms.length)).retire
        else if ms.length ≥ 4 || σ.armedAt h ≥ 256 then .next (σ.setG d 0).retire
        else
          .next ((σ.modMe fun th => { th with mons := th.mons ++ [{ line := line, hit := false, gone := false }] }).setG d
            (BitVec.ofNat 64 (ms.length + 1))).retire

/-- The written bits in arming order. -/
def monBits : List Monitor → Nat
  | [] => 0
  | m :: ms => (if m.hit then 1 else 0) + 2 * monBits ms

def execMonwait (d r : GReg) (σ : State) : Host.Outcome State Fault Refusal :=
  let b := monBits σ.me.mons
  if b ≠ 0 then
    .next ((σ.modMe fun th => { th with mons := (th.mons.filter fun m => !m.gone).map fun m => { m with hit := false } }).setG d
      (BitVec.ofNat 64 b)).retire
  else if σ.me.expired then .next (σ.setG d 0).retire
  else if σ.g r = 0 then .next (σ.park .monitor)
  else .next (σ.parkFor .monitor (σ.g r).toNat)

def execMonclr (σ : State) : Host.Outcome State Fault Refusal :=
  .next (σ.modMe fun th => { th with mons := [] }).retire

/-! ### Barrier wires (R232 to R235, R345, R346) -/

def barIdx : BarKind → Nat
  | .x => 0 | .y => 1 | .z => 2 | .plane => 3 | .part => 4
def barTc : BarKind → Nat
  | .x => 12 | .y => 12 | .z => 12 | .plane => 24 | .part => 40

/-- The participants of a wire of a tile (R232): the live compute tiles; absent positions count as arrived. -/
def State.barGroup (s : State) (tile : Nat) (k : BarKind) : List Nat :=
  let n := (s.partOfTile tile).getD 0
  (s.liveTiles n).filter fun t =>
    match k with
    | .x => tileY t == tileY tile && tileZ t == tileZ tile
    | .y => tileX t == tileX tile && tileZ t == tileZ tile
    | .z => tileX t == tileX tile && tileY t == tileY tile
    | .plane => tileZ t == tileZ tile
    | .part => true

/-- The completion of a phase at every participant once all have arrived (R232). -/
def State.barCheck (s : State) (tile : Nat) (k : BarKind) (p : Bool) : State :=
  let g := s.barGroup tile k
  let i := barIdx k
  if g.all fun t => (s.tile t).barA.getLsbD i == p then
    g.foldl (fun s t =>
      if (s.tile t).barD.getLsbD i == p then s else s.postIn (barTc k) (.barrierCompletion t k)) s
  else s

/-- Whether a task-level thread may use the wires (R233, R345). -/
def State.wiresOk (s : State) : Bool :=
  let b := (s.part s.myPart).barctl
  s.me.priv != .task || (bitAt b 13 && bits b 12 0 == (s.ctx s.myTag).root)

/-- The phase logic of R234: complete, or arrive where the tile has not and park. -/
def opBar (k : BarKind) (phase : Word) (done : State → State) (parks : State → Park → State) (σ : State) :
    State :=
  let i := barIdx k
  let p := bitAt phase 0
  if !σ.wiresOk then σ.trap cCapability 0
  else if σ.myTile.barD.getLsbD i == p then done σ
  else if σ.myTile.barA.getLsbD i == p then parks σ (.wire k p)
  else
    let σ := (σ.modMyTile fun t => { t with barA := setBit t.barA i p }).barCheck σ.cur.tile k p
    parks σ (.wire k p)

def execBarw (k : BarKind) (r : GReg) (σ : State) : Host.Outcome State Fault Refusal :=
  if σ.me.expired then .next σ.retire
  else .next (opBar k (σ.g r) State.retire State.park σ)

def execBarwt (k : BarKind) (d r t : GReg) (σ : State) : Host.Outcome State Fault Refusal :=
  let out (v : Word) (s : State) : State := (s.setG d v).retire
  let n := (σ.g t).toNat
  let parks (s : State) (p : Park) : State := if n = 0 then out 1 s else s.parkFor p n
  if σ.me.outcome.isSome then .next (out 1 σ)
  else if σ.me.expired then
    -- a wake in the same tc wins over the expiry (R91)
    .next (if σ.myTile.barD.getLsbD (barIdx k) == bitAt (σ.g r) 0 && σ.wiresOk then out 0 σ else out 1 σ)
  else .next (opBar k (σ.g r) (out 0) parks σ)

/-- A phase completes at a participant (R234). -/
def execBarrierCompletion (tile : Nat) (kind : BarKind) (σ : State) : Host.Outcome State Fault Refusal :=
  let i := barIdx kind
  let t := σ.tile tile
  let p := t.barA.getLsbD i
  let σ := σ.modTile tile fun t => { t with barD := setBit t.barD i p }
  .next (σ.wakeIf fun u c => u.tile == tile && c == .wire kind p)

/-! ### CBSYNC (R174, R352) -/

/-- The lines whose blocks the engines hold on account of a context: its KCMDs, its COLLs, and the streams it
has published or subscribed to (R352). -/
def State.blocksOf (s : State) (tag : Tag) : List Nat :=
  let p := s.part (tagPart tag)
  p.colls.flatMap (fun c => (c.parts.filter fun q => q.tag == tag).map fun q => q.block / 256) ++
  (p.streams.filter fun st => !st.broken && (st.pub == some tag || st.joined.contains tag)).map (fun st => st.desc / 256) ++
  s.kettles.flatMap fun e => (e.2.queue.filter fun k => k.tag == tag).map fun k => k.block / 256

def execCbsync (r : GReg) (σ : State) : Host.Outcome State Fault Refusal :=
  let p := σ.g r
  let go (lines : List Nat) : Host.Outcome State Fault Refusal :=
    match σ.release with
    | some σ' => .next σ'
    | none => if lines.isEmpty then .next σ.retire else .next σ.held
  if p = 0 then go (σ.blocksOf σ.myTag)
  else
    let c := σ.access [0, 1, 2, 3] .graph p true (ptrAddr p) 1 1
    match c with
    | .cells _ cs => go (σ.heldLines.filter fun l => l == cs.headD 0 / 256)
    | .remote _ _ => go []
    | .stop (.trap cause v) =>
      -- no permission is needed
      if cause = cAccess || cause = cRemoteLost then
        match σ.entryFor σ.cur .graph (ptrAddr p) with
        | some e => go (σ.heldLines.filter fun l => leafCell e (ptrAddr p) == some (l * 256 + ptrAddr p % 256))
        | none => ends (σ.trap cause v)
      else ends (σ.trap cause v)
    | .stop w => ends (σ.stop (ptrPath p) .load w)

/-! ### Wakes and timeouts (R89, R91) -/

/-- A wake is applied to a parked thread, which reissues; one that declares its page fault failed is
page-fault-unserved (R147). -/
def State.applyWake (s : State) (t : ThreadId) : State :=
  match (s.thread t).st, (s.thread t).failed with
  | .parked _, some va =>
    (s.modThread t fun th => { th with st := .ready, failed := none }).takeTrap t false cPageUnserved va false
  | .parked _, none => s.modThread t fun th => { th with st := .ready }
  | _, _ => s

/-- A wake reaches a parked thread. -/
def execWakeArrival (t : ThreadId) (σ : State) : Host.Outcome State Fault Refusal := .next (σ.applyWake t)

/-- A wait's count expires: the instruction reissues and completes with its timed-out result. Of a thread that has
been woken and has not reissued, the count stands until it has (R91). -/
def execWaitTimeout (t : ThreadId) (σ : State) : Host.Outcome State Fault Refusal :=
  let th := σ.thread t
  match th.st, th.expiry with
  | .parked _, some e =>
    if σ.tc t.tile ≥ e then .next (σ.setThread t { th with st := .ready, expired := true })
    else .next (σ.postAt e (.waitTimeout t))
  | .ready, some e | .held, some e | .awaiting, some e =>
    .next (σ.postAt (Nat.max e (σ.tc t.tile + 1)) (.waitTimeout t))
  | _, _ => .next σ

end Sys2Proof.Machine
end

