-- ==== Sys2Proof/Machine/Streams.lean ====
section
/-! DEFINITION. The streams of the Infuser and the collectives as the floor die keeps them: what leaves, ends or
breaks one (R236, R237, R239, R242). -/

namespace Sys2Proof.Machine

def Tile.sub (t : Tile) (x : Nat) : Sub := SMap.get Sub.zero t.subs x
def Tile.setSub (t : Tile) (x : Nat) (b : Sub) : Tile := { t with subs := SMap.set Sub.zero t.subs x b }

/-- The stream of a partition that a descriptor names. -/
def State.stream? (s : State) (n desc : Nat) : Option Stream := (s.part n).streams.find? fun st => st.desc == desc
def State.modStream (s : State) (n desc : Nat) (f : Stream → Stream) : State :=
  s.modPart n fun p => { p with streams := p.streams.map fun st => if st.desc = desc then f st else st }
def State.dropStream (s : State) (n desc : Nat) : State :=
  s.modPart n fun p => { p with streams := p.streams.filter fun st => st.desc ≠ desc }

/-- The head of a tile's matrix queue looks again at what it waits for. -/
def State.pumpMatrix (s : State) (tile : Nat) : State :=
  if (s.tile tile).mq.isEmpty then s else s.postOnce (.matrixCompletion tile)

/-- Everyone who may wait on a stream looks again. -/
def State.pokeStream (s : State) (st : Stream) : State :=
  let s := (st.subs.map (·.1)).eraseDups.foldl State.pumpMatrix s
  match st.pub.bind s.tileOfCtx with
  | some t => s.pumpMatrix t
  | none => s

/-- A stream ends when every subscriber has released all its tiles (R236). -/
def State.streamCheck (s : State) (n desc : Nat) : State :=
  match s.stream? n desc with
  | none => s
  | some st =>
    if !st.broken && st.ntile ≠ 0 && st.next ≥ st.ntile && st.joins ≥ st.nsub &&
        st.subs.all fun b => ((s.tile b.1).sub b.2).released ≥ st.ntile
    then (s.dropStream n desc).pokeStream st
    else s.pokeStream st

/-- A subscription is freed: deliveries to it will be dropped, and the last subscriber to leave ends the stream
(R236, R389). -/
def State.leaveStream (s : State) (n tile x : Nat) : State :=
  let b := (s.tile tile).sub x
  let s := s.modTile tile fun t => t.setSub x Sub.zero
  match s.stream? n b.stream with
  | none => s
  | some st =>
    let subs := st.subs.filter fun y => y ≠ (tile, x)
    if subs.isEmpty && !st.broken then (s.dropStream n b.stream).pokeStream st
    else (s.modStream n b.stream fun st => { st with subs := subs }).streamCheck n b.stream

/-- Every subscription of a tile is freed. -/
def State.leaveStreams (s : State) (n tile : Nat) : State :=
  ((s.tile tile).subs.map (·.1)).foldl (fun s x => s.leaveStream n tile x) s

/-- The streams that a context publishes, or that the task of its tile subscribes to, break (R239). -/
def State.breakStreams (s : State) (tag : Tag) : State :=
  let n := tagPart tag
  let tile := s.tileOfCtx tag
  let hit := (s.part n).streams.filter fun st => !st.broken && (st.pub == some tag ||
    (match tile with
      | some t => st.subs.any fun b => b.1 == t
      | none => false))
  hit.foldl (fun s st => (s.modStream n st.desc fun x => { x with broken := true }).pokeStream st) s

/-- Collectives lose the participants whose PLIST entry `f` accepts, and those end so too of which a participant's buffer
lies in a lost window (R242, R249). -/
def State.loseColls (s : State) (n : Nat) (root : Option Tag) (f : Word → Bool) (win : Nat → Bool) : State :=
  let far (q : CollPart) : Bool := (q.src ++ q.dst).any fun c => isRemoteCell c && win (remoteWin c)
  let hit (c : Collective) : Bool := (root.all fun r => c.root == r) && (c.plist.any f || c.parts.any far)
  let ids := ((s.part n).colls.filter hit).map (·.id)
  let lose (c : Collective) : Collective :=
    if hit c then
      { c with gone := (c.gone ++ (c.plist.zipIdx.filter fun e => f e.1).map (·.2)).eraseDups
               status := if c.status = 0 then 2 else c.status }
    else c
  let s := s.modPart n fun p => { p with colls := p.colls.map lose }
  ids.foldl (fun s i => s.postOnce (.collCompletion i)) s

end Sys2Proof.Machine
end

