-- ==== Sys2Proof/Machine/Atomic.lean ====
section
/-! DEFINITION. Integer atomics and RED, and writer capabilities (R162 to R167, R190 to R192, R343, R344, R350,
R351, R398, R399). -/

namespace Sys2Proof.Machine

/-! ### Guest slots (R40, R190) -/

/-- The guests at a home by slot, and what waits there: five slots of a tile, 11 to 15, or of a bank controller; sixteen
contexts of a Kettle unit. -/
def State.guestsAt (s : State) (h : Home) : List (Nat × GuestOp) × List GuestOp :=
  match h with
  | .bank t => ((s.tile t).guests, (s.tile t).guestQ)
  | .kettle u => ((s.kettle u).guests, (s.kettle u).waitQ)
  | .remote _ => ([], [])
def State.setGuests (s : State) (h : Home) (g : List (Nat × GuestOp)) (q : List GuestOp) : State :=
  match h with
  | .bank t => s.modTile t fun ti => { ti with guests := g, guestQ := q }
  | .kettle u => s.modKettle u fun k => { k with guests := g, waitQ := q }
  | .remote _ => s

/-- The slots of a home's guests. -/
def guestSlots : Home → List Nat
  | .bank _ => List.range' 11 5
  | .kettle _ => List.range 16
  | .remote _ => []
/-- How many guests a home's guest queue holds. -/
def guestWait : Home → Nat
  | .bank _ => 8
  | .kettle _ => 32
  | .remote _ => 0
def State.freeGuest (s : State) (h : Home) : Option Nat :=
  (guestSlots h).find? fun i => !(s.guestsAt h).1.any fun e => e.1 == i

/-- The number that GUEST_ADMIT carries for a home: the tile or spill place, or 2^32 plus the Kettle unit. -/
def homeNumber : Home → Nat
  | .bank t => t
  | .kettle u => 2 ^ 32 + u
  | .remote w => 2 ^ 33 + w
def homeOfNumber (n : Nat) : Home := if n < 2 ^ 32 then .bank n else .kettle (n - 2 ^ 32)

/-- A guest takes a slot. At a tile it runs when the barrel comes to it (R43), in a Kettle unit in its own time. -/
def State.seatGuest (s : State) (h : Home) (i : Nat) (r : GuestOp) : State :=
  let s := s.setGuests h ((s.guestsAt h).1 ++ [(i, r)]) (s.guestsAt h).2
  match h with
  | .kettle _ => s.post (.atomicAtHome r)
  | _ => s

/-- A guest operation is sent, with a number of its own: it takes a slot at its home, or waits in arrival order. -/
def State.sendGuest (s0 : State) (r0 : GuestOp) : State :=
  let r := { r0 with ord := s0.nextId }
  let s := { s0 with nextId := s0.nextId + 1 }
  match r.home with
  | .remote _ => s.post (.atomicAtHome r)
  | h =>
    let (g, q) := s.guestsAt h
    match s.freeGuest h with
    | some i => if q.isEmpty then s.seatGuest h i r else s.setGuests h g (q ++ [r])
    | none => s.setGuests h g (q ++ [r])

/-- A guest operation has ended: its slot is free for the next that waits. -/
def State.endGuest (s : State) (r : GuestOp) : State :=
  let (g, q) := s.guestsAt r.home
  let s := s.setGuests r.home (dropFirst (·.2 == r) g) q
  if q.isEmpty then s else s.post (.guestAdmit (homeNumber r.home))

/-- A waiting guest gains a free slot (R40). -/
def execGuestAdmit (tile : Nat) (σ : State) : Host.Outcome State Fault Refusal :=
  let h := homeOfNumber tile
  let (g, q) := σ.guestsAt h
  match q with
  | r :: rest =>
    match σ.freeGuest h with
    | some i => .next ((σ.setGuests h g rest).seatGuest h i r)
    | none => .next σ
  | [] => .next σ

/-! ### The operation (R192) -/

/-- The new value of a w-bit location. -/
def atomNew (op : AtomOp) (w x v : Nat) : Nat :=
  let lt (a b : Nat) : Bool := decide (sintOf a w < sintOf b w)
  (match op with
    | .add => x + v
    | .and => x &&& v
    | .or => x ||| v
    | .xor => x ^^^ v
    | .min => if lt v x then v else x
    | .max => if lt x v then v else x
    | .minu => if v < x then v else x
    | .maxu => if x < v then v else x
    | .swap => v) % 2 ^ w

/-- Admission by the region's mode (R164): the cause a guest operation of a context is refused with. -/
def State.guestCheck (s : State) (tag : Tag) (g : Nat) : Option Nat :=
  let r := s.cap g
  match capMode r with
  | 0 => if capHolder r = tag && !capPend r then none else some cCapability
  | 1 =>
    if ownerKey (capHolder r) = ownerKey tag && capRoot r = (s.ctx tag).root then none else some cCapability
  | _ => some cCapMode

/-- What the home does with a guest operation, in one instant, and its answer. -/
def State.guestDo (s : State) (r : GuestOp) : State × Answer :=
  let cells := cellsFrom r.cell r.bytes
  let s := s.touch r.cell
  match s.guestCheck r.tag (cellGranule r.cell) with
  | some c => (s, .fault c (s.granAddr (cellGranule r.cell)))
  | none =>
    match s.firstPoison cells with
    | some c => (s, .poison (s.poisonOwner c) (s.physAddr (c / 8 * 8)))
    | none =>
      let x := s.readN r.cell r.bytes
      let w := 8 * r.bytes
      let mk (v : Nat) : State := s.writeN r.tag r.cell r.bytes v
      match r.fn with
      | .amo op => (mk (atomNew op w x (r.x0.toNat % 2 ^ w)), .value (sext x w))
      | .cas => (if x = r.e0.toNat % 2 ^ w then mk (r.x0.toNat % 2 ^ w) else s, .value (sext x w))
      | .cas128 =>
        (if x = r.e0.toNat + r.e1.toNat * 2 ^ 64 then mk (r.x0.toNat + r.x1.toNat * 2 ^ 64) else s,
          .pair (BitVec.ofNat 64 x) (BitVec.ofNat 64 (x / 2 ^ 64)))

/-- A fault log entry for a posted guest operation (R193). -/
def State.guestLog (s : State) (r : GuestOp) (cause : Nat) : State :=
  s.flog r.tag { ptr := r.ptr, insn := r.insn, cause := cause, opnd := r.x0, ticket := 0, home := s.homeWord r.home }

/-- What a posted RED's failure does (R192, R399). -/
def State.redFails (s : State) (r : GuestOp) (a : Answer) : State :=
  match a with
  | .fault c _ => s.guestLog r c
  | .poison owner addr =>
    let s := s.contain owner 0x40 (s.strikeCell (cellOfPhys addr))
    if owner = r.tag then s else s.guestLog r cPoisonedData
  | _ => s

/-- An answer reaches the issuing thread, which still waits for it (R180, R344). -/
def State.answered (s : State) (t : ThreadId) (dest : GReg) (ret : Bool) (a : Answer) : State :=
  match a with
  | .value v => (s.modThread t fun th => if ret then th.setG dest v else th).retireOf t
  | .pair lo hi => (s.modThread t fun th => (th.setG dest lo).setG (dest + 1) hi).retireOf t
  | .applied v f => (s.modThread t fun th => if ret then (th.setG dest v).raise f else th).retireOf t
  | .retire => s.retireOf t
  | .refused h => s.parkAt t (.ticket h)
  | .fault c v => s.takeTrap t false c v false
  | .poison o v => s.eatPoison t o v

/-- The home of an atomic or a ticketed cell; none where the stack has no live unit (R276). -/
def State.cellHome (s : State) (c : Nat) : Option Home :=
  if isRemoteCell c then some (.remote (remoteWin c)) else s.homeOf c

/-- The release that scopes 1 to 4 give (R191). -/
def State.releaseFor (s : State) (sc : Scope) : Option State :=
  match sc with
  | .thr => none
  | _ => s.releaseAt sc

/-- AMO, CAS, CAS128 and RED up to the home (R343, R398). -/
def opAtomic (a : AReg) (u : Nat) (sc : Scope) (fn : GuestFn) (x0 x1 e0 e1 : Word) (ret : Bool) (dest : GReg)
    (insn : InsnWord) (σ : State) : Host.Outcome State Fault Refusal :=
  let p := σ.me.getA a
  let path := ptrPath p
  match (σ.access [0, 1, 2, 3] .atomic p true (ptrAddr p) u u).get u with
  | .error w => ends (σ.stop path .atomic w)
  | .ok (near, cs) =>
    let c := cs.headD 0
    if σ.dieCopy && σ.outsideStore σ.cur.tile c then ends (σ.trap cRedundancy p)
    else
      match σ.cellHome c with
      | none =>
        if ret || σ.det then ends (σ.trap cPathInvalid p)
        else
          -- a posted operation that needs a Kettle unit of a stack without one is logged (R276)
          ends (σ.flog σ.myTag { ptr := p, insn := insn, cause := cPathInvalid, opnd := x0, ticket := 0
                                 home := σ.homeWord (.kettle (kettleOf c)) }).retire
      | some h =>
        if σ.mustHold path cs || (!near && σ.dirtyLacks [ptrAddr p]) then .next σ.held
        else
          match σ.releaseFor sc with
          | some σ' => .next σ'
          | none =>
            let σ := if near then σ else σ.dirty σ.cur (ptrAddr p)
            let r : GuestOp :=
              { tid := σ.cur, tag := σ.myTag, path := path, ptr := p, insn := insn, home := h, cell := c
                bytes := u, fn := fn, x0 := x0, x1 := x1, e0 := e0, e1 := e1, ret := ret, dest := dest
                ord := σ.nextId }
            if ret then
              -- a region in atomic mode is racing in deterministic mode (R111)
              if σ.det && capMode (σ.cap (cellGranule c)) = 1 && !isRemoteCell c then
                .next (σ.ask true (.atomicAtHome r))
              else .next (σ.await.sendGuest r)
            -- in deterministic mode held until its home accepts it (R192)
            else if σ.det then .next (σ.await.sendGuest r)
            else .next (σ.sendGuest r).retire

def execAmo (op : AtomOp) (w32 : Bool) (sc : Scope) (d : GReg) (a : AReg) (t : GReg) (σ : State) :
    Host.Outcome State Fault Refusal :=
  opAtomic a (if w32 then 4 else 8) sc (.amo op) (σ.g t) 0 0 0 true d
    (BitVec.ofNat 32 (encodeWord (.amo op w32 sc d a t))) σ
def execCas (w32 : Bool) (sc : Scope) (d : GReg) (a : AReg) (t : GReg) (σ : State) :
    Host.Outcome State Fault Refusal :=
  opAtomic a (if w32 then 4 else 8) sc .cas (σ.g t) 0 (σ.g d) 0 true d
    (BitVec.ofNat 32 (encodeWord (.cas w32 sc d a t))) σ
def execCas128 (sc : Scope) (d : GReg) (a : AReg) (t : GReg) (σ : State) :
    Host.Outcome State Fault Refusal :=
  opAtomic a 16 sc .cas128 (σ.g t) (σ.g (t + 1)) (σ.g d) (σ.g (d + 1)) true d
    (BitVec.ofNat 32 (encodeWord (.cas128 sc d a t))) σ
def execRed (op : AtomOp) (w32 : Bool) (a : AReg) (t : GReg) (σ : State) : Host.Outcome State Fault Refusal :=
  let w := if w32 then 4 else 8
  opAtomic a w .thr (.amo op) (BitVec.ofNat 64 ((σ.g t).toNat % 2 ^ (8 * w))) 0 0 0 false 0
    (BitVec.ofNat 32 (encodeWord (.red op w32 a t))) σ

/-- A RED has run at its home: in deterministic mode its thread is held for the outcome, which is exact (R192); a posted
one's failure is logged. Data of its own context stops no thread (R267). -/
def State.redEnds (s : State) (r : GuestOp) (a : Answer) : State :=
  if (s.part (tagPart r.tag)).mode = 1 && s.waits r.tid then
    match a with
    | .fault c v => s.post (.atomicAnswer r.tid 0 false (.fault c v))
    | .poison owner addr =>
      let s := s.contain owner 0x40 (s.strikeCell (cellOfPhys addr))
      s.post (.atomicAnswer r.tid 0 false (if owner = r.tag then .retire else .fault cPoisonedData addr))
    | _ => s.post (.atomicAnswer r.tid 0 false .retire)
  else s.redFails r a

/-- An atomic context or a RED runs at its home (R190). A returning one's answer travels back; an answer to a
thread that no longer waits is discarded. -/
def execAtomicAtHome (r : GuestOp) (σ : State) : Host.Outcome State Fault Refusal :=
  let c := σ.ctx r.tag
  match r.home with
  | .remote w =>
    let fails := σ.remoteFails (tagPart r.tag) w true
    let σ := if fails = some cRemoteLost then σ.refusedBy (tagPart r.tag) w else σ
    let (v, σ) := σ.free
    let (v2, σ) := σ.free
    let a : Answer :=
      match fails with
      | some cause => .fault cause (BitVec.ofNat 64 (ptrAddr r.ptr))
      | none => match r.fn with
        | .cas128 => .pair v v2
        | _ => .value (sext v.toNat (8 * r.bytes))
    if r.ret then .next (σ.post (.atomicAnswer r.tid r.dest true a))
    else ends (σ.redEnds r (if fails.isSome then a else .retire))
  | _ =>
    if !r.ret && c.dying && !Config.landsUnderAvalanche σ.frees then
      .next ({ σ with frees := σ.frees + 1 }.endGuest r)
    else
      let (σ, a) := σ.guestDo r
      let σ := (σ.endGuest r).completes r.tid
      if r.ret then
        -- served at a boundary, the result is written there and then (R111)
        if (σ.thread r.tid).st = .parked .racing then ends (σ.answered r.tid r.dest true a)
        else ends (σ.post (.atomicAnswer r.tid r.dest true a))
      else ends (σ.redEnds r a)

def execAtomicAnswer (t : ThreadId) (dest : GReg) (ret : Bool) (a : Answer) (σ : State) :
    Host.Outcome State Fault Refusal :=
  if σ.expects t then .next (σ.answered t dest ret a) else .next σ

/-! ### Writer capabilities (R165, R166, R350, R351) -/

/-- The granules of a range of a CAP or TKOPEN instruction: a bank range on paths 1 to 3, pages walked for on
path 0. -/
def State.rangeGranules (s : State) (p : Word) (kind : AccKind) (n : Nat) : Except Why (List Nat) :=
  let path := ptrPath p
  if 1 ≤ path && path ≤ 3 then
    if ptrAddr p ≥ 2 ^ 22 then .error (.trap cAddressRange p)
    else
      match s.bankOf s.cur.tile path with
      | none => .error (.trap cBankAbsent p)
      | some b =>
        if ptrAddr p % 4096 ≠ 0 then .error (.trap cMisaligned p)
        -- an aligned range that ends past its bank (assumption 128)
        else if ptrAddr p + n * 4096 > 2 ^ 22 then .error (.trap cAddressRange p)
        else
          -- the dirty-log granule is no one's to give (R128)
          let gs := (List.range n).map fun i => bankCell b (ptrAddr p + i * 4096) / 4096
          if path = 1 && (gs.any s.dirtyGranule) && (s.me.priv == .task || accWrites kind) then
            .error (.trap cAddressRange p)
          else .ok gs
  else if ptrAddr p % 4096 ≠ 0 then .error (.trap cMisaligned p)
  else if ptrAddr p + n * 4096 > 2 ^ 51 then .error (.trap cAddressRange p)
  else
    (List.range n).foldl (fun acc i =>
      match acc with
      | .error e => .error e
      | .ok gs =>
        match s.translateWalk s.myTag s.me.priv kind (ptrAddr p + i * 4096) with
        | .error e => .error e
        | .ok (.remote _ _) => .error (.trap cPathInvalid p)
        | .ok (.cell c) => .ok (gs ++ [c / 4096])) (.ok [])

/-- The checks of R350 up to translation, then `f` on the granules. -/
def opCap (a : AReg) (count : Word) (kind : AccKind) (σ : State)
    (f : List Nat → Host.Outcome State Fault Refusal) : Host.Outcome State Fault Refusal :=
  let p := σ.me.getA a
  if count = 0 || count.toNat > 4096 then ends (σ.trap cInvalidOperand count)
  else if ptrPath p > 3 then ends (σ.trap cPathInvalid p)
  else
    match σ.rangeGranules p kind count.toNat with
    | .error w => ends (σ.stop (ptrPath p) kind w)
    | .ok gs => f gs

/-- Whether a context is that of a live task. -/
def State.liveTask (s : State) (tag : Tag) : Bool := (s.ctx tag).live && (s.tileOfCtx tag).isSome

/-- The granules that engine operations of a context still write: its copies, collectives and Kettle
commands (R165). -/
def State.engineWrites (s : State) (tag : Tag) (gs : List Nat) : Bool :=
  let hit (c : Nat) : Bool := gs.contains (c / 4096)
  s.tiles.any (fun e => e.2.engQ.any fun c => c.tag == tag && c.chunks.any fun ch => ch.2.any hit) ||
  (s.part (tagPart tag)).colls.any (fun c => c.parts.any fun q =>
    q.tag == tag && (q.dst.any hit || hit q.done || hit q.block)) ||
  s.kettles.any fun e => e.2.queue.any fun k =>
    k.tag == tag && (hit k.block || hit k.base)

/-- The first granule that the executing thread may not give, and why. -/
def State.giveFails (s : State) (gs : List Nat) : Option (Nat × Nat) :=
  let me := s.myTag
  gs.findSome? fun g =>
    let r := s.cap g
    match s.me.priv with
    | .steward => none
    | .supervisor =>
      if !(tagCtx (capHolder r) = 0 || ownerKey (capHolder r) = ownerKey me) then some (cCapability, g)
      else if capMode r ≠ 0 then some (cCapMode, g) else none
    | .task =>
      if capHolder r ≠ me || capPend r then some (cCapability, g)
      else if capMode r ≠ 0 then some (cCapMode, g) else none

def execCapgive (d : GReg) (a : AReg) (t : GReg) (σ : State) : Host.Outcome State Fault Refusal :=
  opCap a (σ.g t) .store σ fun gs =>
    let v := σ.g d
    let me := σ.myTag
    let tgt := mkTag (tagOwner me) (tagPart me) (bits v 12 0)
    let named : Bool := bits v 63 13 = 0 && bits v 12 0 ≠ 0 &&
      (σ.me.priv != .task || σ.liveTask tgt || bits v 12 0 = (σ.ctx me).root)
    if σ.dieCopy then ends (σ.trap cRedundancy (σ.me.getA a))
    else if !named then ends (σ.trap cBadTarget v)
    else
      match σ.giveFails gs with
      | some (c, g) => ends (σ.trap c (σ.granAddr g))
      | none =>
        match σ.release with
        | some σ' => .next σ'
        | none =>
          if σ.engineWrites me gs then .next σ.held
          else if tgt = me then .next σ.retire
          else
            let root := if (σ.ctx tgt).isRoot || !(σ.ctx tgt).live then bits v 12 0 else (σ.ctx tgt).root
            let pend := (σ.tileOfCtx tgt).isSome
            let σ := gs.foldl (fun s g => s.setCap g (mkCap tgt (capMode (s.cap g)) pend root)) σ
            let σ := σ.wakeIf fun u p => p == .capability && σ.tagOf u == tgt
            ends σ.retire

def execCaptake (a : AReg) (t : GReg) (σ : State) : Host.Outcome State Fault Refusal :=
  opCap a (σ.g t) .store σ fun gs =>
    let me := σ.myTag
    if gs.all fun g => capHolder (σ.cap g) = me then
      ends (gs.foldl (fun s g =>
        let r := s.cap g
        s.setCap g (mkCap me (capMode r) false (capRoot r))) σ).retire
    else .next (σ.park .capability)

def execCapmode (atomic : Bool) (a : AReg) (t : GReg) (σ : State) : Host.Outcome State Fault Refusal :=
  opCap a (σ.g t) .store σ fun gs =>
    let me := σ.myTag
    let bad := gs.findSome? fun g =>
      let r := σ.cap g
      if capHolder r ≠ me || capPend r then some (cCapability, g)
      else if capMode r > 1 then some (cCapMode, g) else none
    if σ.dieCopy then ends (σ.trap cRedundancy (σ.me.getA a))
    else
      match bad with
      | some (c, g) => ends (σ.trap c (σ.granAddr g))
      | none =>
        match σ.release with
        | some σ' => .next σ'
        | none =>
          -- every atomic already accepted at the homes of the range is performed first
          let busy := σ.inFlight.any fun e =>
            match e with
            | .atomicAtHome r => gs.contains (r.cell / 4096)
            | _ => false
          if busy then .next σ.held
          else
            ends (gs.foldl (fun s g =>
              s.setCap g (mkCap me (if atomic then 1 else 0) false (capRoot (s.cap g)))) σ).retire

/-- What CAPQ shows of a record to a context (R166). -/
def capView (me : Tag) (r : Word) : Word :=
  let h := capHolder r
  let foreign : Bool := tagCtx h ≠ 0 && tagOwner h ≠ tagOwner me
  BitVec.ofNat 64 ((if foreign then 0 else tagCtx h) + capMode r * 2 ^ 13 + (if capPend r then 2 ^ 15 else 0) +
    (if h = me then 2 ^ 16 else 0) + (if foreign then 2 ^ 17 else 0) + capRoot r * 2 ^ 18)

def execCapq (d : GReg) (a : AReg) (σ : State) : Host.Outcome State Fault Refusal :=
  opCap a 1 .load σ fun gs => ends (σ.setG d (capView σ.myTag (σ.cap (gs.headD 0)))).retire

end Sys2Proof.Machine
end

