-- ==== Sys2Proof/Machine/Tickets.lean ====
section
/-! DEFINITION. Ticket windows and ticketed updates (R176 to R189, R417 to R420). -/

namespace Sys2Proof.Machine

/-! ### Windows -/

def State.modWindow (s : State) (id : Nat) (f : TicketWindow → TicketWindow) : State :=
  { s with windows := s.windows.map fun w => if w.id = id then f w else w }

def TicketWindow.width (w : TicketWindow) : Nat := if w.w8 then 8 else 4
def TicketWindow.has (w : TicketWindow) (cell : Nat) : Bool := w.granules.contains (cell / 4096)
/-- The number of cells of a list of granules. -/
def TicketWindow.cellsIn (w : TicketWindow) (gs : List Nat) : Nat := gs.length * (4096 / w.width)
/-- A cell's cursor, relative to `b`. -/
def TicketWindow.cursor (w : TicketWindow) (cell : Nat) : Nat := SMap.get w.dflt w.cursors (cell / w.width)
def TicketWindow.setCursor (w : TicketWindow) (cell c : Nat) : TicketWindow :=
  { w with cursors := SMap.put w.cursors (cell / w.width) c }
/-- Whether every cursor equals b + n. -/
def TicketWindow.drained (w : TicketWindow) : Bool :=
  (w.dflt ≥ w.n || w.cursors.length = w.cellsIn w.granules) && w.cursors.all fun e => e.2 ≥ w.n
/-- Voided tickets that every cursor has passed leave the void set (R184). -/
def TicketWindow.trim (w : TicketWindow) : TicketWindow :=
  let all := w.cursors.length = w.cellsIn w.granules
  { w with void := w.void.filter fun v => !((all || w.dflt > v) && w.cursors.all fun e => e.2 > v) }

/-- The window that covers a cell. -/
def State.windowAt (s : State) (cell : Nat) : Option TicketWindow :=
  s.windows.find? fun w => w.has cell

/-- The granules of a window homed at a home. -/
def State.granulesHome (s : State) (w : TicketWindow) (h : Home) : List Nat :=
  w.granules.filter fun g => s.homeOf (g * 4096) == some h

/-- The cells of the cursor store that windows occupy at a home (R176). -/
def State.cursorUse (s : State) (h : Home) : Nat :=
  (s.windows.map fun w => w.cellsIn (s.granulesHome w h)).sum
def cursorRoom : Home → Nat
  | .bank _ => 32768
  | _ => 524288
/-- The Caddy slots used at a home, of 256. -/
def State.caddyUse (s : State) (h : Home) : Nat :=
  (s.windows.map fun w => (w.caddy.filter fun e => e.upd.home == h).length).sum

/-! ### The update at a cell (R181) -/

/-- One 16-, 32- or 64-bit half of an application. -/
def tfOne (g : Grid) (op : TfOp) (old v : Nat) : Nat × BitVec 5 :=
  let a := g.decode old
  let b := g.decode v
  match op with
  | .add => roundRaised g .rne (exactSum false [a, b])
  | .min => roundRaised g .rne (valMin a b)
  | .max => roundRaised g .rne (valMax a b)

def tfWidth : TfFmt → Nat
  | .fp64 => 8
  | .fp32 | .fp16x2 | .bf16x2 => 4

/-- The new cell and the flags. -/
def tfNew (f : TfFmt) (op : TfOp) (old v : Nat) : Nat × BitVec 5 :=
  let pair (g : Grid) : Nat × BitVec 5 :=
    let lo := tfOne g op (old % 2 ^ 16) (v % 2 ^ 16)
    let hi := tfOne g op (old / 2 ^ 16) (v / 2 ^ 16 % 2 ^ 16)
    (lo.1 + hi.1 * 2 ^ 16, lo.2 ||| hi.2)
  match f with
  | .fp64 => tfOne gFp64 op old v
  | .fp32 => tfOne gFp32 op old v
  | .fp16x2 => pair gFp16
  | .bf16x2 => pair gBf16

/-- A failure of an update: an exact fault for a returning form, an entry of the sender's log otherwise. -/
def State.updFails (s : State) (r : TkUpd) (a : Answer) : State :=
  if r.ret then s.post (.atomicAnswer r.tid r.dest true a)
  else
    match a with
    | .fault c _ =>
      s.flog r.tag { ptr := r.ptr, insn := r.insn, cause := c, opnd := r.v, ticket := r.t.toNat % 2 ^ 32
                     home := s.homeWord r.home }
    | .poison owner addr =>
      let s := s.contain owner 0x40 (s.strikeCell (cellOfPhys addr))
      if owner = r.tag then s
      else s.flog r.tag { ptr := r.ptr, insn := r.insn, cause := cPoisonedData, opnd := r.v
                          ticket := r.t.toNat % 2 ^ 32, home := s.homeWord r.home }
    | _ => s

/-- An application in one instant (R181): a poisoned cell is left as it is. -/
def State.applyUpd (s : State) (r : TkUpd) : State × Answer :=
  let n := tfWidth r.fmt
  match s.firstPoison (cellsFrom r.cell n) with
  | some c => (s, .poison (s.poisonOwner c) (s.physAddr (c / 8 * 8)))
  | none =>
    let old := s.readN r.cell n
    let x := tfNew r.fmt r.op old r.v.toNat
    (s.writeN r.tag r.cell n x.1, .applied (BitVec.ofNat 64 old) x.2)

/-- What the sender of an applied update receives: a queued non-returning one has retired already. -/
def State.tellApplied (s : State) (r : TkUpd) (a : Answer) (queued : Bool) : State :=
  match r.ret, a with
  | true, _ => s.post (.atomicAnswer r.tid r.dest true a)
  | false, .poison _ _ =>
    let s := s.updFails r a
    if queued then s else s.post (.atomicAnswer r.tid r.dest false .retire)
  | false, _ => if queued then s else s.post (.atomicAnswer r.tid r.dest false .retire)

/-- The cursor's advance after an application (R182): voided tickets are passed, Caddy entries applied. -/
def State.advance (s : State) (id cell : Nat) : Nat → State
  | 0 => s
  | fuel + 1 =>
    match s.windows.find? fun w => w.id = id with
    | none => s
    | some w =>
      let c := w.cursor cell
      if w.void.contains c then (s.modWindow id (·.setCursor cell (c + 1))).advance id cell fuel
      else
        match w.caddy.find? fun e => e.upd.cell == cell && e.ticket == c with
        | none => s
        | some e =>
          let (s, a) := s.applyUpd e.upd
          let s := s.modWindow id fun w =>
            ({ w with caddy := dropFirst (· == e) w.caddy }).setCursor cell (c + 1)
          (s.tellApplied e.upd a true).advance id cell fuel

/-- Senders parked on a refusal at a home are woken, and TKDRAIN and TKCLOSE of the window (R182). -/
def State.wakeTickets (s : State) (hs : List Home) (id : Nat) : State :=
  let s := s.modWindow id (·.trim)
  s.wakeIf fun _ p =>
    match p with
    | .ticket h => hs.contains h
    | .drain w => w == id
    | _ => false

/-- The number of steps an advance can take. -/
def TicketWindow.fuel (w : TicketWindow) : Nat := w.void.length + w.caddy.length + 1

/-- A refused sender parks at the home's test itself, so no cursor's advance after it is missed (R89, R180, R182). -/
def State.refuse (s : State) (r : TkUpd) : State :=
  if s.expects r.tid then s.parkAt r.tid (.ticket r.home) else s

/-- A ticketed update at the cell's home (R180): every check in order, then applied, queued or refused. -/
def State.updAtHome (s : State) (r : TkUpd) : State :=
  let bad (c : Nat) : State :=
    -- a non-returning form retires, and its fault enters the log
    let s := s.updFails r (.fault c r.ptr)
    if r.ret then s else s.post (.atomicAnswer r.tid r.dest false .retire)
  let g := s.cap (cellGranule r.cell)
  if capMode g ≠ 2 then bad cCapMode
  else if capRoot g ≠ (s.ctx r.tag).root || ownerKey (capHolder g) ≠ ownerKey r.tag then bad cCapability
  else
    match s.windowAt r.cell with
    | none => bad cCapMode
    | some w =>
      if tfWidth r.fmt ≠ w.width then bad cInvalidOperand
      else if w.st = .broken then bad cTicketClosed
      else
        let t : Int := (r.t.toNat : Int) - w.b
        let c := w.cursor r.cell
        if t < 0 || t ≥ w.n || t < c || w.void.contains t.toNat ||
            w.caddy.any fun e => e.upd.cell == r.cell && e.ticket == t.toNat then bad cTicketRange
        else if t = c then
          let (s, a) := s.applyUpd r
          let s := s.modWindow w.id (·.setCursor r.cell (c + 1))
          let s := s.tellApplied r a false
          (s.advance w.id r.cell w.fuel).wakeTickets [r.home] w.id
        else if s.caddyUse r.home < 256 then
          let s := s.modWindow w.id fun w => { w with caddy := w.caddy ++ [{ upd := r, ticket := t.toNat }] }
          if r.ret then s else s.post (.atomicAnswer r.tid r.dest false .retire)
        else s.refuse r

/-! ### Closing (R186, R188) -/

/-- The gap: what every cell still lacks, voided tickets not counted (R186). -/
def TicketWindow.gap (w : TicketWindow) : Nat :=
  let lack (c : Nat) : Nat := (w.n - c) - (w.void.filter fun v => c ≤ v && v < w.n).length
  (w.cursors.map fun e => lack e.2).sum + (w.cellsIn w.granules - w.cursors.length) * lack w.dflt

/-- The window's slots, cursors and Caddy entries are freed, its granules exclusive again, and the senders of
discarded entries treated as R186 says. -/
def State.freeWindow (s : State) (w : TicketWindow) : State :=
  let s := { s with windows := s.windows.filter fun x => x.id ≠ w.id }
  let s := w.granules.foldl (fun s g =>
    let r := s.cap g
    if capMode r = 2 then s.setCap g (mkCap (capHolder r) 0 (capPend r) (capRoot r)) else s) s
  let s := w.caddy.foldl (fun s e => s.updFails e.upd (.fault cTicketClosed e.upd.ptr)) s
  s.wakeIf fun _ p =>
    match p with
    | .ticket h => w.homes.contains h
    | .drain i => i == w.id
    | _ => false

/-- A window closed by Avalanche of its owner or by FORCE: the gap enters the fault log of the owner's launch
root (R188, R193). -/
def State.abandonWindow (s : State) (w : TicketWindow) : State :=
  let s := s.freeWindow w
  s.flog (s.rootTag w.owner)
    { ptr := w.ptr, insn := 0, cause := cTicketClosed, opnd := BitVec.ofNat 64 w.gap, ticket := 0
      home := ((w.granules.head?.bind fun g => s.homeOf (g * 4096)).map s.homeWord).getD 0 }

/-! ### TFADD, TFMIN, TFMAX (R417) -/

def opTf (f : TfFmt) (op : TfOp) (d : GReg) (a : AReg) (v k : GReg) (insn : InsnWord) (σ : State) :
    Host.Outcome State Fault Refusal :=
  let p := σ.me.getA a
  let path := ptrPath p
  let n := tfWidth f
  match (σ.access [0, 1, 2, 3] .atomic p true (ptrAddr p) n n).get n with
  | .error w => ends (σ.stop path .atomic w)
  | .ok (near, cs) =>
    let c := cs.headD 0
    if σ.dieCopy && σ.outsideStore σ.cur.tile c then ends (σ.trap cRedundancy p)
    else
      match σ.cellHome c with
      | none =>
        if d ≠ 0 then ends (σ.trap cPathInvalid p)
        else
          -- a form without return enters the log (R276)
          ends (σ.flog σ.myTag { ptr := p, insn := insn, cause := cPathInvalid
                                 opnd := BitVec.ofNat 64 ((σ.g v).toNat % 2 ^ (8 * n)), ticket := (σ.g k).toNat % 2 ^ 32
                                 home := σ.homeWord (.kettle (kettleOf c)) }).retire
      | some h =>
        if σ.mustHold path cs || (!near && σ.dirtyLacks [ptrAddr p]) then .next σ.held
        else
          let σ := if near then σ else σ.dirty σ.cur (ptrAddr p)
          let r : TkUpd :=
            { tid := σ.cur, tag := σ.myTag, path := path, ptr := p, insn := insn, home := h, cell := c
              op := op, fmt := f, v := BitVec.ofNat 64 ((σ.g v).toNat % 2 ^ (8 * n)), t := σ.g k
              ret := d ≠ 0, dest := d, ord := σ.nextId }
          .next (σ.await.post (.ticketUpdateArrival r))

def execTfadd (f : TfFmt) (d : GReg) (a : AReg) (v k : GReg) (σ : State) :
    Host.Outcome State Fault Refusal :=
  opTf f .add d a v k (BitVec.ofNat 32 (encodeWord (.tfadd f d a v k))) σ
def execTfmin (f : TfFmt) (d : GReg) (a : AReg) (v k : GReg) (σ : State) :
    Host.Outcome State Fault Refusal :=
  opTf f .min d a v k (BitVec.ofNat 32 (encodeWord (.tfmin f d a v k))) σ
def execTfmax (f : TfFmt) (d : GReg) (a : AReg) (v k : GReg) (σ : State) :
    Host.Outcome State Fault Refusal :=
  opTf f .max d a v k (BitVec.ofNat 32 (encodeWord (.tfmax f d a v k))) σ

/-- What a remote home answers an update that it does not apply or queue (R180), by the number drawn for it: its faults,
and 7 a poisoned cell of another context. What another device answers is open (assumption 6). -/
def remoteCause : Nat → Option Nat
  | 1 => some cCapability
  | 2 => some cCapMode
  | 3 => some cInvalidOperand
  | 4 => some cTicketClosed
  | 5 => some cTicketRange
  | 7 => some cPoisonedData
  | _ => none

/-- An update sent through a remote window (R150, R180, R189): the home's answer, 8 drawn for it a refusal, whose wake
comes from there. -/
def State.updRemote (s : State) (w : Nat) (r : TkUpd) : State :=
  let gone := lostSt (s.importSt (tagPart r.tag) w) || Config.remoteRefuses s.frees
  let drawn := Config.remoteChecks s.frees
  let s := if gone then s.refusedBy (tagPart r.tag) w else s
  let (v, s) := s.free
  let fail (c : Nat) (tval : Word) : State :=
    let s := s.updFails r (.fault c tval)
    if r.ret then s else s.post (.atomicAnswer r.tid r.dest false .retire)
  if gone then fail cRemoteLost (BitVec.ofNat 64 (ptrAddr r.ptr))
  else
    match remoteCause drawn with
    | some c => fail c r.ptr
    | none =>
      if drawn = 8 then
        let s := s.refuse r
        if (s.thread r.tid).st = .parked (.ticket r.home) then s.wake r.tid else s
      else
        s.post (.atomicAnswer r.tid r.dest r.ret (if r.ret then
            .applied (BitVec.ofNat 64 (v.toNat % 2 ^ (8 * tfWidth r.fmt))) (BitVec.ofNat 5 (v.toNat / 2 ^ 32 % 32))
          else .retire))

/-- A ticketed update arrives at its cell's home. -/
def execTicketUpdateArrival (r : TkUpd) (σ : State) : Host.Outcome State Fault Refusal :=
  match r.home with
  | .remote w => ends (σ.updRemote w r)
  | _ => ends ((σ.touch r.cell).updAtHome r)

/-! ### TKOPEN (R178) -/

/-- The window that the executing thread's TKOPEN has sent install requests for (R178). -/
def State.opened (s : State) : Option TicketWindow :=
  s.windows.find? fun w => w.owner == s.myTag && w.opener == some (s.cur.slot, s.me.pc)

/-- Whether a page of the region of a TKOPEN on path 0 is homed in a remote window. -/
def State.regionRemote (s : State) (p : Word) (cnt : Nat) : Bool :=
  ptrPath p = 0 && (List.range cnt).any fun i =>
    match s.lookup s.cur.tile .load s.myTag (ptrAddr p + i * 4096) with
    | some e => leafHome e.leaf == 2
    | none =>
      match walk s (s.owner s.myTag).ptroot (ptrAddr p + i * 4096) with
      | .leaf e _ _ _ => leafHome e == 2
      | _ => false

/-- The first granule of a region that its holder may not open a window over, and why. -/
def State.regionFails (s : State) (gs : List Nat) : Option (Nat × Nat) :=
  gs.findSome? fun g =>
    let r := s.cap g
    if capHolder r ≠ s.myTag || capPend r then some (cCapability, g)
    else if capMode r ≠ 0 then some (cCapMode, g) else none

/-- The last part of TKOPEN: room at every home, the release, and the install requests. -/
def State.openWindow (s : State) (w : TicketWindow) : State :=
  if w.homes.any fun h => (s.windows.filter fun x => x.homes.contains h).length ≥ 64 then (s.setG w.dest 1).retire
  else if w.homes.any fun h => s.cursorUse h + w.cellsIn (s.granulesHome w h) > cursorRoom h then
    (s.setG w.dest 2).retire
  else
    match s.release with
    | some s' => s'
    | none =>
      ({ s with windows := s.windows ++ [w], nextId := s.nextId + 1 }.postAll
        (w.homes.map fun h => .windowInstall h w.id)).held

def execTkopen (w8 : Bool) (d : GReg) (a : AReg) (t : GReg) (σ : State) :
    Host.Outcome State Fault Refusal :=
  let p := σ.me.getA a
  let v := σ.g t
  let b := bits v 31 0
  let n := bits v 47 32
  let cnt := bits v 59 48 + 1
  match σ.opened with
  | some w =>
    -- the install requests are on their way: held until every home has installed the window
    if w.st = .opening then .next σ.held
    else .next ((σ.modWindow w.id fun w => { w with opener := none }).setG d 0).retire
  | none =>
    if ptrAddr p % 4096 ≠ 0 then ends (σ.trap cMisaligned p)
    else if ptrPath p > 3 || σ.regionRemote p cnt then ends (σ.trap cPathInvalid p)
    else if n = 0 || b + n > 2 ^ 32 || bits v 63 60 ≠ 0 then ends (σ.trap cInvalidOperand v)
    else
      match σ.rangeGranules p .store cnt with
      | .error w => ends (σ.stop (ptrPath p) .store w)
      | .ok gs =>
        if σ.dieCopy && gs.any fun g => σ.outsideStore σ.cur.tile (g * 4096) then ends (σ.trap cRedundancy p)
        else
          match σ.regionFails gs with
          | some (c, g) => ends (σ.trap c (σ.granAddr g))
          | none =>
            let hs := (gs.map fun g => σ.homeOf (g * 4096)).eraseDups
            if hs.contains none then ends (σ.trap cPathInvalid p)
            else
              let homes := hs.filterMap id
              ends (σ.openWindow
                { id := σ.nextId, owner := σ.myTag, root := (σ.ctx σ.myTag).root, ptr := p, b := b, n := n, w8 := w8
                  dest := d, opener := some (σ.cur.slot, σ.me.pc), st := .opening, granules := gs, homes := homes
                  pending := homes, dflt := 0, cursors := [], void := [], caddy := [] })

/-- An install request arrives at a home (R178): the granules homed there enter ticket mode. -/
def execWindowInstall (home : Home) (window : Nat) (σ : State) : Host.Outcome State Fault Refusal :=
  match σ.windows.find? fun w => w.id = window with
  | none => .next σ
  | some w =>
    let σ := (σ.granulesHome w home).foldl (fun s g =>
      let r := s.cap g
      s.setCap g (mkCap (capHolder r) 2 (capPend r) (capRoot r))) σ
    let left := w.pending.filter fun h => h != home
    ends (σ.modWindow window fun w =>
      { w with pending := left, st := if left.isEmpty && w.st = .opening then .open_ else w.st })

/-! ### TKCLOSE, TKSKIP, TKDRAIN, TKSTAT (R184 to R187, R419) -/

/-- The checks of R419, then `f` on the cell and the window of the owner. -/
def opTk (a : AReg) (σ : State) (f : TicketWindow → Host.Outcome State Fault Refusal) :
    Host.Outcome State Fault Refusal :=
  let p := σ.me.getA a
  match (σ.access [0, 1, 2, 3] .store p true (ptrAddr p) 1 1).get 1 with
  | .error w => ends (σ.stop (ptrPath p) .store w)
  | .ok (_, cs) =>
    let c := cs.headD 0
    match σ.windowAt c with
    | none => ends (σ.trap cCapMode (σ.granAddr (cellGranule c)))
    | some w =>
      if capMode (σ.cap (cellGranule c)) ≠ 2 then ends (σ.trap cCapMode (σ.granAddr (cellGranule c)))
      else if w.owner ≠ σ.myTag then ends (σ.trap cCapability (σ.granAddr (cellGranule c)))
      else if σ.dieCopy then ends (σ.trap cRedundancy p)
      else f w

def execTkclose (ab : Bool) (d : GReg) (a : AReg) (σ : State) : Host.Outcome State Fault Refusal :=
  -- woken after another thread of the owner closed it, the region is in ticket mode no more
  opTk a σ fun w =>
    if ab || w.st = .broken then ends ((σ.freeWindow w).setG d (BitVec.ofNat 64 w.gap)).retire
    else if w.drained then ends ((σ.freeWindow w).setG d 0).retire
    else .next ((σ.modWindow w.id fun w => { w with st := .closing }).park (.drain w.id))

def execTkdrain (d : GReg) (a : AReg) (σ : State) : Host.Outcome State Fault Refusal :=
  opTk a σ fun w =>
    if w.st = .broken then .next (σ.setG d 1).retire
    else if w.drained then .next (σ.setG d 0).retire
    else .next (σ.park (.drain w.id))

/-- Every cell whose cursor stands at a voided ticket advances (R184). -/
def State.skipAll (s : State) (w : TicketWindow) : State :=
  let cells := ((w.caddy.map fun e => e.upd.cell) ++ w.cursors.map fun e => e.1 * w.width).eraseDups
  let s := cells.foldl (fun s c => s.advance w.id c w.fuel) s
  -- the cells not listed hold no Caddy entry: they only pass voided tickets
  s.modWindow w.id fun w =>
    { w with dflt := (List.range w.void.length).foldl (fun c _ => if w.void.contains c then c + 1 else c) w.dflt }

def execTkskip (d : GReg) (a : AReg) (t : GReg) (σ : State) : Host.Outcome State Fault Refusal :=
  opTk a σ fun w =>
    let v := σ.g t
    let r : Int := (v.toNat : Int) - w.b
    let all := w.cursors.length = w.cellsIn w.granules
    if r < 0 || r ≥ w.n || ((all || w.dflt > r.toNat) && w.cursors.all fun e => e.2 > r.toNat) then
      .next (σ.setG d 2).retire
    else if w.void.length ≥ 16 then .next (σ.setG d 1).retire
    else
      let gone := w.caddy.filter fun e => e.ticket == r.toNat
      -- the void set holds a ticket once
      let w' := { w with void := w.void.filter (· != r.toNat) ++ [r.toNat]
                         caddy := w.caddy.filter fun e => e.ticket != r.toNat }
      let σ := σ.modWindow w.id fun _ => w'
      let σ := gone.foldl (fun s e => s.updFails e.upd (.fault cTicketRange e.upd.ptr)) σ
      ends (((σ.skipAll w').wakeTickets w.homes w.id).setG d 0).retire

/-- TKSTAT at the home of the selected cell (R187). -/
def execTkstat (d : GReg) (a : AReg) (σ : State) : Host.Outcome State Fault Refusal :=
  let p := σ.me.getA a
  match (σ.access [0, 1, 2, 3] .load p true (ptrAddr p) 1 1).get 1 with
  | .error w => ends (σ.stop (ptrPath p) .load w)
  | .ok (_, cs) =>
    let c := cs.headD 0
    match σ.windowAt c, σ.homeOf c with
    | some w, some h =>
      if w.pending.contains h then ends (σ.setG d 0).retire
      else
        let here := σ.granulesHome w h
        let listed := w.cursors.filter fun e => here.contains (e.1 * w.width / 4096)
        let low0 := if listed.length < w.cellsIn here then [w.dflt] else []
        let low := ((listed.map (·.2)) ++ low0).foldl Nat.min w.n
        let pend := (w.caddy.filter fun e => e.upd.home == h).length
        let st := match w.st with
          | .opening => 1 | .open_ => 1 | .closing => 2 | .broken => 3
        ends (σ.setG d (BitVec.ofNat 64 (w.cursor (c / w.width * w.width) % 2 ^ 16 + low % 2 ^ 16 * 2 ^ 16 +
          pend * 2 ^ 32 + st * 2 ^ 41 + (if w.owner = σ.myTag then 2 ^ 44 else 0)))).retire
    | _, _ => ends (σ.setG d 0).retire

end Sys2Proof.Machine
end

