-- ==== Sys2Proof/Machine/Messages.lean ====
section
/-! DEFINITION. The torus and its messages: the routing of packets (R13, R21, R36, R222 to R226), the send and
receive forms, and what a message meets at its destination (R87, R95, R227 to R231, R396, R397, R400 to
R402). -/

namespace Sys2Proof.Machine

/-! ### Routing -/

/-- The dimension order of a Piste (R226): 0 is x, 1 is y, 2 is z. -/
def dimOrder (c : Nat) : List Nat :=
  match c with
  | 1 => [0, 2, 1]
  | 2 => [1, 0, 2]
  | 3 => [1, 2, 0]
  | 4 => [2, 0, 1]
  | 5 => [2, 1, 0]
  | _ => [0, 1, 2]

def State.pisteOrder (s : State) (n piste : Nat) : List Nat :=
  dimOrder (bits (s.part n).pistecfg (3 * piste + 2) (3 * piste))

/-- The length of a ring and a tile's place on it: sixteen tiles in x and y, the partition's layers in z
(R13, R20). -/
def State.ringLen (s : State) (n d : Nat) : Nat := if d = 2 then (s.layers n).length else 16
def State.ringPos (s : State) (n d t : Nat) : Nat :=
  match d with
  | 0 => tileX t
  | 1 => tileY t
  | _ => (s.layers n).findIdx (· == tileZ t)
def State.ringAt (s : State) (n d t i : Nat) : Nat :=
  match d with
  | 0 => mkTile i (tileY t) (tileZ t)
  | 1 => mkTile (tileX t) i (tileZ t)
  | _ => mkTile (tileX t) (tileY t) ((s.layers n).getD i 0)

/-- A neighbour of a tile: up or down one place in a dimension. -/
def State.neighbour (s : State) (n d t : Nat) (up : Bool) : Nat :=
  let l := s.ringLen n d
  let i := s.ringPos n d t
  s.ringAt n d t (if up then (i + 1) % l else (i + l - 1) % l)

/-- Whether the way from one place of a ring to another is shorter, or as short, upward. -/
def upward (len i j : Nat) : Bool := (j + len - i) % len ≤ (i + len - j) % len

/-- The next tile of the dimension-ordered route, and its dimension; none at the destination. -/
def State.ordered (s : State) (n : Nat) (order : List Nat) (t dst : Nat) : Option (Nat × Nat) :=
  (order.find? fun d => s.ringPos n d t ≠ s.ringPos n d dst).map fun d =>
    (d, s.neighbour n d t (upward (s.ringLen n d) (s.ringPos n d t) (s.ringPos n d dst)))

/-- Whether a tile lies in a fault region (R36). -/
def State.boxed (s : State) (t : Nat) : Bool :=
  s.floor.boxes.any fun b =>
    tileX b.1 ≤ tileX t && tileX t ≤ tileX b.2 && tileY b.1 ≤ tileY t && tileY t ≤ tileY b.2 &&
    tileZ b.1 ≤ tileZ t && tileZ t ≤ tileZ b.2

/-- The neighbours of a tile in the order a Piste prefers. -/
def State.around (s : State) (n : Nat) (order : List Nat) (t : Nat) : List (Nat × Nat) :=
  order.flatMap fun d => [(d, s.neighbour n d t true), (d, s.neighbour n d t false)]

/-- The tiles within reach of a destination outside the fault regions, each with its distance. -/
def State.distances (s : State) (n : Nat) : Nat → Nat → List (Nat × Nat) → List Nat → List (Nat × Nat)
  | 0, _, seen, _ => seen
  | fuel + 1, depth, seen, front =>
    let next := (front.flatMap fun t => (s.around n [0, 1, 2] t).map (·.2)).eraseDups.filter fun t =>
      !s.boxed t && !seen.any fun e => e.1 == t
    s.distances n fuel (depth + 1) (seen ++ next.map fun t => (t, depth + 1)) next

/-- The next tile of the shortest detour, the Piste's order deciding among equals (R36). -/
def State.detour (s : State) (n : Nat) (order : List Nat) (t dst : Nat) : Option (Nat × Nat) :=
  let ds := s.distances n 40 0 [(dst, 0)] [dst]
  let far (u : Nat) : Nat := ((ds.find? fun e => e.1 == u).map (·.2)).getD 1000
  (s.around n order t).foldl (fun best x =>
    match best with
    | none => if far x.2 < 1000 then some x else none
    | some b => if far x.2 < far b.2 then some x else some b) none

/-- A hop crosses the dateline of its dimension: between the last place of the ring and the first (R223). In a one-pair
partition the two layers are neighbours over their face bond and over the riser that closes the ring: the manual does
not say which a hop between them takes, and the model takes the face bond, so it crosses no dateline (assumption 112). -/
def State.dateline (s : State) (n d a b : Nat) : Bool :=
  let l := s.ringLen n d
  let i := s.ringPos n d a
  let j := s.ringPos n d b
  l > 2 && ((i + 1 == l && j == 0) || (i == 0 && j + 1 == l))

/-- The unloaded latency of a hop (R11, R13). In a one-pair partition the hop between the two layers is both the face
bond's, of 2 tc, and the wraparound's, of 6 tc: the model takes 2 tc (assumption 112). -/
def State.hopTc (s : State) (n d a b : Nat) : Nat :=
  if d < 2 then 4 else if s.dateline n d a b then 6 else 2

/-- Whether a router sweeps the packets of a tag: from the kill's arrival to the end of its sweep (R271). -/
def State.sweeping (s : State) (tag : Tag) (tile : Nat) : Bool :=
  (s.ctx tag).sweeps.contains tile && !s.agenda.any fun q => q.ev == .killPacketArrival tag tile

def State.modPacket (s : State) (id : Nat) (f : Packet → Packet) : State :=
  { s with packets := s.packets.map fun p => if p.id = id then f p else p }
def State.dropPacket (s : State) (id : Nat) : State :=
  { s with packets := s.packets.filter fun p => p.id ≠ id }

/-- Whether the link of a hop retrains. -/
def State.retraining (s : State) (n d a b : Nat) : Bool :=
  let up := s.neighbour n d a true == b
  s.floor.retrain.contains (linkUp a d up) || s.floor.retrain.contains (linkUp b d (!up))

/-- A packet enters the torus at its source. -/
def State.emit (s : State) (piste src dst : Nat) (tag : Tag) (ev : Instr) : State :=
  let p : Packet :=
    { id := s.nextId, piste := piste, src := src, dst := dst, cur := src, dim := 3, v1 := false, escape := false
      tag := tag, ev := ev }
  ({ s with packets := s.packets ++ [p], nextId := s.nextId + 1 }).post (.torusPacketHop p.id)

/-- Whether a packet at its destination is the oldest of its Piste from its source that is still on its way (R225). -/
def State.packetFirst (s : State) (id : Nat) : Bool :=
  match s.packets.find? fun p => p.id = id with
  | none => true
  | some p => p.cur ≠ p.dst ||
      !s.packets.any fun q => q.piste == p.piste && q.src == p.src && q.dst == p.dst && q.id < p.id

/-- A partition violation is counted and recorded (R21). -/
def State.violation (s : State) (tag : Tag) (k : Strike) : State :=
  (s.modFloor fun f => { f with violations := f.violations + 1 }).record tag 0x4A false k

/-- The context and the tile of a request that goes to the floor die, to HBM, a Kettle unit or a remote window, or of
its answer (R12, R20). -/
def State.floorTraffic (s : State) (e : Instr) : Option (Tag × Nat) :=
  let far (cs : List Nat) : Bool := cs.any fun c => !isBankCell c
  let out (cs : List Nat) (tag : Tag) (tile : Nat) : Option (Tag × Nat) := if far cs then some (tag, tile) else none
  match e with
  | .storeAtHome r => out (r.cells.map (·.1)) r.tag r.tid.tile
  | .loadResponse r => out (destCells r.dest) (s.tagOf r.tid) r.tid.tile
  | .atomicAtHome r => out [r.cell] r.tag r.tid.tile
  | .ticketUpdateArrival r => out [r.cell] r.tag r.tid.tile
  | .acopyChunkLand t => match (s.tile t).engQ with
    | c :: _ => out (c.chunks.flatMap fun x => x.1 ++ x.2) c.tag t
    | [] => none
  | _ => none

/-- Floor-channel traffic is checked at its two ends (R21): the floor die drops a packet whose partition field is not
that of the tile that sent it, the destination tile's router an answer whose field is not its own partition. The number
of a tile that no tile has names the sender of another device (assumption 83). -/
def State.floorDrops (s : State) (e : Instr) : Option State :=
  match s.floorTraffic e with
  | some (tag, t) =>
    if t < 4096 && s.partOfTile t != some (tagPart tag) then
      let s := s.violation tag (Strike.plain t)
      some (match e with
        | .atomicAtHome r => s.endGuest r
        | .acopyChunkLand t => s.modTile t fun ti => { ti with engQ := ti.engQ.drop 1 }
        | _ => s)
    else none
  | none => none

/-- A packet at a router: dropped where its partition field is not the router's (R21) or its tag is swept,
delivered at its destination, and forwarded otherwise. -/
def execTorusPacketHop (id : Nat) (σ : State) : Host.Outcome State Fault Refusal :=
  match σ.packets.find? fun p => p.id = id with
  | none => .next σ
  | some p =>
    let n := tagPart p.tag
    if σ.partOfTile p.cur ≠ some n then
      let k : Strike := { Strike.plain p.cur with struct_ := 9 }
      .next ((σ.dropPacket id).violation p.tag k)
    else if σ.sweeping p.tag p.cur then .next (σ.dropPacket id)
    else if p.cur = p.dst then .next ((σ.dropPacket id).post p.ev)
    else
      let order := σ.pisteOrder n p.piste
      let go (x : Nat × Nat) (esc : Bool) : State :=
        if σ.retraining n x.1 p.cur x.2 then σ.postIn 4 (.torusPacketHop id) else
        -- a turn returns the packet to V0, its first hop of a detour puts it on E0, a dateline on V1 or E1 (R223)
        (σ.modPacket id fun q =>
            { q with cur := x.2, dim := x.1, escape := esc
                     v1 := (q.v1 && q.dim == x.1 && q.escape == esc) || σ.dateline n x.1 p.cur x.2 }).postIn (σ.hopTc n x.1 p.cur x.2) (.torusPacketHop id)
      match σ.ordered n order p.cur p.dst with
      | none => .next ((σ.dropPacket id).post p.ev)
      | some x =>
        if p.escape || σ.boxed x.2 then
          match σ.detour n order p.cur p.dst with
          | some y => .next (go y true)
          | none => .next (σ.postIn 4 (.torusPacketHop id))
        else .next (go x false)

/-! ### Naming a tile (R22, R229, R400) -/

/-- The tile that a tile ID of the executing thread's partition names, or its stand-in (R23). -/
def State.namedTile (s : State) (T : Word) : Option Nat :=
  let n := s.myPart
  if bits T 63 32 ≠ 0 || bits T 15 12 ≠ 0 || bits T 31 16 ≠ s.floor.device ||
      bits T 11 8 ≥ (s.part n).zmap.length then none
  else s.atLogical n (bits T 3 0) (bits T 7 4) (bits T 11 8)

/-! ### Sending -/

/-- Whether a redirect entry addresses a message of a context: it names that context, or a context of the
sender's launch root where the message names none (R230). -/
def State.redirects (s : State) (e : Redirect) (dst : Nat) (sender : Tag) (root dctx : Nat) : Bool :=
  e.old == dst && ownerKey e.tag == ownerKey sender &&
  (if dctx ≠ 0 then tagCtx e.tag == dctx else (s.ctx e.tag).live && (s.ctx e.tag).root == root)

/-- Where a send of the executing tile goes: its redirect entries are followed. -/
def State.redirected (s : State) (root dctx : Nat) : Nat → Nat → Nat
  | 0, dst => dst
  | fuel + 1, dst =>
    match s.myTile.redirs.find? fun e => s.redirects e dst s.myTag root dctx with
    | some e => s.redirected root dctx fuel e.new_
    | none => dst

/-- The next sequence number from the executing tile to a tile (R227). -/
def State.nextSeq (s : State) (dst : Nat) : Nat × State :=
  let q := SMap.get 0 s.myTile.sendSeq dst
  (q, s.modMyTile fun t => { t with sendSeq := SMap.set 0 t.sendSeq dst ((q + 1) % 2 ^ 16) })

/-- An event of Piste 2 leaves: collected in deterministic mode where it is racing (R111), otherwise through
the torus. -/
def State.sendOn (s : State) (racing : Bool) (dst : Nat) (ev : Instr) : State :=
  if s.det && racing then
    let n := s.myPart
    let r : Racing :=
      { tid := s.cur, lid := s.logicalId n s.cur.tile, slot := s.cur.slot, cnt := s.me.count, ev := ev }
    s.modPart n fun p => { p with racing := p.racing ++ [r] }
  else s.emit 2 s.cur.tile dst s.myTag ev

/-- g8–g11 as the payload of a scalar message. -/
def State.scalars (s : State) : VWord :=
  BitVec.ofNat 2048 ((s.g 8).toNat + (s.g 9).toNat * 2 ^ 64 + (s.g 10).toNat * 2 ^ 128 + (s.g 11).toNat * 2 ^ 192)

/-- A send form (R400). -/
def opSend (kind : MsgKind) (T : Word) (tag : Word) (payload : VWord) (insn : InsnWord) (σ : State) :
    Host.Outcome State Fault Refusal :=
  match σ.namedTile T with
  | none => ends (σ.trap cBadTarget T)
  | some d0 =>
    if σ.dieCopy then ends (σ.trap cRedundancy T)
    else
      let root := (σ.ctx σ.myTag).root
      let dctx := match kind, σ.myTile.task with
        | .reply, some k => k.caller
        | _, _ => 0
      let dst := σ.redirected root dctx 8 d0
      let ord := σ.nextId
      let (q, σ) := ({ σ with nextId := σ.nextId + 1 }).nextSeq d0
      let m : Message :=
        { dst := dst, dst0 := d0, ord := ord, root := root, src := σ.cur.tile, srcId := σ.tileId σ.cur.tile
          dstId := T, tag := bits tag 15 0, kind := kind, dctx := dctx, ctag := σ.myTag, seq := q
          payload := payload, insn := insn }
      -- racing is what reaches another tile than its sender's (R111)
      .next (σ.sendOn (d0 ≠ σ.cur.tile || dst ≠ σ.cur.tile) dst (.messageArrival m)).retire

def execSend (r t : GReg) (σ : State) : Host.Outcome State Fault Refusal :=
  opSend .send (σ.g r) (σ.g t) σ.scalars (BitVec.ofNat 32 (encodeWord (.send r t))) σ
def execSendv (r t : GReg) (v : VReg) (σ : State) : Host.Outcome State Fault Refusal :=
  opSend .sendv (σ.g r) (σ.g t) (σ.me.getV v) (BitVec.ofNat 32 (encodeWord (.sendv r t v))) σ
/-- Whether the executing thread's task was started by SPAWN, so that REPLY has a caller. -/
def State.hasCaller (s : State) : Bool := s.myTile.task.any fun k => k.caller ≠ 0

/-- REPLY: in a task that no SPAWN started it acts as SEND (R229). -/
def execReply (r t : GReg) (σ : State) : Host.Outcome State Fault Refusal :=
  opSend (if σ.hasCaller then .reply else .send) (σ.g r) (σ.g t) σ.scalars (BitVec.ofNat 32 (encodeWord (.reply r t))) σ

/-- SPAWN (R402). -/
def execSpawn (r t d : GReg) (σ : State) : Host.Outcome State Fault Refusal :=
  let T := σ.g r
  match σ.namedTile T, σ.myTile.task with
  | some dst, some k =>
    if σ.dieCopy then ends (σ.trap cRedundancy T)
    else
      let ord := σ.nextId
      let (q, σ) := ({ σ with nextId := σ.nextId + 1 }).nextSeq dst
      let m : SpawnMsg :=
        { dst := dst, dst0 := dst, ord := ord, root := (σ.ctx σ.myTag).root, launch := k.launch, priv := k.priv
          src := σ.cur.tile, srcId := σ.tileId σ.cur.tile, entry := σ.g t, g8 := σ.g 8, g9 := σ.g 9
          g10 := σ.g 10, g11 := σ.g 11, caller := σ.myTag, rtag := bits (σ.g d) 15 0, prio := k.prio, seq := q }
      .next (σ.sendOn true dst (.spawnArrival m)).retire
  | _, _ => ends (σ.trap cBadTarget T)

/-! ### At the destination (R230) -/

/-- What a message is bound to. -/
inductive Bound where
  | here
  | moved (f : Forward)
  | nowhere
  deriving DecidableEq, Repr

/-- Whether a task holds slot 0: from its dispatch until it leaves. -/
def Task.resident (k : Task) : Bool := k.phase == .fetching || k.phase == .running

def State.bound (s : State) (m : Message) : Bound :=
  let t := s.tile m.dst
  let names (tag : Tag) (root : Nat) : Bool :=
    ownerKey tag == ownerKey m.ctag && (if m.dctx ≠ 0 then tagCtx tag == m.dctx else root == m.root)
  let here : Bool := match t.task with
    | some k => k.resident && names k.tag k.root
    | none => false
  if here then .here
  else
    match t.fwd.find? fun f => names f.tag f.root with
    | some f => .moved f
    | none => .nowhere

/-- The entries of the message store that a message takes (R227). -/
def msgSize (m : Message) : Nat := match m.kind with
  | .sendv => 5
  | _ => 1
def Tile.storeUsed (t : Tile) : Nat := (t.store.map msgSize).sum

/-- Whether a message that arrives has its place, or is not for the store. -/
def State.msgReady (s : State) (m : Message) : Bool :=
  match s.bound m with
  | .here => (s.tile m.dst).storeUsed + msgSize m ≤ 64
  | _ => true

/-- What a forward does at its entry: the lifetime is extended, and a message's sender is told (R95). -/
def State.extendEntry (s : State) (tile : Nat) (f : Forward) : State :=
  s.modTile tile fun t => { t with fwd := t.fwd.map fun g =>
    if g.tag = f.tag then { g with expiry := Nat.min g.limit (Nat.max g.expiry (s.tc tile + 65536)) } else g }
def State.forwarded (s : State) (tile : Nat) (f : Forward) (m : Message) : State :=
  (s.extendEntry tile f).emit 7 tile m.src m.ctag (.redirectNotice m.src f.tag tile f.target)

/-- A forwarding entry with one event sent on to the new tile (R95). In deterministic mode a message is collected and
reaches its channel when the next boundary serves it (R111). -/
def State.forward (s : State) (tile : Nat) (f : Forward) (ev : Instr) : State :=
  match ev with
  | .messageArrival m =>
    let m' : Instr := .messageArrival { m with dst := f.target, insn := 0 }
    let n := tagPart f.tag
    let s := s.forwarded tile f m
    if (s.part n).mode = 1 then
      let r : Racing := { tid := { tile := m.src, slot := 0 }, lid := s.logicalId n m.src, slot := 0, cnt := 0, ev := m' }
      s.modPart n fun p => { p with racing := p.racing ++ [r] }
    else s.emit 2 tile f.target m.ctag m'
  | e => (s.extendEntry tile f).post e

/-- Whether a stored message is one that a receive on these terms takes. -/
def msgFits (vec any : Bool) (tag : Nat) (m : Message) : Bool :=
  (m.kind == .sendv) == vec && (any || m.tag == tag)

/-- A message reaches its destination tile (R230). -/
def execMessageArrival (m : Message) (σ : State) : Host.Outcome State Fault Refusal :=
  match σ.bound m with
  | .nowhere => .next (σ.emit 1 m.dst m.src m.ctag (.undeliverableReturn m))
  | .moved f =>
    if f.acked then .next (σ.forward m.dst f (.messageArrival m))
    else
      .next (σ.modTile m.dst fun t => { t with fwd := t.fwd.map fun g =>
        if g.tag = f.tag then { g with queue := g.queue ++ [.messageArrival m] } else g })
  | .here =>
    if σ.msgReady m then
      let σ := σ.modTile m.dst fun t => { t with store := t.store ++ [m] }
      .next (σ.wakeIf fun u (p : Park) => u.tile == m.dst &&
        (match p with
          | .channel vec any tag => msgFits vec any tag m
          | _ => false))
    else .next (σ.post (.messageArrival m))

/-- A message comes back undeliverable: an entry of the sending context's fault log, and the sender's tile
forgets the redirection that failed (R193, R230). -/
def execUndeliverableReturn (m : Message) (σ : State) : Host.Outcome State Fault Refusal :=
  let σ := σ.modTile m.src fun t => { t with redirs := t.redirs.filter fun e => e.new_ ≠ m.dst }
  ends (σ.flog m.ctag
    { ptr := BitVec.ofNat 64 (m.dstId.toNat % 2 ^ 32), insn := m.insn, cause := cUndeliverable
      opnd := BitVec.ofNat 64 (m.payload.toNat % 2 ^ 64), ticket := m.tag, home := (σ.tileId m.dst).toNat })

/-- A redirect notice: eight entries at most, the oldest making room (R230). -/
def execRedirectNotice (tile : Nat) (tag : Tag) (old new_ : Nat) (σ : State) :
    Host.Outcome State Fault Refusal :=
  .next (σ.modTile tile fun t =>
    let rest := t.redirs.filter fun e => !(e.tag == tag && e.old == old)
    { t with redirs := rest.drop (rest.length - 7) ++ [{ tag := tag, old := old, new_ := new_ }] })

/-! ### Order (R225, R401) -/

/-- The source, the tile sent to, the tile bound for and the number of a packet of a Piste that keeps order (R225). -/
def packetKey : Instr → Option (Nat × Nat × Nat × Nat)
  | .messageArrival m => some (m.src, m.dst0, m.dst, m.ord)
  | .spawnArrival m => some (m.src, m.dst0, m.dst, m.ord)
  | _ => none

/-- Whether an earlier packet of the same source, sent or forwarded to the same tile, is still on its way: one in the
torus, at its tile, collected for a boundary, or queued at a forwarding entry (R95, R225). -/
def State.packetBefore (s : State) (e : Instr) : Bool :=
  match packetKey e with
  | none => false
  | some (a, b, c, k) =>
    let earlier (at_ : Nat → Bool) (x : Instr) : Bool := match packetKey x with
      | some (a', b', c', k') => a' == a && (b' == b || at_ c') && k' < k
      | none => false
    (s.agenda.any fun q => earlier (· == c) q.ev) || (s.packets.any fun p => earlier (· == c) p.ev) ||
    ((List.range 8).any fun n => (s.part n).racing.any fun r => earlier (· == c) r.ev) ||
    s.tiles.any fun t => t.2.fwd.any fun f => f.target == c && f.queue.any (earlier fun _ => true)

/-! ### Receiving (R396) -/

/-- The first message a receive on these terms takes, and the store without it. -/
def State.takeMsg (s : State) (vec : Bool) (t : Word) : Option (Message × State) :=
  let fits := msgFits vec (bitAt t 16) (bits t 15 0)
  (s.myTile.store.find? fits).map fun m =>
    (m, s.modMyTile fun ti => { ti with store := dropFirst fits ti.store })

/-- The park of a receive on a tag register. -/
def chanPark (vec : Bool) (t : Word) : Park := .channel vec (bitAt t 16) (bits t 15 0)

/-- A scalar message enters g8–g11, then the sender word gd. -/
def State.gotScalar (s : State) (d : GReg) (m : Message) : State :=
  let w (i : Nat) : Word := BitVec.ofNat 64 (m.payload.toNat / 2 ^ (64 * i))
  (((((s.setG 8 (w 0)).setG 9 (w 1)).setG 10 (w 2)).setG 11 (w 3)).setG d
    (BitVec.ofNat 64 (m.srcId.toNat % 2 ^ 32 + m.tag % 2 ^ 16 * 2 ^ 32 +
      (if m.kind = .reply then 2 ^ 48 else 0)))).retire

def execRecv (d t : GReg) (σ : State) : Host.Outcome State Fault Refusal :=
  match σ.takeMsg false (σ.g t) with
  | some (m, σ') => .next (σ'.gotScalar d m)
  | none => .next (σ.park (chanPark false (σ.g t)))

def execRecvv (v : VReg) (t : GReg) (σ : State) : Host.Outcome State Fault Refusal :=
  match σ.takeMsg true (σ.g t) with
  | some (m, σ') => .next (σ'.modMe (·.setV v m.payload)).retire
  | none => .next (σ.park (chanPark true (σ.g t)))

def execRecvt (d t r : GReg) (σ : State) : Host.Outcome State Fault Refusal :=
  match σ.takeMsg false (σ.g t) with
  | some (m, σ') => .next (σ'.gotScalar d m)
  | none =>
    if σ.me.expired || σ.g r = 0 then .next (σ.setG d (BitVec.allOnes 64)).retire
    else .next (σ.parkFor (chanPark false (σ.g t)) (σ.g r).toNat)

def execProbe (d t : GReg) (σ : State) : Host.Outcome State Fault Refusal :=
  let w := σ.g t
  .next (σ.setG d (BitVec.ofNat 64
    (σ.myTile.store.filter fun m => bitAt w 16 || m.tag == bits w 15 0).length)).retire

end Sys2Proof.Machine
end

