-- ==== Sys2Proof/Machine/Graph.lean ====
section
/-! DEFINITION. The graph engine: node records and their life, predicates, successors, reports, launches and TASK
(R64 to R76, R119 to R121, R251, R413, R414, R446). -/

namespace Sys2Proof.Machine

/-! ### Node records (R66 to R68) -/

def dw (ds : List Word) (i : Nat) : Word := ds.getD i 0
def ndEntry (ds : List Word) : Nat := bits (dw ds 0) 50 2 * 4
def ndPk (ds : List Word) : Nat := bits (dw ds 1) 1 0
def ndX (ds : List Word) : Nat := bits (dw ds 1) 5 2
def ndY (ds : List Word) : Nat := bits (dw ds 1) 9 6
def ndZ (ds : List Word) : Nat := bits (dw ds 1) 13 10
def ndPrio (ds : List Word) : Nat := bits (dw ds 1) 15 14
def ndRdm (ds : List Word) : Nat := bits (dw ds 1) 17 16
def ndCond (ds : List Word) : Bool := bitAt (dw ds 1) 18
def ndDeliv (ds : List Word) : Bool := bitAt (dw ds 1) 19
def ndNin (ds : List Word) : Nat := bits (dw ds 1) 23 20
def ndNsucc (ds : List Word) : Nat := bits (dw ds 1) 31 24
def ndDep (ds : List Word) : Nat := bits (dw ds 1) 47 32
def ndPred (ds : List Word) : Nat := bits (dw ds 2) 50 3 * 8
def ndSucc (ds : List Word) : Nat := bits (dw ds 3) 50 0
def ndArgs (ds : List Word) : List Word := (ds.drop 4).take 4
def ndFps (ds : List Word) : List Word := (ds.drop 8).take (ndNin ds)

/-- The column of a node with a column of its own (R60). -/
def ndColumn (ds : List Word) : Nat := ndY ds * 16 + ndX ds

/-- A footprint range (R67). -/
def fpVa (w : Word) : Nat := bits w 42 0 * 256
def fpLen (w : Word) : Nat := (bits w 56 43 + 1) * 256
def fpBank (w : Word) : Nat := bits w 58 57
def fpOut (w : Word) : Bool := bitAt w 59
def fpIn (w : Word) : Bool := bitAt w 60

def fpMeet (a b : Word) : Bool := fpVa a < fpVa b + fpLen b && fpVa b < fpVa a + fpLen a

/-- Whether two ranges of a list overlap. -/
def fpsMeet : List Word → Bool
  | [] => false
  | w :: ws => ws.any (fpMeet w) || fpsMeet ws

/-- A malformed record (R68), in a partition of `m` compute dies. -/
def ndMalformed (m : Nat) (ds : List Word) : Bool :=
  let fps := ndFps ds
  bits (dw ds 0) 1 0 ≠ 0 || bits (dw ds 0) 63 51 ≠ 0 || bits (dw ds 1) 63 51 ≠ 0 ||
  bits (dw ds 2) 2 0 ≠ 0 || bits (dw ds 2) 63 51 ≠ 0 || bits (dw ds 3) 63 51 ≠ 0 ||
  ndNin ds > 8 || ndPk ds = 3 || (ndPk ds = 0 && ndZ ds ≥ m) || (ndPk ds ≠ 0 && ndZ ds ≠ 0) ||
  (ndDeliv ds && (ndNin ds ≠ 0 || ndPk ds ≠ 0)) || ndRdm ds = 3 || (ndCond ds && ndPred ds = 0) ||
  fpsMeet fps || fps.any fun w => (!fpIn w && !fpOut w) || bits w 63 61 ≠ 0

/-! ### Launches and nodes as the engine holds them -/

def State.launchOf (s : State) (n id : Nat) : Option Launch := (s.part n).launches.find? fun l => l.id = id
def State.modLaunch (s : State) (n id : Nat) (f : Launch → Launch) : State :=
  s.modPart n fun p => { p with launches := p.launches.map fun l => if l.id = id then f l else l }
def State.nodeAt (s : State) (n addr : Nat) : Option Node := (s.part n).nodes.find? fun d => d.addr = addr
def State.modNode (s : State) (n addr : Nat) (f : Node → Node) : State :=
  s.modPart n fun p => { p with nodes := p.nodes.map fun d => if d.addr = addr then f d else d }
def State.dropNode (s : State) (n addr : Nat) : State :=
  s.modPart n fun p => { p with nodes := p.nodes.filter fun d => d.addr ≠ addr }

/-- The containment tag of a launch's root. -/
def Launch.tag (l : Launch) (n : Nat) : Tag := mkTag l.owner.toNat n l.ctx

/-! ### The engine's accesses (R446) -/

/-- The bytes at cells as an engine reads them: a remote window's are free values. -/
def State.peek (s : State) (c : Nat) : Byte :=
  if isRemoteCell c then BitVec.ofNat 8 (Config.freeWord (s.frees + c)).toNat else s.byte c
def State.peekDwords (s : State) (cs : List Nat) : List Word := dwordsOf (cs.length / 8) (cs.map s.peek)

/-- How an access of the engine goes: its cells, with the state in which the engine has its translations, a page fault whose wake retries the event, or no access. -/
inductive Engine where
  | cells (cs : List Nat) (s : State)
  | waits (s : State)
  | bad
  deriving DecidableEq, Repr

/-- The engine's translation of an address: by an entry that it caches, else by a walk (R446). -/
def State.engineSpot (s : State) (n : Nat) (tag : Tag) (priv : Priv) (write : Bool) (va : Nat) : Except Why Spot :=
  let kind : AccKind := if write then .store else .graph
  match (s.part n).gtlb.find? (·.covers tag va) with
  | some e => s.checkLeaf n priv kind va e
  | none => s.translateWalk tag priv kind va
def State.engineReach (s : State) (n : Nat) (tag : Tag) (priv : Priv) (addr len : Nat) (write : Bool) :
    Except Why (List Nat) := reachBy (s.engineSpot n tag priv write) true (len / 4096 + 2) addr len
def State.engineCells (s : State) (n : Nat) (l : Launch) (addr len : Nat) (write : Bool) :
    Except Why (List Nat) := s.engineReach n (l.tag n) l.priv addr len write

/-- The engine keeps the translations of an access that it makes, as a TLB does; how many it holds no rule says
(assumption 143). -/
def State.engineFills (s : State) (n : Nat) (tag : Tag) (priv : Priv) (addr len : Nat) (write : Bool) : State :=
  let pages := (List.range ((addr % 4096 + len + 4095) / 4096)).map fun i => addr / 4096 * 4096 + i * 4096
  pages.foldl (fun s va =>
    match s.engineSpot n tag priv write va, walk s (s.owner tag).ptroot va with
    | .ok _, .leaf e log level pte =>
      if (s.part n).gtlb.any (·.covers tag va) then s
      else s.modPart n fun p => { p with gtlb := fillOf 2048 (fillEntry s tag va e log level pte) p.gtlb }
    | _, _ => s) s

/-- An access of the engine made for an event: a wake with ACT = 1 ends it whatever its page holds by now. -/
def State.engineAccess (s : State) (n : Nat) (l : Launch) (addr len : Nat) (write : Bool) (ev : Instr) : Engine :=
  if (s.part n).gfail.contains ev then .bad
  else
  match s.engineCells n l addr len write with
  | .ok cs => .cells cs (s.engineFills n (l.tag n) l.priv addr len write)
  | .error (.pageFault va q lv pte) =>
    .waits (s.pageFault n (s.faultRec n va 0 6 q lv pte 0xFFF 0 (l.tag n) (.graph ev)))
  | .error (.stray pa) => .waits { s with stray := some pa }
  | .error _ => .bad

/-- The mark of a failed access lapses once it has had its effect. -/
def State.unfail (s : State) (n : Nat) (ev : Instr) : State :=
  s.modPart n fun p => { p with gfail := p.gfail.filter fun e => e != ev }

/-- Whether a fault record stands for a write of the engine to an address that waits for its page. -/
def putsAt (tag : Tag) (addr : Nat) (f : FaultRec) : Bool :=
  match f.who with
  | .put t _ a _ => t == tag && a == addr && !f.void
  | _ => false

/-- A write of the engine to a record, for a launch root at its level. One that meets a page fault waits for its wake and
is made again, while the engine goes on with its cached copy (assumption 110); a later write of the same dword takes its
place. One that its page forbids is not made. -/
def State.enginePutAs (s : State) (n : Nat) (tag : Tag) (priv : Priv) (addr : Nat) (v : Word) : State :=
  if ((s.part n).faultQ ++ (s.part n).faults).any (putsAt tag addr) then
    let renew (f : FaultRec) : FaultRec := if putsAt tag addr f then { f with who := .put tag priv addr v } else f
    s.modPart n fun p => { p with faultQ := p.faultQ.map renew, faults := p.faults.map renew }
  else
    match s.engineReach n tag priv addr 8 true with
    | .ok cs =>
      (s.engineFills n tag priv addr 8 true).storeCells tag
        ((cs.zip (bytesOfNat 8 v.toNat)).filter fun cb => !isRemoteCell cb.1)
    | .error (.pageFault va q lv pte) =>
      s.pageFault n (s.faultRec n va 0 6 q lv pte 0xFFF 0 tag (.put tag priv addr v))
    | .error (.stray pa) => { s with stray := some pa }
    | .error _ => s
def State.enginePut (s : State) (n : Nat) (l : Launch) (addr : Nat) (v : Word) : State :=
  s.enginePutAs n (l.tag n) l.priv addr v

/-- The engine's second dword of a record, in its cache and in memory. The dword is written whole, from the cached copy:
what a task has stored there meanwhile is overwritten, as R76 gives the engine the record (assumption 111). -/
def State.setNodeWord (s : State) (n addr : Nat) (f : Word → Word) (st : Option Nat) : State :=
  match s.nodeAt n addr with
  | none => s
  | some d =>
    let w := f (dw d.dwords 1)
    let s := s.modNode n addr fun d => { d with dwords := d.dwords.set 1 w, state := st.getD d.state }
    match s.launchOf n d.launch with
    | some l => s.enginePut n l (addr + 8) w
    | none => s

/-- A STATE transition (R69). -/
def State.setNodeState (s : State) (n addr st : Nat) : State :=
  s.setNodeWord n addr (fun w => setBits w 50 48 st) (some st)

/-! ### Lift notices (R251) -/

/-- Whether the floor die has a place for a notice of a queue: it holds up to 256 (R251). -/
def State.noticeRoom (s : State) (queue : Nat) : Bool :=
  (s.floor.lift[queue % 9]'(Nat.mod_lt _ (by decide))).held.length < 256

def State.notify (s : State) (queue kind launch : Nat) (value : Word) : State :=
  let q := queue % 9
  let nt : Notice := { lo := BitVec.ofNat 64 (kind % 256 + launch % 2 ^ 16 * 256), hi := value }
  (s.modFloor fun f =>
    let old := f.lift[q]'(Nat.mod_lt _ (by decide))
    { f with lift := f.lift.set q { old with held := old.held ++ [nt] } (Nat.mod_lt _ (by decide)) }).postOnce
    (.liftNoticeWrite q)

/-! ### Reports (R121) -/

/-- A report of the engine, held until the ring has room. -/
def State.report (s : State) (n : Nat) (l : Nat) (number : Nat) (subject reason extra : Nat) (fails cont : Option Nat) :
    State :=
  let r : Report :=
    { lo := BitVec.ofNat 64 subject, launch := l, fails := fails, cont := cont
      hi := BitVec.ofNat 64 (reason % 256 + number % 2 ^ 16 * 2 ^ 8 + extra % 2 ^ 40 * 2 ^ 24) }
  (s.modPart n fun p => { p with reports := p.reports ++ [r] }).postOnce (.graphReportWrite n)

/-- A node fails (R69): STATE 6 is taken when its report is written. -/
def State.failNode (s : State) (n addr reason extra : Nat) : State :=
  match s.nodeAt n addr with
  | none => s
  | some d =>
    match s.launchOf n d.launch with
    | none => s
    | some l => s.report n l.id l.number addr reason extra (some addr) none

/-! ### Queues (R97, R98) -/

/-- The key of a spilled task in a queue of node addresses. -/
def spillKey (tag : Tag) : Nat := 2 ^ 64 + tag.toNat

def colKey (col prio : Nat) : Nat := col * 4 + prio
def State.pushCol (s : State) (n col prio entry : Nat) (front : Bool) : State :=
  s.modPart n fun p =>
    let k := colKey col prio
    let q := SMap.get [] p.colQ k
    { p with colQ := SMap.set [] p.colQ k (if front then entry :: q else q ++ [entry]) }
def State.pushPart (s : State) (n prio entry : Nat) : State :=
  s.modPart n fun p => { p with partQ := SMap.set [] p.partQ prio (SMap.get [] p.partQ prio ++ [entry]) }
/-- An entry leaves every queue of the partition. -/
def State.unqueue (s : State) (n entry : Nat) : State :=
  s.modPart n fun p =>
    let cut (q : SMap (List Nat)) : SMap (List Nat) :=
      (q.map fun e => (e.1, e.2.filter fun x => x ≠ entry)).filter fun e => !e.2.isEmpty
    { p with colQ := cut p.colQ, partQ := cut p.partQ }

/-- A node becomes queued (R69): in the queue of its placement, or on its way to its exact tile. -/
def State.enqueueNode (s : State) (n addr : Nat) : State :=
  match s.nodeAt n addr with
  | none => s
  | some d =>
    let s := s.setNodeState n addr 2
    let s := { s.modNode n addr fun d => { d with seq := s.nextId } with nextId := s.nextId + 1 }
    let ds := d.dwords
    if ndDeliv ds then
      match s.atLogical n (ndX ds) (ndY ds) (ndZ ds) with
      | some t => s.post (.delivNodeDelivery t addr)
      | none => s.failNode n addr 1 0
    else
      let s := if ndPk ds = 1 then s.pushPart n (ndPrio ds) addr else s.pushCol n (ndColumn ds) (ndPrio ds) addr false
      s.postOnce (.nodePlacement n)

/-- A node becomes eligible: its predicate is checked first where it has one. -/
def State.eligible (s : State) (n addr : Nat) : State :=
  match s.nodeAt n addr with
  | none => s
  | some d =>
    let s := s.setNodeState n addr 1
    if ndCond d.dwords then s.post (.predicateCheck n addr) else s.enqueueNode n addr

/-- A record inserted into a launch (R84). -/
def State.insertNode (s : State) (n : Nat) (l : Launch) (addr : Nat) (ds : List Word) : State :=
  let d : Node := { addr := addr, launch := l.id, state := 0, dwords := ds, succ := none, avoid := none, seq := 0, ranBy := none, preds := [] }
  let s := s.modPart n fun p => { p with nodes := p.nodes ++ [d] }
  if ndDep ds = 0 then s.eligible n addr else s

/-- The limit of live nodes in a partition (R84). -/
def nodeLimit : Nat := 65536

/-! ### Dispatch is asked for -/

/-- Whether dispatch to a tile is stopped: step 1 of a role change that affects its layer (R30). -/
def State.drains (s : State) (tile : Nat) : Bool :=
  s.floor.roleBusy && 1 ≤ s.floor.roleStep && s.floor.roleAffect.getLsbD (tileZ tile)

/-- The entries of a work queue that the dispenser may start: DELIV nodes wait for WAITWORK. -/
def Tile.startable (t : Tile) : Bool := t.reserved.isSome || t.workQ.any fun w => !w.deliv

/-- Entries of the work queues that may be started are tried, those too that have waited for a context number (R71); in
deterministic mode they wait for the boundary (R111). -/
def State.startWork (s : State) (n : Nat) : State :=
  if (s.part n).mode = 1 then s
  else
    (s.tiles.filter fun e => s.computeTile n e.1).foldl (fun s e =>
      if s.drains e.1 || !e.2.startable then s
      else if e.2.task.isNone then s.postOnce (.taskStart e.1)
      else s.postOnce (.footprintPrefetch e.1)) s

/-! ### The end of a launch (R120) -/

/-- Whether a SPAWN of a launch has not reached its TEXIT: it counts as a running node (R403). -/
def State.spawnsOf (s : State) (n id : Nat) : Bool :=
  let isIt (e : Instr) : Bool := match e with
    | .spawnArrival m => m.launch == id && tagPart m.caller == n
    | _ => false
  s.agenda.any (fun q => isIt q.ev) || s.packets.any (fun q => isIt q.ev) ||
  (s.part n).racing.any (fun r => isIt r.ev) ||
  s.tiles.any fun e => s.partOfTile e.1 == some n &&
    ((match e.2.task with
      | some k => k.launch == id && k.node == 0
      | none => false) || e.2.workQ.any fun w => w.spawned && w.task.launch == id)

/-- The completion record and the notice of a launch's end; a page fault of DONE waits (R120, R446), and so does an end
whose notice has no place yet (R251). A refused launch ends no context. -/
def State.finishLaunch (s : State) (n id status : Nat) : State :=
  match s.launchOf n id with
  | none => s
  | some l =>
    let ev : Instr := .launchDescriptor l.queue l.desc
    let s := s.modLaunch n id fun l => { l with ending := some status }
    let mine : Bool := (s.ctx (l.tag n)).isRoot && (s.ctx (l.tag n)).launch == id
    let close (s : State) (value : Nat) : State :=
      let s := s.unfail n ev
      let s := s.modPart n fun p => { p with
        launches := p.launches.filter fun x => x.id ≠ id
        streams := p.streams.filter fun st => !(mine && st.broken && st.root == l.tag n) }
      let s := if mine then s.modCtx (l.tag n) fun c => { c with live := false } else s
      (s.notify l.queue 1 l.number (BitVec.ofNat 64 value)).startWork n
    if !s.noticeRoom l.queue then s
    else
    match s.engineAccess n l (bits l.desc.d2 50 4 * 16) 16 true ev with
    | .waits s' => s'
    | .bad => close s 5
    | .cells cs s =>
      let bytes := bytesOfNat 8 l.ok ++ bytesOfNat 8 (l.bad % 2 ^ 32 + status * 2 ^ 56)
      close (s.storeCells (l.tag n) ((cs.zip bytes).filter fun cb => !isRemoteCell cb.1)) status

/-- A launch ends when nothing of it is left to happen. -/
def State.checkLaunch (s : State) (n id : Nat) : State :=
  match s.launchOf n id with
  | none => s
  | some l =>
    if l.ending.isNone && l.todo == some [] && !((s.part n).nodes.any fun d => d.launch = id) &&
        !((s.part n).reports.any fun r => r.launch = id) && !s.spawnsOf n id
    then s.finishLaunch n id (if l.killed then 3 else 0)
    else s

/-- A node has retired or was skipped: its successors are released. -/
def State.retireNode (s : State) (n addr st : Nat) : State :=
  match s.nodeAt n addr with
  | none => s
  | some d =>
    let s := s.setNodeState n addr st
    (s.modLaunch n d.launch fun l => { l with ok := l.ok + 1 }).post (.successorRelease n addr)

/-- A node that a context has run retires: its successors know by whom it was run (R74). -/
def State.retireRun (s : State) (n addr : Nat) (tag : Tag) : State :=
  (s.modNode n addr fun d => { d with ranBy := some tag }).retireNode n addr 4

/-- A record that was never inserted takes STATE 6 (R68). -/
def State.failRoot (s : State) (n : Nat) (l : Launch) (addr : Nat) : State :=
  match s.engineCells n l (addr + 8) 8 false with
  | .ok cs => (s.engineFills n (l.tag n) l.priv (addr + 8) 8 false).enginePut n l (addr + 8) (setBits ((s.peekDwords cs).headD 0) 50 48 6)
  | .error _ => s

/-! ### Events of the engine -/

/-- The oldest report is written where the ring has room (R121). -/
def execGraphReportWrite (part : Nat) (σ : State) : Host.Outcome State Fault Refusal :=
  let p := σ.part part
  match p.reports with
  | [] => .next σ
  | r :: rest =>
    let size := 2 ^ (bits p.grqb 55 51 + 8)
    if (p.grqHead + 2 ^ 32 - p.grqTail) % 2 ^ 32 ≥ size then .next σ
    else
      let at_ := bits p.grqb 50 12 * 4096 + p.grqHead % size * 16
      let σ := (σ.write64 0 at_ r.lo).write64 0 (at_ + 8) r.hi
      let σ := σ.modPart part fun p =>
        { p with reports := rest, grqHead := (p.grqHead + 1) % 2 ^ 32 }
      let σ := match r.fails with
        | some a =>
          let σ := match σ.nodeAt part a, σ.launchOf part r.launch with
            | none, some l => σ.failRoot part l a
            | _, _ => σ.setNodeState part a 6
          (σ.dropNode part a).modLaunch part r.launch fun l => { l with bad := l.bad + 1 }
        | none => σ
      let σ := match r.cont with
        | some a => σ.post (.successorRelease part a)
        | none => σ
      let σ := if rest.isEmpty then σ else σ.postOnce (.graphReportWrite part)
      ends (σ.checkLaunch part r.launch)

/-- The predicate of an eligible node is read and decides (R74). -/
def execPredicateCheck (part node : Nat) (σ : State) : Host.Outcome State Fault Refusal :=
  let ev : Instr := .predicateCheck part node
  match σ.nodeAt part node with
  | none => .next σ
  | some d =>
    match σ.launchOf part d.launch with
    | none => .next σ
    | some l =>
      if d.state ≠ 1 then .next σ
      else
        match σ.engineAccess part l (ndPred d.dwords) 8 false ev with
        | .waits σ' => ends σ'
        | .bad => .next ((σ.unfail part ev).failNode part node 1 0)
        | .cells cs σ =>
          let holder := capHolder (σ.cap (cellGranule (cs.headD 0)))
          if !(cs.any isRemoteCell) && σ.liveTask holder && !d.preds.contains holder then .next (σ.failNode part node 3 0)
          else if (σ.peekDwords cs).headD 0 ≠ 0 then .next (σ.enqueueNode part node)
          else .next (σ.retireNode part node 5)

/-- The listed entries of a SUCC array are released in order, up to one that is passed over (R69). -/
def State.releaseSucc (s : State) (n node : Nat) (l : Launch) : List Word → State
  | [] => (s.dropNode n node).checkLaunch n l.id
  | w :: ws =>
    let live : Bool := match s.nodeAt n w.toNat with
      | some d => d.launch == l.id && d.state == 0 && ndDep d.dwords ≥ 1
      | none => false
    if live then
      let s := s.setNodeWord n w.toNat (fun x => setBits x 47 32 (bits x 47 32 - 1)) none
      let ran := ((s.nodeAt n node).bind (·.ranBy)).toList
      let s := s.modNode n w.toNat fun d => { d with preds := d.preds ++ ran }
      let s := match s.nodeAt n w.toNat with
        | some d => if ndDep d.dwords = 0 then s.eligible n w.toNat else s
        | none => s
      s.releaseSucc n node l ws
    else
      -- the release goes on once the report is written
      (s.modNode n node fun d => { d with succ := some ws }).report n l.id l.number w.toNat 5 0 none (some node)

/-- The successors of a node are released (R69). -/
def execSuccessorRelease (part node : Nat) (σ : State) : Host.Outcome State Fault Refusal :=
  let ev : Instr := .successorRelease part node
  match σ.nodeAt part node with
  | none => .next σ
  | some d =>
    match σ.launchOf part d.launch with
    | none => .next σ
    | some l =>
      match d.succ with
      | some ws => ends (σ.releaseSucc part node l ws)
      | none =>
        if ndNsucc d.dwords = 0 then ends (σ.releaseSucc part node l [])
        else
          match σ.engineAccess part l (ndSucc d.dwords) (8 * ndNsucc d.dwords) false ev with
          | .waits σ' => ends σ'
          | .bad =>
            let σ := (σ.unfail part ev).modNode part node fun d => { d with succ := some [] }
            ends (σ.report part l.id l.number (ndSucc d.dwords) 5 0 none (some node))
          | .cells cs σ => ends (σ.releaseSucc part node l (σ.peekDwords cs))

/-- A write of GRQT may have made room: held reports are written (R121). -/
def execGrqtWrite (σ : State) : Host.Outcome State Fault Refusal :=
  .next (if (σ.part σ.myPart).reports.isEmpty then σ else σ.postOnce (.graphReportWrite σ.myPart))

/-! ### Launch descriptors (R119, R120) -/

def ldNumber (d : LaunchDesc) : Nat := bits d.d0 15 0
def ldNroot (d : LaunchDesc) : Nat := bits d.d0 31 16
def ldRoots (d : LaunchDesc) : Nat := bits d.d1 50 3 * 8
def ldCtx (d : LaunchDesc) : Nat := bits d.d3 12 0
def ldPriv (d : LaunchDesc) : Priv :=
  match bits d.d3 14 13 with
  | 0 => .task | 1 => .supervisor | _ => .steward

def State.liftQ (s : State) (q : Nat) : LiftQueue := s.floor.lift[q % 9]'(Nat.mod_lt _ (by decide))
def State.modLift (s : State) (q : Nat) (f : LiftQueue → LiftQueue) : State :=
  s.modFloor fun fl => { fl with lift := fl.lift.set (q % 9) (f (s.liftQ q)) (Nat.mod_lt _ (by decide)) }

/-- The partition a descriptor concerns: its queue's, or PART on the steward's queue. -/
def ldPart (queue : Nat) (d : LaunchDesc) : Nat := if queue = 8 then bits d.d3 17 15 else queue

/-- A descriptor with a nonzero reserved field, or one that counts as such (R119). -/
def State.ldReserved (s : State) (queue : Nat) (d : LaunchDesc) : Bool :=
  bits d.d0 63 32 ≠ 0 || bits d.d3 63 18 ≠ 0 || d.d4 ≠ 0 || d.d5 ≠ 0 || d.d6 ≠ 0 || d.d7 ≠ 0 ||
  ldNroot d = 0 || bits d.d3 14 13 = 3 ||
  (queue ≠ 8 && (bits d.d3 14 13 = 2 || bits d.d3 17 15 ≠ 0)) ||
  (queue = 8 && !pdescValid (s.pdesc (bits d.d3 17 15)))

/-- Whether a context number is in use (R71). -/
def State.inUse (s : State) (tag : Tag) : Bool :=
  let c := s.ctx tag
  c.live || c.dying || c.await ≠ 0

/-- One root of a launch is inserted (R120); none where its record waits for a page. -/
def State.insertRoot (s : State) (n : Nat) (l : Launch) (ev : Instr) (w : Word) : State × Bool :=
  let bad (s : State) (writes : Bool) : State :=
    if writes then s.report n l.id l.number w.toNat 1 0 (some w.toNat) none
    else (s.report n l.id l.number w.toNat 1 0 none none).modLaunch n l.id fun l => { l with bad := l.bad + 1 }
  if bits w 63 51 ≠ 0 || bits w 6 0 ≠ 0 then (bad s false, true)
  else
    match s.engineAccess n l w.toNat 128 false ev with
    | .waits s' => (s', false)
    | .bad => (bad (s.unfail n ev) false, true)
    | .cells cs s =>
      let ds := s.peekDwords cs
      if (s.nodeAt n w.toNat).isSome then (bad s false, true)
      else if ndMalformed (s.part n).zmap.length ds then (bad s true, true)
      else (s.insertNode n l w.toNat ds, true)

/-- The roots still to insert, in array order. -/
def State.insertRoots (s : State) (n : Nat) (l : Launch) (ev : Instr) : List Word → State
  | [] => s.modLaunch n l.id fun l => { l with todo := some [] }
  | w :: ws =>
    match s.insertRoot n l ev w with
    | (s', true) => s'.insertRoots n l ev ws
    | (s', false) => s'.modLaunch n l.id fun l => { l with todo := some (w :: ws) }

/-- A launch goes on: its array is read, its roots inserted, or its completion record written. -/
def State.runLaunch (s : State) (n : Nat) (l : Launch) : State :=
  let ev : Instr := .launchDescriptor l.queue l.desc
  match l.ending with
  | some st => s.finishLaunch n l.id st
  | none =>
    match l.todo with
    | some ws => (s.insertRoots n l ev ws).checkLaunch n l.id
    | none =>
      match s.engineAccess n l (ldRoots l.desc) (8 * ldNroot l.desc) false ev with
      | .waits s' => s'
      | .bad => ((s.unfail n ev).modLaunch n l.id fun l => { l with todo := some [] }).finishLaunch n l.id 5
      | .cells cs s => (s.insertRoots n l ev (s.peekDwords cs)).checkLaunch n l.id

/-- A descriptor reaches the graph engine, or one that waited for a page goes on. -/
def execLaunchDescriptor (queue : Nat) (d : LaunchDesc) (σ : State) : Host.Outcome State Fault Refusal :=
  -- in recovery the steward queue alone is open (R331)
  if σ.floor.recovery && queue ≠ 8 then .next σ else
  let n := ldPart queue d
  let ev : Instr := .launchDescriptor queue d
  let waiting := (σ.part n).launches.find? fun l =>
    l.queue = queue && l.desc == d && (l.todo ≠ some [] || l.ending.isSome)
  match (if (σ.part n).gwoke.contains ev then waiting else none) with
  | some l =>
    ends ((σ.modPart n fun p => { p with gwoke := p.gwoke.filter fun e => e != ev }).runLaunch n l)
  | none =>
    let owner := (σ.liftQ queue).owner
    let tag := mkTag owner.toNat n (ldCtx d)
    let id := σ.nextId
    let l : Launch :=
      { id := id, number := ldNumber d, owner := owner, ctx := ldCtx d, priv := ldPriv d
        queue := queue, ok := 0, bad := 0, desc := d, todo := none, ending := none, killed := false }
    let enter (σ : State) (l : Launch) : State :=
      ({ σ with nextId := σ.nextId + 1 }).modPart n fun p => { p with launches := p.launches ++ [l] }
    let refuse (st : Nat) : State := (enter σ { l with todo := some [], ending := some st }).finishLaunch n id st
    if σ.ldReserved queue d then
      -- with no valid partition there is no page table to reach DONE through
      if queue = 8 && !pdescValid (σ.pdesc (bits d.d3 17 15)) then
        -- its notice waits for room, and it with it (R251)
        .next (if σ.noticeRoom queue then σ.notify queue 1 (ldNumber d) 1 else σ.post ev)
      else ends (refuse 1)
    else if ldCtx d = 0 || σ.inUse tag then
      ends (refuse 4)
    else if (σ.part n).nodes.length + ldNroot d > nodeLimit then ends (refuse 2)
    else
      let σ := σ.modCtx tag fun _ =>
        { Ctx.zero with live := true, root := ldCtx d, launch := id, priv := ldPriv d, isRoot := true }
      ends ((enter σ l).runLaunch n l)

/-- A doorbell: the descriptors of the submission ring are fetched in ring order (R250). -/
def execLiftDoorbell (queue tail : Nat) (σ : State) : Host.Outcome State Fault Refusal :=
  if σ.floor.recovery && queue ≠ 8 then .next σ else
  let q := σ.liftQ queue
  let σ := σ.modLift queue fun q => { q with subm := q.subm.drop tail }
  .next (σ.postAll ((q.subm.take tail).map fun d => .launchDescriptor queue d))

/-- A place for a notice has come free: the launch that waits to end and the containment record that waits to be written
go on (R251). -/
def State.noticePlace (s : State) (queue : Nat) : State :=
  let s := (List.range 8).foldl (fun s n =>
    ((s.part n).launches.filter fun l => l.queue % 9 == queue % 9 && l.ending.isSome).foldl (fun s l =>
      let ev : Instr := .launchDescriptor l.queue l.desc
      (s.modPart n fun p => { p with gwoke := p.gwoke ++ [ev] }).post ev) s) s
  s.postOnce .containmentRecordWrite

/-- A held notice is written into the completion ring where the host has left room (R251). -/
def execLiftNoticeWrite (queue : Nat) (σ : State) : Host.Outcome State Fault Refusal :=
  let q := σ.liftQ queue
  match q.held with
  | [] => .next σ
  | nt :: rest =>
    if q.room = 0 then .next σ
    else
      let σ := σ.modLift queue fun q =>
        { q with compl := q.compl ++ [nt], held := rest, room := q.room - 1 }
      let σ := if rest.isEmpty then σ else σ.postOnce (.liftNoticeWrite queue)
      .next (if rest.length = 255 then σ.noticePlace queue else σ)

/-! ### TASK (R413, R414) -/

/-- TASK as its thread performs it. -/
def State.taskOp (s : State) (d r : GReg) : State :=
  let a := s.g r
  let n := s.myPart
  if bits a 63 51 ≠ 0 || bits a 6 0 ≠ 0 then s.trap cBadNode a
  else if s.cur.slot ≠ 0 then s.trap cContextMisuse 1
  else if s.dieCopy then s.trap cRedundancy a
  else
    match s.release with
    | some s' => s'
    | none =>
      match (s.access [0] .load (mkPtr 0 a.toNat) true a.toNat 128 1).get 128 with
      | .error w => s.stop 0 .load w
      | .ok (_, cs) =>
        match s.consume s.cur (cs.filter fun c => !isRemoteCell c) with
        | some s' => s'
        | none =>
          let ds := s.peekDwords cs
          if ndMalformed (s.part n).zmap.length ds || (s.nodeAt n a.toNat).isSome then s.trap cBadNode a
          else if (s.part n).nodes.length ≥ nodeLimit then (s.setG d 1).retire
          else
            match s.myTile.task.bind fun k => s.launchOf n k.launch with
            | some l => ((s.insertNode n l a.toNat ds).setG d 0).retire
            | none => s.trap cBadNode a

/-- TASK: in deterministic mode a task-level thread is held until the boundary serves it (R414). -/
def execTask (d r : GReg) (σ : State) : Host.Outcome State Fault Refusal :=
  if σ.det && σ.me.priv == .task then
    let n := σ.myPart
    let q : Racing :=
      { tid := σ.cur, lid := σ.logicalId n σ.cur.tile, slot := σ.cur.slot, cnt := σ.me.count, ev := .task d r }
    .next (σ.modPart n fun p => { p with racing := p.racing ++ [q] }).heldToBoundary
  else ends (σ.taskOp d r)

end Sys2Proof.Machine
end

