-- ==== Sys2Proof/Machine/Translation.lean ====
section
/-! DEFINITION. Page walks, the fault ring and its service, TLB invalidation, dirty logs, granule modes and the
loss of a remote device (R131 to R152, R360, R421). -/

namespace Sys2Proof.Machine

/-! ### Walks (R131, R133) -/

/-- The misses an agent has admitted and still serves. -/
def State.heldWalks (s : State) (c : Nat) : List WalkReq :=
  (SMap.get [] s.walks c).filter fun w => s.agenda.any fun q => q.ev == .pageWalk w

/-- The held misses of a cluster, not yet admitted, oldest first. -/
def State.waitingWalks (s : State) (c : Nat) : List WalkReq :=
  s.agenda.filterMap fun q => match q.ev with
    | .pageWalk w =>
      if clusterOf w.tid.tile == c && !(SMap.get [] s.walks c).contains w && !s.l2Has w then some w else none
    | _ => none

/-- A walk has ended: where a waiting place frees, the agent admits one held miss, by tile in ascending logical id
from the one after the tile it admitted last (R131). -/
def State.walkEnds (s : State) (r : WalkReq) : State :=
  let c := clusterOf r.tid.tile
  let s := { s with walks := SMap.set [] s.walks c (dropFirst (· == r) (s.heldWalks c)) }
  if (s.heldWalks c).length ≥ 18 then s
  else
    let n := (s.partOfTile r.tid.tile).getD 0
    let rank (t : Nat) : Nat := (s.logicalId n t + 4096 - SMap.get 0 s.walkLast c) % 4096
    let best := (s.waitingWalks c).foldl (fun acc w => match acc with
      | none => some w
      | some (v : WalkReq) => if rank w.tid.tile < rank v.tid.tile then some w else acc) none
    match best with
    | some w =>
      { s with walks := SMap.set [] s.walks c (s.heldWalks c ++ [w])
               walkLast := SMap.set 0 s.walkLast c (s.logicalId n w.tid.tile + 1) }
    | none => s

/-- Whether a miss may be answered: it hits in the second level, or it has reached a walker, as one of the two that its
agent serves first (R131). -/
def State.walkReady (s : State) (r : WalkReq) : Bool :=
  let h := s.heldWalks (clusterOf r.tid.tile)
  s.l2Has r || h.length < 2 || (h.take 2).contains r

/-- The entry that a miss finds: its cluster's second level's, or one that a walk gives (R131). -/
def State.resolve (s : State) (r : WalkReq) : Except Walk TlbEntry :=
  let tag := s.tagOf r.tid
  match (SMap.get [] s.l2 (clusterOf r.tid.tile)).find? (·.covers tag r.va) with
  | some e => .ok e
  | none =>
    match walk s (s.owner tag).ptroot r.va with
    | .leaf e log level pte => .ok (fillEntry s tag r.va e log level pte)
    | w => .error w

/-- A cluster's agent answers a miss of a waiting thread: when every check passes the entry fills the TLBs and the thread
reissues; a check that fails is met by the reissue, and nothing is filled (R137); or the thread parks on a page fault,
or it traps. -/
def execPageWalk (r : WalkReq) (σ : State) : Host.Outcome State Fault Refusal :=
  let σ := σ.walkEnds r
  if (σ.thread r.tid).st ≠ .awaiting then .next σ
  else
    let tag := σ.tagOf r.tid
    match σ.resolve r with
    | .ok e =>
      match σ.checkLeaf (tagPart tag) (σ.thread r.tid).priv r.kind r.va e with
      | .ok _ => .next ((σ.fillTlb r.tid.tile r.kind e).modThread r.tid fun th => { th with st := .ready })
      | .error _ => .next (σ.modThread r.tid fun th => { th with st := .ready, walked := some e })
    | .error (.leaf _ _ _ _) => .next σ
    | .error (.invalid level pte) => .next (σ.parkOnFault r.tid r.va r.path r.kind 0 level pte)
    | .error .malformed =>
      ends ((σ.modThread r.tid fun th => { th with st := .ready }).takeTrap r.tid false cTableMalformed
        (BitVec.ofNat 64 r.va) false)
    | .error (.stray pa) => .fault (.noSuchStorage pa)

/-! ### The fault ring (R144 to R148) -/

def ringRoom (head tail log : Nat) : Bool := (head + 2 ^ 32 - tail) % 2 ^ 32 < 2 ^ log

/-- The place of an agent among those of a partition: by logical z and cluster number, the floor die's own last (R317;
assumption 126). -/
def State.agentRank (s : State) (n a : Nat) : Nat := if a < 256 then s.logicalZ n (a / 16) * 16 + a % 16 else 256

/-- The agent whose oldest fault enters the ring of a partition first, of those that are due together (R317). -/
def State.firstAgent (s : State) (n : Nat) (q : List FaultRec) : Option Nat :=
  q.foldl (fun acc f => match acc with
    | none => some f.agent
    | some a => if s.agentRank n f.agent < s.agentRank n a then some f.agent else acc) none

/-- The oldest fault of one agent's queue enters the ring where it has room, and FLTH advances (R144, R317). -/
def execFaultRingCopy (part : Nat) (σ : State) : Host.Outcome State Fault Refusal :=
  let p := σ.part part
  match p.faultQ.find? fun f => some f.agent == σ.firstAgent part p.faultQ with
  | none => .next σ
  | some f =>
    let rest := dropFirst (· == f) p.faultQ
    let log := bits p.fltb 55 51 + 7
    if !ringRoom p.fltHead p.fltSent log then .next σ
    else
      let at_ := bits p.fltb 50 12 * 4096 + p.fltHead % 2 ^ log * 32
      let σ := (((σ.write64 0 at_ f.d0).write64 0 (at_ + 8) f.d1).write64 0 (at_ + 16) f.d2).write64 0 (at_ + 24) f.d3
      let σ := σ.modPart part fun p =>
        { p with faultQ := rest, faults := p.faults ++ [f], fltHead := (p.fltHead + 1) % 2 ^ 32 }
      ends (if rest.isEmpty then σ else σ.postOnce (.faultRingCopy part))

/-- The wake of a served entry. -/
def State.sendWake (s : State) (n : Nat) (f : FaultRec) : State :=
  if f.void then s
  else
    let failed := f.act = some true
    match f.who with
    | .thread t tag =>
      if s.tagOf t = tag && (s.thread t).st = .parked .pageFault then
        let s := if failed then s.modThread t fun th => { th with failed := some (BitVec.ofNat 64 (bits f.d0 50 0)) } else s
        s.wake t
      else s
    | .footprint tile tag =>
      let ev : Instr := .footprintResident tile
      let waits : Bool := match (s.tile tile).task with
        | some k => k.tag == tag
        | none => false
      let waits := waits || (s.tile tile).workQ.any fun w => w.task.tag == tag && w.fetched
      let mark (k : Task) : Task := if k.tag = tag then { k with unserved := true } else k
      if waits then
        (if failed then s.modTile tile fun t =>
            { t with task := t.task.map mark, workQ := t.workQ.map fun w => { w with task := mark w.task } }
          else s).postOnce ev
      else s
    | .put tag priv addr v => if failed then s else s.enginePutAs n tag priv addr v
    | .graph ev =>
      let s := if failed then s.modPart n fun p => { p with gfail := p.gfail ++ [ev] } else s
      let s := match ev with
        | .launchDescriptor _ _ => s.modPart n fun p => { p with gwoke := p.gwoke ++ [ev] }
        | _ => s
      s.post ev

/-- Wakes are sent strictly in fault-queue order (R147). -/
def State.sendWakes (s : State) (n : Nat) : List FaultRec → State
  | [] => s
  | f :: fs =>
    if f.act.isSome || f.void then
      ((s.modPart n fun p => { p with faults := fs, fltSent := (p.fltSent + 1) % 2 ^ 32 }).sendWake n f).sendWakes n fs
    else s

def State.drainWakes (s : State) (n : Nat) : State :=
  let s := s.sendWakes n (s.part n).faults
  if (s.part n).faultQ.isEmpty then s else s.postOnce (.faultRingCopy n)

/-- A write of FLTDONE (R147). -/
def State.serveFault (s : State) (n idx : Nat) (fail : Bool) : State :=
  let i := (idx + 2 ^ 32 - (s.part n).fltSent) % 2 ^ 32
  if i < (s.part n).faults.length then
    (s.modPart n fun p => { p with faults := modAt p.faults i fun f => { f with act := some fail } }).drainWakes n
  else s

def execFltdoneRetry (part idx : Nat) (σ : State) : Host.Outcome State Fault Refusal :=
  .next (σ.serveFault part idx false)
def execFltdoneFail (part idx : Nat) (σ : State) : Host.Outcome State Fault Refusal :=
  .next (σ.serveFault part idx true)

/-- The entries of a context that has ended become VOID, and those not yet in the ring are dropped (R148). -/
def State.voidFaults (s : State) (n : Nat) (tag : Tag) : State :=
  let ofTag (f : FaultRec) : Bool := bits f.d1 39 16 == tag.toNat
  let p := s.part n
  let log := bits p.fltb 55 51 + 7
  let s := (p.faults.zipIdx.filter fun fi => ofTag fi.1).foldl (fun s fi =>
    s.write64 0 (bits p.fltb 50 12 * 4096 + (p.fltSent + fi.2) % 2 ^ log * 32 + 24)
      (setBit fi.1.d3 63 true)) s
  (s.modPart n fun p =>
    { p with faults := p.faults.map fun f => if ofTag f then { f with void := true } else f
             faultQ := p.faultQ.filter fun f => !ofTag f }).drainWakes n

/-! ### Dirty logs (R142, R143) -/

/-- One entry of a log merged: DT is set in the leaf of its page. -/
def State.mergeEntry (s : State) (n tile idx : Nat) : State :=
  let e := s.read64 (dirtyCell tile idx)
  let tag := mkTag (bits e 11 4) n 0
  match walk s (s.owner tag).ptroot (bits e 50 12 * 4096) with
  | .leaf l _ _ pte => s.write64 0 pte (setBit l 11 true)
  | .stray pa => { s with stray := some pa }
  | _ => s

/-- The entries a tile's log holds are merged in log order, as a freeze and a TEXIT have it (R94, R142). -/
def State.mergeDirty (s : State) (tile : Nat) : State :=
  let n := (s.partOfTile tile).getD 0
  let t := s.tile tile
  let s := (List.range (t.dirtyTail - t.dirtyHead)).foldl (fun s i => s.mergeEntry n tile (t.dirtyHead + i)) s
  s.modTile tile fun ti => { ti with dirtyHead := t.dirtyTail }

/-- One step of a merge (R142): a merge takes the entries that the log holds when it begins, sets DT for one after the
other and frees each; those appended meanwhile wait for the next. -/
def execDirtyLogMerge (tile : Nat) (σ : State) : Host.Outcome State Fault Refusal :=
  let t := σ.tile tile
  if t.dirtyHead ≥ t.dirtyTail then .next σ
  else
    let goal := if t.dirtyHead < t.mergeTo then t.mergeTo else t.dirtyTail
    let σ := σ.mergeEntry ((σ.partOfTile tile).getD 0) tile t.dirtyHead
    let σ := σ.modTile tile fun ti => { ti with dirtyHead := t.dirtyHead + 1, mergeTo := goal }
    ends (if t.dirtyHead + 1 < goal || t.dirtyTail - (t.dirtyHead + 1) ≥ 128 then σ.post (.dirtyLogMerge tile) else σ)

/-- DLOGH: held until the entries appended before it are merged (R143); the thread keeps how far that is. -/
def execDlogh (σ : State) : Host.Outcome State Fault Refusal :=
  let goal := (σ.me.outcome.map (·.toNat)).getD σ.myTile.dirtyTail
  if σ.myTile.dirtyHead ≥ goal then .next σ.retire
  else
    .next ((σ.postOnce (.dirtyLogMerge σ.cur.tile)).modMe fun th =>
      { th with outcome := some (BitVec.ofNat 64 goal) }).held

/-! ### TLBINV (R139, R140, R421) -/

/-- Whether an entry is one that a TLBINV removes. -/
def tlbHit (owner : Nat) (k : TlbKind) (v : Word) (e : TlbEntry) : Bool :=
  match k with
  | .page =>
    let va := bits v 50 12 * 4096
    tagOwner e.tag == owner && va / 2 ^ e.log * 2 ^ e.log == e.vbase &&
      (bits v 3 0 == 15 || e.log == 12 + 2 * bits v 3 0)
  | .owner => tagOwner e.tag == owner
  | .win => leafHome e.leaf == 2 && leafWin e.leaf == bits v 11 0 && e.dev == bits v 31 16
  | .all => true

/-- Whether a line of the read-only cache lies in a covered page (R57): by the page it was filled from. -/
def rocHitBy (owner : Nat) (k : TlbKind) (v : Word) (l : RocLine) : Bool :=
  let f := l.fill
  match k with
  | .page =>
    tagOwner l.tag == owner && f.va / 2 ^ f.log == bits v 50 12 * 4096 / 2 ^ f.log &&
      (bits v 3 0 == 15 || f.log == 12 + 2 * bits v 3 0)
  | .owner => tagOwner l.tag == owner
  | .win => isRemoteCell (f.line * 256) && remoteWin (f.line * 256) == bits v 11 0 && f.dev == bits v 31 16
  | .all => true

/-- Entries leave the TLBs of tiles and of their clusters' agents, and a walk that found one begins anew (R138); they leave
the graph engines of partitions too (R446). -/
def State.dropTlb (s : State) (tiles : List Nat) (parts : List Nat) (f : TlbEntry → Bool) (g : RocLine → Bool) : State :=
  let clusters := (tiles.map clusterOf).eraseDups
  let keep (e : TlbEntry) : Bool := !f e
  let s := s.mapTiles fun i t =>
    if tiles.contains i then
      { t with itlb := t.itlb.filter keep, dtlb := t.dtlb.filter keep, roc := t.roc.filter fun l => !g l
               slots := t.slots.map fun (x : Nat × Thread) => (x.1, { x.2 with walked := x.2.walked.filter keep }) }
    else t
  let s := parts.foldl (fun s n => s.modPart n fun p => { p with gtlb := p.gtlb.filter keep }) s
  { s with l2 := s.l2.map fun (e : Nat × List TlbEntry) =>
      if clusters.contains e.1 then (e.1, e.2.filter keep) else e }

def State.invTiles (s : State) (sc : TlbScope) (whole : Bool) : List Nat :=
  match sc with
  | .tile => [s.cur.tile]
  | .col => s.column s.cur.tile
  | .dev => if whole then s.tiles.map (·.1) ++ s.l2.flatMap fun e => clusterTiles e.1 else s.tilesOf s.myPart

/-- The partitions that a scope covers (R139, R446). -/
def State.invParts (s : State) (sc : TlbScope) (whole : Bool) : List Nat :=
  match sc with
  | .dev => if whole then List.range 8 else [s.myPart]
  | _ => []

/-- Whether accesses with a number below `since` that threads of these tiles made through a translation, those of their
matrix units and Kettle commands, collectives they have joined or copies are still to be performed (R140). -/
def State.tlbBusy (s : State) (tiles : List Nat) (since : Nat) : Bool :=
  (s.flight.any fun q => q.1 < since && (accessesOf q.2).any fun a =>
    (a.2.1 == 0 || a.2.1 == 4 || a.2.1 == 5) && a.1.any fun t => tiles.contains t.tile) ||
  (s.unitAccesses.any fun a =>
    (a.2.1 == 0 || 4 ≤ a.2.1 && a.2.1 ≤ 6) && a.1.any fun t => tiles.contains t.tile) ||
  ((List.range 8).any fun n => (s.part n).colls.any fun c => c.parts.any fun p => p.ord < since && tiles.contains p.tile) ||
  s.tiles.any fun e => tiles.contains e.1 && !e.2.engQ.isEmpty

def execTlbinv (r : GReg) (kind : TlbKind) (scope : TlbScope) (σ : State) : Host.Outcome State Fault Refusal :=
  let v := σ.g r
  let w := BitVec.ofNat 64 (encodeWord (.tlbinv r kind scope))
  if σ.me.priv == .task || (kind == .all && σ.me.priv != .steward) then ends (σ.trap cPrivilege w)
  else if kind == .page && 10 ≤ bits v 3 0 && bits v 3 0 ≤ 14 then ends (σ.trap cInvalidOperand v)
  else
    let tiles := σ.invTiles scope (kind == .all)
    let owner := tagOwner σ.myTag
    let σ := σ.dropTlb tiles (σ.invParts scope (kind == .all)) (tlbHit owner kind v) (rocHitBy owner kind v)
    let σ := tiles.foldl (fun s t => s.drainLines t fun _ => true) σ
    -- accesses made before it, buffered stores and copies complete first
    let since := (σ.me.outcome.map (·.toNat)).getD σ.nextId
    if σ.tlbBusy tiles since then
      .next (σ.modMe fun th => { th with outcome := some (BitVec.ofNat 64 since) }).held
    else .next σ.retire

/-! ### Granule modes (R151, R152) -/

/-- The granule that a BKECC value names in the executing tile's local store: none where its bank is absent. -/
def State.bkGranule (s : State) (v : Nat) : Option Nat :=
  (s.bankOf s.cur.tile (v / 2 ^ 12 % 4)).map fun b => bankCell b (v % 2 ^ 10 * 4096) / 4096

/-- Whether a granule is pinned by a task of another owner. -/
def State.pinnedByOther (s : State) (g owner : Nat) : Bool :=
  let hits (k : Task) : Bool := tagOwner k.tag ≠ owner && k.pins.any fun p =>
    bankCell p.bank p.off / 4096 ≤ g && g < (bankCell p.bank p.off + p.bytes + 4095) / 4096
  s.tiles.any fun e => (match e.2.task with
    | some k => hits k
    | none => false) || e.2.workQ.any fun w => hits w.task

/-- The effect of the value that BKECC holds: the granule is zeroed, unmarked, and takes its mode. -/
def State.bkeccEffect (s : State) : State :=
  let v := s.myTile.bkecc.toNat
  match s.bkGranule v with
  | none => s
  | some g =>
    let s := s.zeroGranule g
    { s with vacated := SMap.set false s.vacated g false, gmode := SMap.set 0 s.gmode g (v / 2 ^ 10 % 4) }

def execBkeccWrite (σ : State) : Host.Outcome State Fault Refusal := .next σ.bkeccEffect

/-! ### Remote devices (R149, R150) -/

/-- Entries of one import window leave the TLBs of a partition. -/
def State.dropWindow (s : State) (n win : Nat) : State :=
  s.dropTlb (s.tilesOf n) [n] (fun e => leafHome e.leaf == 2 && leafWin e.leaf == win)
    (fun l => isRemoteCell (l.fill.line * 256) && remoteWin (l.fill.line * 256) == win)

/-- A remote device is lost: its open windows are marked so, and its translations leave every TLB. What was in
flight fails as it completes. -/
def execRemoteDeviceLost (dev : Nat) (σ : State) : Host.Outcome State Fault Refusal :=
  let parts := (List.range 8).filter fun n => pdescValid (σ.pdesc n)
  ends (parts.foldl (fun s n =>
    let wins := (List.range 4096).filter fun w =>
      let e := s.read64 (bits (s.part n).winb 50 17 * 2 ^ 17 + w * 32)
      bits e 1 0 == 1 && bits e 31 16 == dev
    let s := wins.foldl (fun s w => s.setImport n w 2) s
    let s := s.dropTlb (s.tilesOf n) [n] (fun e => leafHome e.leaf == 2 && e.dev == dev)
      (fun l => isRemoteCell (l.fill.line * 256) && l.fill.dev == dev)
    let s := s.loseColls n none (fun w => bits w 31 16 ≠ s.floor.device && wins.contains (bits w 43 32)) wins.contains
    -- senders parked on a refusal of a lost window are woken (R189)
    s.wakeIf fun _ p => match p with
      | .ticket (.remote w) => wins.contains w
      | _ => false) σ)

end Sys2Proof.Machine
end

