-- ==== Sys2Proof/Machine/Tasks.lean ====
section
/-! DEFINITION. Tasks and helpers: context numbers, pinned footprints, the ways a task ends, START, HJOIN, HEXIT,
TEXIT and WAITWORK (R63, R71 to R82, R86, R162, R167, R367, R407, R415, R416, R439, R440). -/

namespace Sys2Proof.Machine

/-! ### Context numbers (R71) -/

/-- The lowest free number of an owner in a partition, from `k` on. -/
def State.numberFrom (s : State) (owner part : Nat) : Nat → Nat → Option Nat
  | 0, _ => none
  | fuel + 1, k => if s.inUse (mkTag owner part k) then s.numberFrom owner part fuel (k + 1) else some k
def State.freeNumber (s : State) (owner part : Nat) : Option Nat := s.numberFrom owner part 8191 1

/-- A context comes into being, its fault log empty. -/
def State.openCtx (s : State) (tag : Tag) (root launch : Nat) (priv : Priv) : State :=
  -- what bore the number before is no predecessor that lives (R74)
  let s := s.modPart (tagPart tag) fun p => { p with nodes := p.nodes.map fun d => { d with preds := d.preds.filter (· ≠ tag) } }
  s.modCtx tag fun _ => { Ctx.zero with live := true, root := root, launch := launch, priv := priv }

/-- A context ends: its number stays in use while a record awaits its answer. -/
def State.closeCtx (s : State) (tag : Tag) : State :=
  s.modCtx tag fun c =>
    if c.await = 0 && !c.dying then Ctx.zero else { c with live := false, halt := none }

/-! ### Capabilities of a context that ends (R167) -/

/-- The granules whose records are not zero. -/
def State.capGranules (s : State) : List Nat :=
  let base := bits s.floor.captb 50 30 * 2 ^ 30
  ((s.mem.filter fun e => base ≤ e.1 && e.1 < base + 768 * 2 ^ 20).map fun e => (e.1 - base) / 8).eraseDups ++
  s.bankCap.map (·.1)

/-- Every capability that a context holds or is to hold goes to the context of the same ROOT, 0 freeing it: so R167 has
it at Avalanche and TEXIT. For a containment ending R63 names the OUT capabilities only; the model gives all of
them back there too (assumption 113). -/
def State.revertCaps (s : State) (tag : Tag) (free : Bool) : State :=
  s.capGranules.foldl (fun s g =>
    let r := s.cap g
    if capHolder r = tag then
      s.setCap g (mkCap (mkTag (tagOwner tag) (tagPart tag) (if free then 0 else capRoot r)) (capMode r) false
        (if free then 0 else capRoot r))
    else s) s

/-! ### Footprints (R70, R162) -/

/-- The granules of a pinned range. -/
def Pin.granules (p : Pin) : List Nat :=
  (List.range ((p.bytes + 4095) / 4096)).map fun i => bankCell p.bank (p.off + i * 4096) / 4096
def Pin.cells (p : Pin) : List Nat := cellsFrom (bankCell p.bank p.off) p.bytes

/-- The records that pinning displaced are restored. -/
def State.unpin (s : State) (pins : List Pin) : State :=
  pins.foldl (fun s p => p.saved.foldl (fun s gr => s.setCap gr.1 gr.2) s) s

/-! ### Dispatch is asked for -/

/-- Whether a thief may have an entry (R103). -/
def stealable (thief victim : Nat) (w : WorkEntry) : Bool :=
  !w.deliv && !w.spawned && !w.fetched && w.task.node ≠ 0 && w.task.copy == 0 &&
  (w.task.pk == 1 || (w.task.pk == 2 && thief % 256 == victim % 256))

/-- An idle tile (R103). -/
def State.idle (s : State) (n t : Nat) : Bool :=
  s.computeTile n t && (s.tile t).task.isNone && (s.tile t).workQ.isEmpty && (s.tile t).reserved.isNone && !s.drains t

def State.stealCount (s : State) (thief victim : Nat) : Nat :=
  ((s.tile victim).workQ.filter (stealable thief victim)).length

/-- The tile of a list with the most entries to steal, ties to the lower logical id. -/
def State.victimIn (s : State) (n thief : Nat) (ts : List Nat) : Option Nat :=
  (ts.foldl (fun (best : Option (Nat × Nat)) v =>
    let k := s.stealCount thief v
    if k = 0 then best
    else
      match best with
      | none => some (v, k)
      | some (b, kb) =>
        if k > kb || (k = kb && s.logicalId n v < s.logicalId n b) then some (v, k) else best) none).map (·.1)

/-- The victim that the dispenser of an idle tile asks: of its column, failing that of its cluster; in replay the one
that the log names (R117). -/
def State.victimOf (s : State) (n thief : Nat) : Option Nat :=
  if s.replaying n then (s.stealOwed n thief).map (·.1) else
  match s.victimIn n thief ((s.column thief).filter fun t => t ≠ thief) with
  | some v => some v
  | none => s.victimIn n thief ((clusterTiles (clusterOf thief)).filter fun t => t ≠ thief)

/-- Whether an idle tile's steal is under way, or has been refused and waits to be made again (R103). -/
def State.stealing (s : State) (tile : Nat) : Bool :=
  s.agenda.any fun q => match q.ev with
    | .stealRequest t _ | .stealAnswer t _ | .stealRetry t => t == tile
    | _ => false

/-- What the dispensers of a partition may now do is put on its way; in deterministic mode they wait for the
boundary (R111). -/
def State.kick (s : State) (n : Nat) : State :=
  if (s.part n).mode = 1 then s
  else
    let here := s.tiles.filter fun e => s.computeTile n e.1
    let s := s.startWork n
    let rich := here.filter fun e => e.2.workQ.any fun w => stealable e.1 e.1 w
    let s := rich.foldl (fun s e =>
      ((s.column e.1) ++ clusterTiles (clusterOf e.1)).foldl (fun s t =>
        if s.idle n t && !s.stealing t then
          match s.victimOf n t with
          | some v => s.postOnce (.stealRequest t v)
          | none => s
        else s) s) s
    -- the grace timers look again too: a node served may have started from a work queue (R104)
    if (s.part n).colQ.isEmpty && (s.part n).partQ.isEmpty && (s.part n).graceAt.isEmpty && !(s.part n).preen then s
    else s.postOnce (.nodePlacement n)

/-! ### How a task leaves its tile (R63) -/

/-- A tile without its task: slots scrubbed, matrix state and message store cleared, queues dropped. -/
def Tile.vacate (t : Tile) : Tile :=
  { t with slots := [], task := none, twins := [], z := Vector.replicate 4 Acc.zero, l := Vector.replicate 2 Latch.zero
           store := [], vq := [], mq := [], subs := [], rotIn := [], rotSkip := []
           ring := t.ring.map fun e => (e.1, if e.2.st = .queued then { e.2 with st := .cancelled } else e.2) }

/-- Events that would answer a thread of a tile, or move the task that left it, are dropped. -/
def State.dropWaits (s : State) (tile : Nat) : State :=
  { s with agenda := s.agenda.filter fun q => !(match q.ev with
      | .loadResponse r => r.tid.tile == tile
      | .pageWalk r => r.tid.tile == tile
      | .feAtHome r => r.tid.tile == tile
      | .atomicAnswer t _ _ _ | .wakeArrival t | .waitTimeout t | .lateFaultDelivery t => t.tile == tile
      | .crossoverStream t | .crossoverResume t _ => t == tile
      | .mrotExchange t | .rotationLost t | .vectorCompletion t | .matrixCompletion t => t == tile
      | _ => false) }

/-- The tiles where a context's task is, or is to be. -/
def State.tilesOfCtx (s : State) (tag : Tag) : List Nat :=
  (s.tiles.filter fun e => match e.2.task with
    | some k => k.tag == tag
    | none => false).map (·.1)

/-- A task is taken out of every tile that holds it or a place for it: footprints unpinned, slots scrubbed,
matrix state and message store cleared; of its engine operations nothing more lands (R63, R271). -/
def State.takeOut (s : State) (tag : Tag) : State :=
  let n := tagPart tag
  let out (s : State) (tile : Nat) : State :=
    let pins := match (s.tile tile).task with
      | some k => k.pins
      | none => []
    let rest := (s.tile tile).engQ.filter fun c => c.tag ≠ tag
    let s := ((s.unpin pins).leaveStreams n tile).modTile tile fun t => { t.vacate with engQ := rest }
    (if rest.isEmpty then s else s.postOnce (.acopyStart tile)).dropWaits tile
  let s := (s.tilesOfCtx tag).foldl out s
  let s := s.unqueue n (spillKey tag)
  s.modPart n fun p => { p with spilled := p.spilled.filter fun x => x.tag ≠ tag }

/-- The task of a context, where one is. -/
def State.taskOf (s : State) (tag : Tag) : Option Task := (s.tileOfCtx tag).bind fun t => (s.tile t).task

/-- What a context has sent that is on its way to its home or waits at one for a slot, each with its number. -/
def State.sentBy (s : State) (tag : Tag) : List (Nat × Instr) :=
  s.flight.filter fun q => match q.2 with
    | .storeAtHome r => r.tag == tag
    | .atomicAtHome r => r.tag == tag
    | .ticketUpdateArrival r => r.tag == tag && s.agenda.any fun p => p.ev == q.2
    | _ => false

/-- Such operations in the order they were sent; one that is listed at its slot and on the agenda counts once. -/
def insertSent (x : Nat × Instr) : List (Nat × Instr) → List (Nat × Instr)
  | [] => [x]
  | y :: ys => if x.1 < y.1 then x :: y :: ys else y :: insertSent x ys
def inSentOrder (xs : List (Nat × Instr)) : List Instr := ((xs.foldl (fun acc x => insertSent x acc) []).map (·.2)).eraseDups

/-- One operation of a context happens at its home at once. -/
def State.landOne (s : State) (e : Instr) : State :=
  let s := { s with agenda := s.agenda.filter fun q => q.ev ≠ e }
  match e with
  | .storeAtHome r => settle s (execStoreAtHome r s)
  | .ticketUpdateArrival r => settle s (execTicketUpdateArrival r s)
  | .atomicAtHome g =>
    let (seated, q) := s.guestsAt g.home
    let s := s.setGuests g.home seated (dropFirst (· == g) q)
    settle s (execAtomicAtHome g s)
  | _ => s

/-- What a context that is about to end has sent is not recalled (R63): it lands now, while the context still holds its
capabilities, and so do the copies that its engine has accepted (assumption 131). -/
def State.landSent (s : State) (tag : Tag) : State :=
  let racing := (s.part (tagPart tag)).racing.filterMap fun r => match r.ev with
    | .atomicAtHome g => if g.tag == tag && !g.ret then some r.ev else none
    | _ => none
  let s := (inSentOrder (s.sentBy tag) ++ racing).foldl State.landOne s
  let s := s.modPart (tagPart tag) fun p => { p with racing := p.racing.filter fun r => !racing.contains r.ev }
  let copies := s.tiles.flatMap fun e => e.2.engQ.filter fun c => c.tag == tag
  let s := copies.foldl (fun s c => c.chunks.foldl (fun s ch => s.chunkLands c ch.1 ch.2) s) s
  s.mapTiles fun _ t => { t with engQ := t.engQ.filter fun c => c.tag ≠ tag }

/-- Forwarding entries of an ended context go; the messages that wait at them come back (R95, R230). -/
def State.dropForwards (s : State) (tag : Tag) : State :=
  let waiting := s.tiles.flatMap fun e => (e.2.fwd.filter fun f => f.tag == tag).flatMap (·.queue)
  let s := s.mapTiles fun _ t => { t with fwd := t.fwd.filter fun f => f.tag ≠ tag }
  s.postAll (waiting.filter fun ev => match ev with
    | .messageArrival _ => true
    | _ => false)

/-- A containment ending (R63): nothing is published, and what was already sent is not recalled; the node returns to
queued, unless the caller sees to it. Windows that the context owns close as at its Avalanche (R188; assumption 131). A DELIV node in delivery fails with reason 4, a code that the manual does not give
for this ending (assumption 114). -/
def State.containEnd (s : State) (tag : Tag) (requeue : Bool) : State :=
  match s.taskOf tag with
  | none => s
  | some k =>
    let n := tagPart tag
    let s := (s.tilesOfCtx tag).foldl (fun s t => s.drainLines t fun l => l.tag == tag) s
    let s := (s.landSent tag).takeOut tag
    let s := (s.windows.filter fun w => w.owner == tag).foldl State.abandonWindow s
    let s := (s.dropForwards tag).revertCaps tag false
    let s := (s.closeCtx tag).voidFaults n tag
    let s := if k.deliv ≠ 0 then s.failNode n k.deliv 4 0 else s
    let s := if requeue && k.node ≠ 0 then s.enqueueNode n k.node else s
    (s.checkLaunch n k.launch).kick n

/-! ### Helpers (R79 to R81, R367, R407) -/

/-- The control context, or a helper of a task: what R78 tells apart. -/
def State.isControl (s : State) : Bool := s.cur.slot == 0

/-- A live helper of a tile (R38). -/
def helperLive (st : SlotSt) : Bool :=
  match st with
  | .free | .exited _ | .stopped => false
  | _ => true
/-- The helper slots: four pairs in thread-redundant mode (R46). -/
def Task.helpers (k : Task) : Nat := if k.rdm = 1 then 4 else 10
def Tile.helpers (t : Tile) : Nat := match t.task with
  | some k => k.helpers
  | none => 10
def Tile.anyLive (t : Tile) : Bool :=
  (List.range t.helpers).any fun i => helperLive (t.thread (i + 1)).st

/-- START (R79): the lowest free helper slot, or 0. -/
def execStart (d r t : GReg) (σ : State) : Host.Outcome State Fault Refusal :=
  if !σ.isControl then ends (σ.trap cContextMisuse 1)
  else
    match σ.myTile.task with
    | none => .next (σ.setG d 0).retire
    | some k =>
      match ((List.range k.helpers).map (· + 1)).find? fun i => (σ.myTile.thread i).st == .free with
      | none => .next (σ.setG d 0).retire
      | some i =>
        let th : Thread :=
          { Thread.zero with st := .ready, pc := BitVec.ofNat 51 (σ.g r).toNat, a := σ.me.a, priv := k.priv }
        let σ := σ.setThread { tile := σ.cur.tile, slot := i } (th.setG 8 (σ.g t))
        .next (σ.setG d (BitVec.ofNat 64 i)).retire

/-- HEXIT (R80): the join value is kept, the bank scrubbed, a join woken. -/
def execHexit (r : GReg) (σ : State) : Host.Outcome State Fault Refusal :=
  if σ.isControl || σ.cur.slot > 10 then ends (σ.trap cContextMisuse 1)
  else
    let v := σ.g r
    let σ := σ.setThread σ.cur { Thread.zero with st := .exited v }
    let σ := (σ.modMyTile (·.detach σ.cur.slot)).retireLast
    .next (σ.wakeIf fun u (p : Park) => u.tile == σ.cur.tile &&
      (p == .helperJoin σ.cur.slot || p == .helperJoin 0))

/-- The join value of a slot that awaits its join; a helper stopped by containment counts as exited (R268). -/
def joinValue (st : SlotSt) : Option Word :=
  match st with
  | .exited v => some v
  | .stopped => some (BitVec.allOnes 64)
  | _ => none

/-- HJOIN (R81). -/
def execHjoin (d r : GReg) (σ : State) : Host.Outcome State Fault Refusal :=
  let h := (σ.g r).toNat
  let limit := σ.myTile.helpers
  if h = 0 then
    if σ.myTile.anyLive then .next (σ.park (.helperJoin 0))
    else
      let σ := (List.range limit).foldl (fun s i =>
        s.setThread { tile := s.cur.tile, slot := i + 1 } Thread.zero) σ
      .next (σ.setG d 0).retire
  else if h > limit || (σ.myTile.thread h).st == .free then ends (σ.trap cContextMisuse 4)
  else
    match joinValue (σ.myTile.thread h).st with
    | none => .next (σ.park (.helperJoin h))
    | some v =>
      let σ := σ.setThread { tile := σ.cur.tile, slot := h } Thread.zero
      .next (σ.setG d v).retire

/-! ### TEXIT (R82, R415) -/

/-- Whether operations of the resident task that TEXIT waits for are still on their way, those through remote windows
among them (R82, R195). -/
def State.taskBusy (s : State) : Bool :=
  let tag := s.myTag
  s.inFlight.any (fun e => (List.range 11).any fun i =>
    s.fenced { tile := s.cur.tile, slot := i } .fab 0xFF e) ||
  s.myTile.engQ.any (fun c => c.tag == tag) ||
  (s.part s.myPart).colls.any (fun c => c.parts.any fun q => q.tag == tag) ||
  s.kettles.any fun e => e.2.queue.any fun k => k.tag == tag

/-- The cells that each OUT range is published to; or why one cannot be. -/
def State.outCells (s : State) (k : Task) : Except Why (List (Pin × List Nat)) :=
  (k.pins.filter (·.out)).foldl (fun acc p =>
    match acc with
    | .error e => .error e
    | .ok out =>
      match s.reachWalk k.tag k.priv .store true (p.bytes / 4096 + 2) p.va p.bytes with
      | .error e => .error e
      | .ok cs => .ok (out ++ [(p, cs)])) (.ok [])

/-- The bank copy of a range is written out, poison with it (R72, R416). -/
def State.publishTo (s : State) (tag : Tag) (src dst : List Nat) : State :=
  (chunksOf src dst).foldl (fun s ch =>
    let s' := s.landChunk tag ch.1 ch.2
    match s.firstPoison ch.1 with
    | some c => s'.record tag 0x43 false (s'.strikeCell (c / 8 * 8))
    | none => s') s

/-- Where a die-pair copy publishes: its shadow slot (R278). -/
def State.shadowBase (s : State) (n slot : Nat) : Nat := bits (s.part n).rdncfg 50 24 * 2 ^ 24 + slot * 2 ^ 24

/-- The OUT ranges of a copy one after another in its shadow. -/
def shadowCells : Nat → List Pin → List (Pin × List Nat)
  | _, [] => []
  | base, p :: ps => (p, cellsFrom base p.bytes) :: shadowCells (base + p.bytes) ps

/-- The pair that a copy belongs to, and the copy's place in it. -/
def State.pairOf (s : State) (n : Nat) (tag : Tag) : Option (DiePair × Nat) :=
  ((s.part n).pairs.find? fun d => d.tags.contains tag).map fun d => (d, d.tags.findIdx (· == tag))

/-- A copy has exited: the comparison follows when every copy has, or waits for its partner (R278, R280). -/
def State.copyExits (s : State) (n : Nat) (tag : Tag) (bad : Bool) : State :=
  match s.pairOf n tag with
  | none => s
  | some (d, i) =>
    let ex := d.exited.set i true
    let bd := if bad then d.bad.set i true else d.bad
    let all := ex.all id && ex.length ≥ 2
    let at_ := s.now + 2 ^ bits (s.part n).rdncfg 60 56
    let s := s.modPart n fun p => { p with pairs := p.pairs.map fun x =>
      if x.node = d.node then { x with exited := ex, bad := bd, expiry := if all then none else some at_ } else x }
    if all then s.post (.digestCompare n d.node) else s.postAt at_ (.partnerWaitExpiry n d.node)

/-- The task publishes, leaves its tile and retires its node. -/
def State.taskEnds (s : State) (k : Task) (outs : List (Pin × List Nat)) : State :=
  let n := tagPart k.tag
  let tile := s.cur.tile
  let s := s.mergeDirty tile
  let s := outs.foldl (fun s o => s.publishTo k.tag o.1.cells o.2) s
  let s := s.revertCaps k.tag false
  let s := s.unpin k.pins
  let s := (s.leaveStreams n tile).modTile tile Tile.vacate
  let s := s.closeCtx k.tag
  let s := if k.deliv ≠ 0 then s.retireRun n k.deliv k.tag else s
  let s := if k.copy ≠ 0 then s.copyExits n k.tag false
    else if k.node ≠ 0 then s.retireRun n k.node k.tag else s
  ((s.checkLaunch n k.launch).kick n).retireLast

def execTexit (σ : State) : Host.Outcome State Fault Refusal :=
  if !σ.isControl then ends (σ.trap cContextMisuse 1)
  else if σ.myTile.anyLive then ends (σ.trap cContextMisuse 2)
  else if σ.windows.any fun w => w.owner == σ.myTag then ends (σ.trap cContextMisuse 3)
  else if !σ.myTile.vq.isEmpty || !σ.myTile.mq.isEmpty then .next σ.held
  else
    let σ := σ.drainLines σ.cur.tile fun _ => true
    if σ.taskBusy then .next σ.held
    else
      match σ.logCheck, σ.myTile.task with
      | some σ', _ => ends σ'
      | none, none => .next σ.held
      | none, some k =>
        match σ.pairOf σ.myPart k.tag with
        | some (d, i) => ends (σ.taskEnds k (shadowCells (σ.shadowBase σ.myPart (d.slots.getD i 0)) (k.pins.filter (·.out))))
        | none =>
          match σ.outCells k with
          | .error (.pageFault va q l p) => .next (σ.parkOnFault σ.cur va 0 .store q l p)
          | .error w => ends (σ.stop 0 .store w)
          | .ok outs => ends (σ.taskEnds k outs)

/-! ### WAITWORK (R86, R439) -/

/-- The oldest entry of the highest priority that `f` accepts. -/
def bestEntry (f : WorkEntry → Bool) (q : List WorkEntry) : Option WorkEntry :=
  q.foldl (fun best w =>
    if !f w then best
    else
      match best with
      | none => some w
      | some b => if w.task.prio > b.task.prio then some w else best) none

/-- The work queue without one entry. -/
def Tile.takeEntry (t : Tile) (w : WorkEntry) : Tile := { t with workQ := dropFirst (· == w) t.workQ }

def execWaitwork (d : GReg) (σ : State) : Host.Outcome State Fault Refusal :=
  if !σ.isControl then ends (σ.trap cContextMisuse 1)
  else
    match σ.myTile.task with
    | none => ends (σ.trap cContextMisuse 5)
    | some k =>
      if k.node = 0 || k.pk ≠ 0 then ends (σ.trap cContextMisuse 5)
      else
        let n := σ.myPart
        let setTask (s : State) (f : Task → Task) : State :=
          s.modMyTile fun t => { t with task := t.task.map f }
        -- the node delivered by the previous wake retires
        let σ := if k.deliv ≠ 0 then (setTask σ fun k => { k with deliv := 0 }).retireRun n k.deliv k.tag else σ
        match bestEntry (·.deliv) σ.myTile.workQ with
        | some w =>
          let σ := σ.modMyTile (·.takeEntry w)
          let σ := (setTask σ fun k => { k with deliv := w.task.node, recalled := false, called := false }).setNodeState n w.task.node 3
          let x (i : Nat) : Word := w.task.args.getD i 0
          let σ := (((σ.setG 8 (x 0)).setG 9 (x 1)).setG 10 (x 2)).setG 11 (x 3)
          ends ((σ.setG d (BitVec.ofNat 64 w.task.node)).retire.kick n)
        | none =>
          if k.recalled || (σ.drains σ.cur.tile && !k.called) then
            let σ := setTask σ fun k => { k with recalled := false, called := true }
            let σ := (((σ.setG 8 0).setG 9 0).setG 10 0).setG 11 0
            .next (σ.setG d 0).retire
          else .next (σ.park .work)

/-- The dispenser recalls a task whose control context is parked in WAITWORK (R86). -/
def State.callBack (s : State) (tile : Nat) : State :=
  let t : ThreadId := { tile := tile, slot := 0 }
  if (s.thread t).st = .parked .work then
    (s.modTile tile fun ti => { ti with task := ti.task.map fun k => { k with recalled := true } }).wake t
  else s

/-- A DELIV node reaches the work queue of its tile and wakes a waiting WAITWORK (R75); a full queue keeps it
waiting. -/
def execDelivNodeDelivery (tile node : Nat) (σ : State) : Host.Outcome State Fault Refusal :=
  let n := (σ.partOfTile tile).getD 0
  match σ.nodeAt n node with
  | none => .next σ
  | some d =>
    if (σ.tile tile).workQ.length ≥ 16 then .next (σ.post (.delivNodeDelivery tile node))
    else
      let k : Task :=
        { tag := 0, root := 0, launch := d.launch, priv := .task, prio := ndPrio d.dwords, node := node, pk := 0
          rdm := 0, copy := 0, entry := 0, args := ndArgs d.dwords, fps := [], pins := [], caller := 0
          callTile := 0, rtag := 0, recalled := false, called := false, deliv := 0, phase := .fetching
          unserved := false, dest := none, started := σ.now }
      let w : WorkEntry := { task := k, deliv := true, spawned := false, fetched := false }
      let σ := σ.modTile tile fun t => { t with workQ := t.workQ ++ [w] }
      .next (σ.wakeIf fun u p => u.tile == tile && p == .work)

end Sys2Proof.Machine
end

