-- ==== Sys2Proof/Machine/Crossover.lean ====
section
/-! DEFINITION. Crossover: the freeze, the stream and the resumption of a moved task, forwarding entries, MIGRATE
and the spill area (R83, R85, R91 to R95, R106, R189, R364, R387). -/

namespace Sys2Proof.Machine

/-! ### Where a task's things lie -/

/-- The number under which the state keeps a task in a spill slot: above every tile, with the coordinates of
the tile it left. -/
def spillTile (slot src : Nat) : Nat := 4096 * (slot + 1) + src % 4096

/-- A task's pins at another tile: the same offsets on the same paths (R93). -/
def State.repin (s : State) (dst : Nat) (pins : List Pin) : Option (List Pin) :=
  pins.foldl (fun acc p =>
    match acc, s.bankFor dst p.path with
    | some ps, some b => some (ps ++ [{ p with bank := b, saved := [] }])
    | _, _ => none) (some [])

/-- The granules that resident and prefetched tasks hold pinned, reservations included. -/
def State.pinned (s : State) : List Nat :=
  s.tiles.flatMap fun e =>
    (match e.2.task with
      | some k => k.pins.flatMap Pin.granules
      | none => []) ++ e.2.workQ.flatMap fun w => w.task.pins.flatMap Pin.granules

/-- Whether a granule may be pinned: no one holds it, and it is no dirty log (R54, R128). -/
def State.granuleFree (s : State) (held : List Nat) (g : Nat) : Bool := !held.contains g && !s.dirtyGranule g

/-- Whether a task's granules are free at a target (R93). -/
def State.roomAt (s : State) (dst : Nat) (pins : List Pin) : Bool :=
  match s.repin dst pins with
  | none => false
  | some ps => let held := s.pinned; ps.all fun p => p.granules.all (s.granuleFree held)

/-- Pins taken: the displaced records are kept, the task's own written, in exclusive mode, the vacated marks lapse (R162,
R445). -/
def State.takePins (s : State) (tag : Tag) (root : Nat) (pins : List Pin) : State × List Pin :=
  pins.foldl (fun acc p =>
    let s := acc.1
    let saved := p.granules.map fun g => (g, s.cap g)
    let s := p.granules.foldl (fun s g =>
      { (s.setCap g (mkCap tag 0 false root)) with vacated := SMap.set false s.vacated g false }) s
    (s, acc.2 ++ [{ p with saved := saved }])) (s, [])

/-! ### Moving granules -/

/-- Entries of a sparse array whose keys lie in a range, moved to another base; what lay there goes. -/
def moveRange {α : Type} (m : SMap α) (lo hi n : Nat) : SMap α :=
  let kept := m.filter fun e => !(hi ≤ e.1 && e.1 < hi + n)
  (m.filter fun e => lo ≤ e.1 && e.1 < lo + n).foldl (fun m e => SMap.put m (hi + (e.1 - lo)) e.2) kept

/-- A granule's data, side bytes, full/empty bits, poison and mode travel. -/
def State.moveGranule (s : State) (a b : Nat) : State :=
  if a = b then s
  else
    let sa := 2 ^ 64 + (a * 4096 - 2 ^ 63) / 4
    let sb := 2 ^ 64 + (b * 4096 - 2 ^ 63) / 4
    { s with
      mem := moveRange (moveRange s.mem (a * 4096) (b * 4096) 4096) sa sb 1024
      fe := moveRange s.fe (a * 512) (b * 512) 512
      feq := moveRange s.feq (a * 512) (b * 512) 512
      pois := moveRange s.pois (a * 512) (b * 512) 512
      poisTag := moveRange s.poisTag (a * 16) (b * 16) 16
      lineTag := moveRange s.lineTag (a * 16) (b * 16) 16
      gmode := moveRange s.gmode a b 1 }

/-- How a move renames: granules and a tile. -/
structure Rename where
  grans : List (Nat × Nat)
  src   : Nat
  dst   : Nat
  deriving DecidableEq, Repr

def Rename.gran (r : Rename) (g : Nat) : Nat :=
  match r.grans.find? fun p => p.1 = g with
  | some p => p.2
  | none => g
def Rename.cell (r : Rename) (c : Nat) : Nat :=
  if isBankCell c then r.gran (c / 4096) * 4096 + c % 4096 else c
def Rename.tid (r : Rename) (t : ThreadId) : ThreadId := if t.tile = r.src then { t with tile := r.dst } else t
def Rename.home (r : Rename) (c : Nat) (h : Home) : Home :=
  if r.cell c = c then h else .bank (cellBank (r.cell c))

def Rename.laneSrc (r : Rename) (l : LaneSrc) : LaneSrc :=
  { l with cells := l.cells.map r.cell, scale := l.scale.map r.cell }
def Rename.dest (r : Rename) : LoadDest → LoadDest
  | .raw d sz cs => .raw d sz (cs.map r.cell)
  | .elem d f k src => .elem d f k (r.laneSrc src)
  | .lanes v f k srcs => .lanes v f k (srcs.map r.laneSrc)
def Rename.guest (r : Rename) (g : GuestOp) : GuestOp :=
  { g with tid := r.tid g.tid, cell := r.cell g.cell, home := r.home g.cell g.home }
def Rename.upd (r : Rename) (u : TkUpd) : TkUpd :=
  { u with tid := r.tid u.tid, cell := r.cell u.cell, home := r.home u.cell u.home }

/-- An event as it stands after a move: what was on its way to the old tile reaches the new one, as the
forwarding entry has it (R95). -/
def Rename.ev (r : Rename) : Instr → Instr
  | .loadResponse q => .loadResponse { q with tid := r.tid q.tid, dest := r.dest q.dest }
  | .storeAtHome q => .storeAtHome { q with tid := r.tid q.tid, cells := q.cells.map fun cb => (r.cell cb.1, cb.2) }
  | .feAtHome q => .feAtHome { q with tid := r.tid q.tid, cell := r.cell q.cell }
  | .atomicAtHome g => .atomicAtHome (r.guest g)
  | .atomicAnswer t d ret a => .atomicAnswer (r.tid t) d ret a
  | .ticketUpdateArrival u => .ticketUpdateArrival (r.upd u)
  | .wakeArrival t => .wakeArrival (r.tid t)
  | .waitTimeout t => .waitTimeout (r.tid t)
  | .lateFaultDelivery t => .lateFaultDelivery (r.tid t)
  | .pageWalk q => .pageWalk { q with tid := r.tid q.tid }
  | e => e

def Rename.park (r : Rename) : Park → Park
  | .fullEmpty c => .fullEmpty (r.cell c)
  | .barrierObject c => .barrierObject (r.cell c)
  | p => p

def Rename.thread (r : Rename) (t : Thread) : Thread :=
  let st := match t.st with
    | .parked p => .parked (r.park p)
    | x => x
  { t with st := st, mons := t.mons.map fun m => { m with line := r.cell (m.line * 256) / 256 } }

def Rename.tile (r : Rename) (t : Tile) : Tile :=
  { t with slots := t.slots.map (fun (e : Nat × Thread) => (e.1, r.thread e.2))
           guests := t.guests.map (fun (e : Nat × GuestOp) => (e.1, r.guest e.2)), guestQ := t.guestQ.map r.guest
           engQ := t.engQ.map (fun c =>
             { c with bo := r.cell c.bo, chunks := c.chunks.map fun x => (x.1.map r.cell, x.2.map r.cell) }) }

def Rename.faultFor (r : Rename) : FaultFor → FaultFor
  | .thread t tag => .thread (r.tid t) tag
  | .footprint tile tag => .footprint tile tag
  | .graph ev => .graph ev
  | .put tag p a v => .put tag p a v

def Rename.part (r : Rename) (p : Partition) : Partition :=
  let f (x : FaultRec) : FaultRec := { x with who := r.faultFor x.who }
  { p with faultQ := p.faultQ.map f, faults := p.faults.map f, wakes := p.wakes.map r.tid
           racing := p.racing.map (fun q => { q with tid := r.tid q.tid, ev := r.ev q.ev })
           streams := p.streams.map (fun st =>
             { st with subs := st.subs.map fun x => (if x.1 = r.src then r.dst else x.1, x.2) })
           hold := p.hold.map (fun h => { h with wakes := h.wakes.map r.tid }) }

def Rename.window (r : Rename) (w : TicketWindow) : TicketWindow :=
  { w with
    granules := w.granules.map r.gran
    homes := (w.granules.map fun g => if r.gran g = g then none else some (Home.bank (cellBank (r.gran g * 4096)))
      ).filterMap id ++ (w.homes.filter fun h => w.granules.any fun g => r.gran g == g && (match h with
        | .bank t => 2 ^ 63 ≤ g * 4096 && cellBank (g * 4096) == t
        | _ => g * 4096 < 2 ^ 63))
    cursors := w.cursors.foldl (fun m e => SMap.put m (r.cell (e.1 * w.width) / w.width) e.2) []
    caddy := w.caddy.map fun e => { e with upd := r.upd e.upd } }

/-- A guest operation reaches the home that its location has moved to, under the number it was sent with. -/
def State.forwardGuest (s : State) (g : GuestOp) : State :=
  let (seated, q) := s.guestsAt g.home
  match s.freeGuest g.home with
  | some i => if q.isEmpty then s.seatGuest g.home i g else s.setGuests g.home seated (q ++ [g])
  | none => s.setGuests g.home seated (q ++ [g])

/-- The whole device after a move. -/
def State.rename (s : State) (r : Rename) : State :=
  let s := { s with
    agenda := s.agenda.map (fun (q : Pending) => ({ q with ev := r.ev q.ev } : Pending))
    feq := s.feq.map (fun (e : Nat × List FeWait) => (e.1, e.2.map fun (w : FeWait) => ({ w with tid := r.tid w.tid } : FeWait)))
    ctxs := s.ctxs.map (fun (e : Nat × Ctx) =>
      (e.1, { e.2 with halt := e.2.halt.map r.tid, killer := e.2.killer.map (fun (k : ThreadId × GReg) => (r.tid k.1, k.2)) }))
    windows := s.windows.map r.window
    wakers := moveRange s.wakers (r.src * 16) (r.dst * 16) 16
    deliveries := s.deliveries.map (fun (d : Delivery) => if d.tile = r.src then { d with tile := r.dst } else d)
    kettles := s.kettles.map (fun (e : Nat × Kettle) =>
      (e.1, { e.2 with
        guests := e.2.guests.map (fun (g : Nat × GuestOp) => (g.1, r.guest g.2)), waitQ := e.2.waitQ.map r.guest
        queue := e.2.queue.map fun (k : KCommand) => ({ k with tid := r.tid k.tid } : KCommand) })) }
  -- what waits at an old home for a slot is forwarded to the new one, in arrival order (R95, R190)
  let moved (g : GuestOp) : Bool := r.cell g.cell ≠ g.cell
  let late := (s.tiles.flatMap fun e => e.2.guestQ.filter moved).map r.guest
  let s := s.mapTiles fun _ t => r.tile { t with guestQ := t.guestQ.filter fun g => !moved g }
  let s := late.foldl State.forwardGuest s
  (List.range 8).foldl (fun s n => s.modPart n r.part) s

/-! ### The freeze (R94) -/

/-- Whether a task may be moved by a Crossover: no thread parked at a barrier wire, no wires granted to its launch
(R93, R233), no Avalanche that ends the move (R107). -/
def State.mayCross (s : State) (src : Nat) (k : Task) : Bool :=
  let b := (s.part (tagPart k.tag)).barctl
  !(s.ctx k.tag).dying && !(bitAt b 13 && bits b 12 0 == k.root) &&
  !(s.tile src).slots.any fun e => match e.2.st with
    | .parked (.wire _ _) => true
    | _ => false

/-- Whether a tile has no forwarding entry free: a Crossover from it waits for one to expire (R95). -/
def State.fwdFull (s : State) (src : Nat) : Bool := src < 4096 && (s.tile src).fwd.length ≥ 8

/-- In how many cycles an entry of a tile may next be free. -/
def State.fwdFree (s : State) (src : Nat) : Nat :=
  Nat.max 1 ((((s.tile src).fwd.filter (·.acked)).map fun f => f.expiry - s.tc src).foldl Nat.min 65536)

/-- The freeze begins: no thread of the task issues, its combined stores leave (R129), the target is reserved, the
forwarding entry installed, the dirty log merged. -/
def State.startCross (s : State) (src dst : Nat) : State :=
  match (s.tile src).task with
  | none => s
  | some k =>
    match s.repin dst k.pins with
    | none => s
    | some ps =>
      let s := (s.mergeDirty src).drainLines src fun l => l.tag == k.tag
      let s := s.modTile src fun t => { t with task := some { k with phase := .freezing, dest := some dst } }
      let s := s.modTile dst fun t => { t with task := some { k with phase := .streaming, pins := ps, dest := none } }
      let f : Forward :=
        { tag := k.tag, root := k.root, target := dst, acked := false, queue := [], expiry := 0, limit := 0 }
      let s := if src < 4096 then s.modTile src fun t => { t with fwd := t.fwd ++ [f] }
        else s.mapTiles fun _ t => { t with fwd := t.fwd.map fun g =>
          if g.tag = k.tag then { g with target := dst } else g }
      s.post (.crossoverStream src)

/-- Whether the freeze waits for a thread that is held at a DLOGH, a FENCE or a TLBINV, which completes at the source
(R360, R365, R421). One that only a boundary can release is waited for where nothing of its tile is left to be served. -/
def State.lingers (s : State) (t : ThreadId) : Bool :=
  (match (s.thread t).st with
    | .held => true
    | .boundary => !((s.part ((s.partOfTile t.tile).getD 0)).racing.any fun r => r.tid.tile == t.tile)
    | _ => false) &&
  (match s.fetch t with
    | .insn .dlogh | .insn (.fence _ _) | .insn (.tlbinv _ _ _) => true
    | _ => false)

/-- Whether a frozen task has drained (R94): its units' queues are empty, its loads and other results returned, the
instructions it is held at complete, its copies and collectives over, and the guest operations that have begun at its
granules done (R190), and its Kettle commands over (R321). Posted stores and updates are not waited for (R406). -/
def State.drained (s : State) (src : Nat) (k : Task) : Bool :=
  let gs := k.pins.flatMap Pin.granules
  let t := s.tile src
  t.vq.isEmpty && t.mq.isEmpty &&
  !(t.slots.any fun e => s.lingers { tile := src, slot := e.1 }) &&
  !(t.engQ.any fun c => c.tag == k.tag) &&
  !(s.kettles.any fun e => e.2.queue.any fun c => c.tag == k.tag) &&
  !((s.part (tagPart k.tag)).colls.any fun c => c.parts.any fun q => q.tag == k.tag) &&
  !(s.tiles.any fun e => e.2.guests.any fun g => gs.contains (g.2.cell / 4096)) &&
  !((s.agenda.map (·.ev) ++ s.guestOps.map (·.2)).any fun e => match e with
      | .loadResponse r => r.tid.tile == src
      | .pageWalk r => r.tid.tile == src
      | .atomicAnswer u _ _ _ => u.tile == src
      | .feAtHome r => r.tid.tile == src
      | .atomicAtHome r => r.ret && r.tid.tile == src
      | .lateFaultDelivery u => u.tile == src
      | .windowInstall _ w => s.windows.any fun x => x.id == w && x.granules.any gs.contains
      | _ => false)

/-- Threads of a frozen task with a late fault: it is delivered before the stream (R94). -/
def State.lateIn (s : State) (src : Nat) : Option ThreadId :=
  ((s.tile src).slots.find? fun e => e.2.late.isSome).map fun e => { tile := src, slot := e.1 }

/-- What of a tile travels with its task, put into another tile (R94). -/
def Tile.carry (src dst : Tile) (k : Task) : Tile :=
  { dst with slots := src.slots
             -- a wait for a trailing twin counts anew at the target
             twins := src.twins.map fun (e : Nat × Twin) => (e.1, { e.2 with limit := none })
             task := some k
             z := src.z
             l := src.l
             store := src.store
             subs := src.subs
             rotIn := src.rotIn
             rotSkip := src.rotSkip }

/-- The stream: once drained, the task's threads, matrix state, messages and granules stand at the target. A
task that ends in its freeze frees the target. -/
def execCrossoverStream (tile : Nat) (σ : State) : Host.Outcome State Fault Refusal :=
  match (σ.tile tile).task with
  | none => .next σ
  | some k =>
    match k.phase, k.dest with
    | .freezing, some dst =>
      if (σ.ctx k.tag).dying then
        -- an Avalanche ends the move; its confirmation releases the target (R107)
        .next σ
      else if !σ.drained tile k then .next (σ.post (.crossoverStream tile))
      else
        match (σ.tile dst).task with
        | none => .next σ
        | some kd =>
          let gs := (k.pins.zip kd.pins).flatMap fun pq => pq.1.granules.zip pq.2.granules
          let σ := gs.foldl (fun s g => s.moveGranule g.1 g.2) σ
          -- the granules' records travel as they are (R167)
          let recs := gs.map fun g => (g.2, σ.cap g.1)
          let (σ, ps) := σ.takePins k.tag k.root kd.pins
          let σ := recs.foldl (fun s x => s.setCap x.1 x.2) σ
          let σ := σ.unpin k.pins
          let src := σ.tile tile
          let σ := σ.modTile dst fun d => src.carry d { k with phase := .streaming, pins := ps, dest := none }
          let σ := σ.modTile tile Tile.vacate
          let σ := σ.rename { grans := gs, src := tile, dst := dst }
          -- the count of every wait stops from here to the resumption, a stay in a spill slot included: what is left of it
          let σ := if tile < 4096 && (σ.part (tagPart k.tag)).mode = 0 then
              σ.modTile dst fun d => { d with slots := d.slots.map fun (e : Nat × Thread) =>
                (e.1, { e.2 with expiry := e.2.expiry.map (· - σ.tc tile) }) }
            else σ
          -- who was refused at a home that moved asks again at the new one
          let banks := gs.map fun g => Home.bank (cellBank (g.1 * 4096))
          let σ := σ.wakeIf fun _ (p : Park) => match p with
            | .ticket h => banks.contains h
            | _ => false
          .next ((σ.post (.crossoverResume tile dst)).kick (tagPart k.tag))
    | _, _ => .next σ

/-! ### Resumption and forwarding (R94, R95) -/

/-- The ticks of a tile's clock since the notice of the hold of its partition. -/
def State.sinceNotice (s : State) (tile : Nat) (h : Hold) : Nat := s.tc tile - { s with now := h.since, lags := h.lags }.tc tile

/-- The waits of a tile's threads count on at a task's new tile, on its clock (R4, R92, R94). Of a hold that has been called
meanwhile only what is left of it stops them: its release adds the whole time since the notice (R91). -/
def State.resumeWaits (s : State) (tile : Nat) : State :=
  let gone := ((s.part ((s.partOfTile tile).getD 0)).hold.map (s.sinceNotice tile)).getD 0
  let s := s.modTile tile fun t => { t with slots := t.slots.map fun (e : Nat × Thread) =>
    (e.1, { e.2 with expiry := e.2.expiry.map (· + s.tc tile - gone) }) }
  let mine (e : Instr) : Bool := match e with
    | .waitTimeout t => t.tile == tile
    | _ => false
  let s := { s with agenda := s.agenda.filter fun q => !mine q.ev }
  (s.tile tile).slots.foldl (fun s e => match e.2.expiry with
    | some at_ => s.postAt at_ (.waitTimeout { tile := tile, slot := e.1 })
    | none => s) s

/-- The last byte has arrived: the threads start in the state each left, and an acknowledgement returns. A task
in a spill slot waits in its column's queue. -/
def execCrossoverResume (_tile target : Nat) (σ : State) : Host.Outcome State Fault Refusal :=
  match (σ.tile target).task with
  | none => .next σ
  | some k =>
    let n := tagPart k.tag
    if k.phase ≠ .streaming || (σ.ctx k.tag).dying then .next σ
    else if target ≥ 4096 then
      -- the task is in its slot and waits to be resumed
      .next (σ.kick n)
    else
      let σ := σ.modTile target fun t =>
        { t with task := some { k with phase := .running }, roc := [], ring := [], ringNext := 0 }
      let σ := if (σ.part n).mode = 0 then σ.resumeWaits target else σ
      -- a task that is back where a forwarding entry names it takes what waits there
      let back := (σ.tile target).fwd.filter fun f => f.tag == k.tag
      let σ := σ.modTile target fun t => { t with fwd := t.fwd.filter fun f => f.tag ≠ k.tag }
      let σ := back.foldl (fun s f => s.postAll f.queue) σ
      let olds := (σ.tiles.filter fun e => e.2.fwd.any fun f => f.tag == k.tag && !f.acked).map (·.1)
      .next ((σ.postAll (olds.map fun o => .crossoverAck o target)).kick n)

/-- The acknowledgement reaches a tile the task left: what waited is forwarded in order, and the entry's life
begins to run. -/
def execCrossoverAck (tile target : Nat) (σ : State) : Host.Outcome State Fault Refusal :=
  match (σ.tile tile).fwd.find? fun f => f.target = target && !f.acked with
  | none => .next σ
  | some f =>
    let g : Forward := { f with acked := true, queue := [], expiry := σ.tc tile + 65536, limit := σ.tc tile + 2 ^ 20 }
    let σ := σ.modTile tile fun t => { t with fwd := t.fwd.map fun x => if x.tag = f.tag then g else x }
    let σ := f.queue.foldl (fun s ev => s.forward tile g ev) σ
    .next (σ.postIn 65536 (.forwardingExpiry tile f.tag))

/-- A forwarding entry's time is over, unless a forward has extended it. -/
def execForwardingExpiry (tile : Nat) (tag : Tag) (σ : State) : Host.Outcome State Fault Refusal :=
  match (σ.tile tile).fwd.find? fun f => f.tag = tag && f.acked with
  | none => .next σ
  | some f =>
    if σ.tc tile < f.expiry then .next (σ.postAt f.expiry (.forwardingExpiry tile tag))
    else .next (σ.modTile tile fun t => { t with fwd := t.fwd.filter fun x => !(x.tag == tag && x.acked) })

/-! ### MIGRATE (R85) -/

/-- MIGRATE: 0 and the move begins, or 1 and the task stays. A tile of a layer that a role change drains takes no task
(DEDUCED from R14 and R30, assumption 130). -/
def execMigrate (d r : GReg) (σ : State) : Host.Outcome State Fault Refusal :=
  let T := σ.g r
  if !σ.isControl then ends (σ.trap cContextMisuse 1)
  else if σ.myTile.anyLive then ends (σ.trap cContextMisuse 2)
  else
    match σ.namedTile T, σ.myTile.task with
    | some dst, some k =>
      let b := (σ.part σ.myPart).barctl
      if (bitAt b 13 && bits b 12 0 == k.root) || (σ.tile dst).task.isSome || !(σ.tile dst).workQ.isEmpty ||
          (σ.tile dst).reserved.isSome || !σ.roomAt dst k.pins || σ.drains dst then .next (σ.setG d 1).retire
      else if σ.fwdFull σ.cur.tile then .next σ.held
      else .next ((σ.setG d 0).retire.startCross σ.cur.tile dst)
    | _, _ => ends (σ.trap cBadTarget T)

/-! ### The spill area (R83, R106) -/

/-- The lowest free spill slot of a partition. -/
def State.freeSpill (s : State) (n : Nat) : Option Nat :=
  (List.range (bits (s.part n).spillb 63 56)).find? fun i => !(s.part n).spilled.any fun x => x.slot = i

/-- A task leaves for a spill slot, re-queued at its priority: at the head for a victim, at the tail for YIELD. -/
def State.spill (s : State) (src slot : Nat) (front : Bool) : State :=
  match (s.tile src).task with
  | none => s
  | some k =>
    let n := tagPart k.tag
    let dst := spillTile slot src
    let col := src % 256
    let s := s.modPart n fun p =>
      { p with spilled := p.spilled ++ [{ slot := slot, at_ := dst, tag := k.tag, col := col, prio := k.prio
                                          seq := if front then 0 else s.nextId }] }
    (s.pushCol n col k.prio (spillKey k.tag) front).startCross src dst

/-- Whether a node of a spilled task's own priority that was queued before it still waits in a work queue of its column:
the task does not resume ahead of it (R98, R443). -/
def State.olderWaits (s : State) (n : Nat) (x : Spilled) : Bool :=
  s.tiles.any fun e => e.1 % 256 == x.col && s.computeTile n e.1 && e.2.workQ.any fun w =>
    !w.deliv && w.task.prio == x.prio && (s.nodeAt n w.task.node).any fun d => d.seq < x.seq

/-- A compute tile of a column that may take a spilled task up; none while an Avalanche ends it (R444). -/
def State.resumeAt (s : State) (n : Nat) (x : Spilled) : Option Nat :=
  match (s.tile x.at_).task with
  | none => none
  | some k =>
    if (s.ctx k.tag).dying || s.olderWaits n x then none
    else (((s.part n).zmap.map fun z => x.col + 256 * z).find? fun t =>
      s.computeTile n t && !s.drains t && (s.tile t).task.isNone && !(s.tile t).startable && s.roomAt t k.pins)

/-- A spilled task resumes once a tile of its column qualifies. -/
def State.spillResume (s : State) (n : Nat) (x : Spilled) : Option State :=
  match (s.tile x.at_).task, s.resumeAt n x with
  | some k, some t =>
    if k.dest.isSome || s.agenda.any (fun q => match q.ev with
        | .crossoverResume _ y => y == x.at_
        | _ => false) then none
    else
      let s := s.unqueue n (spillKey k.tag)
      let s := s.modPart n fun p => { p with spilled := p.spilled.filter fun y => y.slot ≠ x.slot }
      some (s.startCross x.at_ t)
  | _, _ => none

def execSpillResume (part : Nat) (tag : Tag) (σ : State) : Host.Outcome State Fault Refusal :=
  match (σ.part part).spilled.find? fun x => x.tag = tag with
  | none => .next σ
  | some x => .next ((σ.spillResume part x).getD σ)

end Sys2Proof.Machine
end

