-- ==== Sys2Proof/Machine/Dispatcher.lean ====
section
/-! DEFINITION. The dispensers: placement, the start of tasks and their footprints, SPAWN entries, steals,
pre-emption and YIELD (R64, R70, R83, R87, R97 to R107, R278, R402 to R404, R443, R444). -/

namespace Sys2Proof.Machine

/-! ### Fitting a footprint (R101) -/

/-- The banks that a range may use, in the order tried. -/
def fpPaths (w : Word) : List Nat := if fpBank w = 0 then [1, 2, 3] else [fpBank w]

/-- The lowest run of `len` free granules of a bank. -/
def State.freeRun (s : State) (held : List Nat) (bank len : Nat) : Option Nat :=
  (List.range (1025 - len)).find? fun i =>
    (List.range len).all fun j => s.granuleFree held (bankCell bank ((i + j) * 4096) / 4096)

/-- A range placed in the first bank that holds a free run. -/
def State.placeRange (s : State) (tile : Nat) (held : List Nat) (w : Word) : Option Pin :=
  let len := (fpLen w + 4095) / 4096
  (fpPaths w).findSome? fun p =>
    match s.bankOf tile p with
    | none => none
    | some b => (s.freeRun held b len).map fun i =>
      { path := p, bank := b, off := i * 4096, bytes := fpLen w, va := fpVa w, out := fpOut w, input := fpIn w
        saved := [] }

/-- The ranges placed in range order; none where one has no room. -/
def State.placeAll (s : State) (tile : Nat) (held : List Nat) : List Word → Option (List Pin)
  | [] => some []
  | w :: ws =>
    match s.placeRange tile held w with
    | none => none
    | some p => (s.placeAll tile (held ++ p.granules) ws).map (p :: ·)

/-- Whether a footprint fits the empty local store of a tile. -/
def State.fitsEmpty (s : State) (tile : Nat) (fps : List Word) : Bool := (s.placeAll tile [] fps).isSome

/-! ### Load (R99) -/

/-- The compute tiles of a column, and those that dispatch may use now. -/
def State.colAll (s : State) (n col : Nat) : List Nat :=
  ((s.part n).zmap.map fun z => col % 256 + 256 * z).filter (s.computeTile n)
def State.colTiles (s : State) (n col : Nat) : List Nat := (s.colAll n col).filter fun t => !s.drains t

/-- What a tile adds to its column's load. -/
def State.tileLoad (s : State) (t : Nat) : Nat :=
  let ti := s.tile t
  (if ti.task.isSome && (ti.thread 0).st ≠ .parked .work then 1 else 0) + ti.workQ.length
def State.colLoad (s : State) (n col : Nat) : Nat := ((s.colAll n col).map s.tileLoad).sum
def State.threshold (s : State) (n : Nat) : Nat :=
  if (s.part n).thr = 0 then 2 * pdescNcomp (s.pdesc n) else (s.part n).thr
def State.loaded (s : State) (n col : Nat) : Bool := s.colLoad n col ≥ s.threshold n

/-- Resident tasks plus queue entries of a tile. -/
def State.tileUse (s : State) (t : Nat) : Nat :=
  (if (s.tile t).task.isSome then 1 else 0) + (s.tile t).workQ.length

/-- The least element of a list under a measure, ties to the first. -/
def leastBy {α : Type} (f : α → Nat) : List α → Option α
  | [] => none
  | x :: xs =>
    match leastBy f xs with
    | none => some x
    | some y => if f x ≤ f y then some x else some y

/-- The tile of a column for a node: room in its queue, a footprint that fits, the fewest tasks and entries. -/
def State.columnTile (s : State) (n col : Nat) (fps : List Word) (avoid : Option Nat) : Option Nat :=
  leastBy s.tileUse ((s.colTiles n col).filter fun t =>
    avoid ≠ some t && (s.tile t).workQ.length < 16 && s.fitsEmpty t fps)
/-- The same, a tile that the node avoids taken only where no other qualifies (R277). -/
def State.columnPick (s : State) (n col : Nat) (fps : List Word) (avoid : Option Nat) : Option Nat :=
  match s.columnTile n col fps avoid with
  | some t => some t
  | none => s.columnTile n col fps none

/-! ### Placement (R98, R100) -/

/-- The head of a column's highest queue that is not empty, with its priority. -/
def headOf (q : SMap (List Nat)) (base : Nat) : Option (Nat × Nat) :=
  [3, 2, 1, 0].findSome? fun pr =>
    match SMap.get [] q (base + pr) with
    | e :: _ => some (pr, e)
    | [] => none

/-- A work-queue entry of a node. -/
def nodeEntry (root : Nat) (priv : Priv) (d : Node) (copy : Nat) : WorkEntry :=
  let ds := d.dwords
  { deliv := false, spawned := false, fetched := false
    task :=
      { tag := 0, root := root, launch := d.launch, priv := priv, prio := ndPrio ds, node := d.addr, pk := ndPk ds
        rdm := ndRdm ds, copy := copy, entry := BitVec.ofNat 51 (ndEntry ds), args := ndArgs ds, fps := ndFps ds
        pins := [], caller := 0, callTile := 0, rtag := 0, recalled := false, called := false, deliv := 0
        phase := .fetching, unserved := false, dest := none, started := 0 } }

def State.pushWork (s : State) (t : Nat) (w : WorkEntry) : State :=
  s.modTile t fun ti => { ti with workQ := ti.workQ ++ [w] }

/-- The tile of copy B (R278). -/
def State.partnerTile (s : State) (n t : Nat) : Nat :=
  let z := s.logicalZ n (tileZ t)
  let m := (s.part n).zmap.length
  let z' := if z ^^^ 1 < m then z ^^^ 1 else z - 1
  (s.atLogical n (tileX t) (tileY t) z').getD t

/-- The lowest free shadow slots of a partition, two at least. -/
def State.freeShadows (s : State) (n : Nat) : List Nat :=
  (List.range (bits (s.part n).rdncfg 55 51)).filter fun i => !(s.part n).pairs.any fun d => d.slots.contains i

/-- A node enters the work queue of the tile chosen for it, a die-pair node the queues of two tiles; none where
there is no room for it now. -/
def State.placeNode (s : State) (n : Nat) (d : Node) (t : Nat) : Option State :=
  match s.launchOf n d.launch with
  | none => none
  | some l =>
    let e (copy : Nat) : WorkEntry := nodeEntry l.ctx l.priv d copy
    if ndRdm d.dwords = 2 then
      match s.freeShadows n with
      | a :: b :: _ =>
        let t2 := s.partnerTile n t
        if (s.tile t2).workQ.length + (if t2 = t then 1 else 0) ≥ 16 || s.drains t2 then none
        else
          let pr : DiePair :=
            { node := d.addr, tags := [0, 0], layers := [tileZ t, tileZ t2], slots := [a, b]
              exited := [false, false], bad := [false, false], expiry := none, counted := false }
          let s := s.modPart n fun p => { p with pairs := p.pairs ++ [pr] }
          some (((s.unqueue n d.addr).pushWork t (e 1)).pushWork t2 (e 2))
      | _ => none
    else some ((s.unqueue n d.addr).pushWork t (e 0))

/-- What becomes of a head entry now: placed, failed, or neither. -/
inductive Placed where
  | done (s : State)
  | waits

/-- A queued node's placement (R100, R101). -/
def State.tryNode (s : State) (n : Nat) (d : Node) (cols : List Nat) : Placed :=
  let ds := d.dwords
  let fps := ndFps ds
  let fails : Placed := .done ((s.unqueue n d.addr).failNode n d.addr 1 0)
  -- in replay a node goes where the log has it next (R117)
  let named := if s.replaying n then s.logTile n d.addr else none
  let put (o : Option Nat) : Placed :=
    match match named with
        | some t => if (s.tile t).workQ.length < 16 && !s.drains t then some t else none
        | none => o with
    | none => .waits
    | some t => match s.placeNode n d t with
      | some s' => .done s'
      | none => .waits
  -- a tile that has been vacated for it starts it (R106)
  if s.tiles.any fun e => e.2.reserved == some d.addr && s.computeTile n e.1 && !s.drains e.1 then .waits
  else if ndRdm ds = 2 && bits (s.part n).rdncfg 55 51 = 0 then fails
  else if ndPk ds = 0 then
    match s.atLogical n (ndX ds) (ndY ds) (ndZ ds) with
    | none => fails
    | some t =>
      -- the target, or the first tile of its layer on from it whose empty local store would hold the footprint
      let layer := t / 256 * 256
      match ((List.range 256).map fun i => (t % 256 + i) % 256 + layer).find? fun u =>
          s.computeTile n u && s.fitsEmpty u fps with
      | none => fails
      | some u => if (s.tile u).workQ.length < 16 && !s.drains u then put (some u) else .waits
  else if !((if ndPk ds = 2 then s.colAll n (ndColumn ds) else s.liveTiles n).any fun t => s.fitsEmpty t fps) then fails
  else if ndPk ds = 2 then
    if s.loaded n (ndColumn ds) then .waits else put (s.columnPick n (ndColumn ds) fps d.avoid)
  else
    let open_ := cols.filter fun c => !s.loaded n c && (s.columnTile n c fps none).isSome
    let other := open_.filter fun c => (s.columnTile n c fps d.avoid).isSome
    match leastBy (s.colLoad n) (if other.isEmpty then open_ else other) with
    | none => .waits
    | some c => put (s.columnPick n c fps d.avoid)

/-- The columns of a partition, by number. -/
def columns : List Nat := List.range 256

/-- An entry of a queue is tried: a node, or a spilled task. -/
def State.tryEntry (s : State) (n e : Nat) : Placed :=
  if e ≥ 2 ^ 64 then
    match (s.part n).spilled.find? fun x => spillKey x.tag = e with
    | none => .done (s.unqueue n e)
    | some x => match s.resumeAt n x with
      | some _ => if s.agenda.any fun q => q.ev == .spillResume n x.tag then .waits else .done (s.post (.spillResume n x.tag))
      | none => .waits
  else
    match s.nodeAt n e with
    | none => .done (s.unqueue n e)
    | some d => s.tryNode n d columns

/-- The first head that can be placed: of the columns in turn, then of the partition queue. -/
def State.placeOne (s : State) (n : Nat) : Option State :=
  let p := s.part n
  let cols := (p.colQ.map fun e => e.1 / 4).eraseDups
  let tryHead (h : Option (Nat × Nat)) : Option State :=
    match h with
    | none => none
    | some (_, e) => match s.tryEntry n e with
      | .done s' => some s'
      | .waits => none
  match cols.findSome? fun c => tryHead (headOf p.colQ (c * 4)) with
  | some s' => some s'
  | none => tryHead (headOf p.partQ 0)

/-! ### Blocked nodes and the grace timer (R104, R105) -/

/-- The lead dispenser of a column (R97). -/
def leadOf (col : Nat) : Nat := col % 16 / 4 + col / 16 / 4 * 4

/-- The blocked priority-3 nodes of a partition: each with its lead and, where its victim's tile is fixed, that
tile. -/
def State.blocked (s : State) (n : Nat) : List (Nat × Nat × Option Nat) :=
  let p := s.part n
  let busy (t : Nat) : Bool := (s.tile t).task.isSome
  let cols := (p.colQ.map fun e => e.1 / 4).eraseDups
  let inCols := cols.flatMap fun c => (SMap.get [] p.colQ (colKey c 3)).filterMap fun e =>
    match s.nodeAt n e with
    | none => none
    | some d =>
      if ndPk d.dwords = 0 then
        match s.atLogical n (ndX d.dwords) (ndY d.dwords) (ndZ d.dwords) with
        | some t => if busy t then some (leadOf c, e, some t) else none
        | none => none
      else if s.loaded n c then some (leadOf c, e, none) else none
  let inPart := (SMap.get [] p.partQ 3).filterMap fun e =>
    if columns.all fun c => (s.colTiles n c).isEmpty || s.loaded n c then some (0, e, none) else none
  let inTiles := (s.tiles.filter fun e => s.computeTile n e.1 && busy e.1).flatMap fun e =>
    (e.2.workQ.filter fun w => w.task.prio == 3 && w.task.node != 0 && !w.deliv).map fun w =>
      (leadOf (e.1 % 256), w.task.node, some e.1)
  inCols ++ inPart ++ inTiles

/-- The length of a grace period: in deterministic mode it ends with a quantum (R112). -/
def State.graceTc (s : State) (n : Nat) : Nat := (s.part n).grace

/-- The oldest blocked node of a lead dispenser: the one that has been queued for longest. -/
def State.oldestBlocked (s : State) (n lead : Nat) : Option Nat :=
  (leastBy (fun b : Nat × Nat × Option Nat => ((s.nodeAt n b.2.1).map (·.seq)).getD 0)
    ((s.blocked n).filter fun b => b.1 == lead)).map (·.2.1)

/-- Timers stop whose node is no longer blocked, and start, to end at `at_` of the lead, for the leads that have a blocked node and
none that runs. -/
def State.runTimers (s : State) (n : Nat) (at_ : Nat → Nat) : State :=
  let bs := s.blocked n
  let s := s.modPart n fun p =>
    { p with graceAt := p.graceAt.filter fun g => bs.any fun b => b.1 == g.lead && b.2.1 == g.node }
  ((bs.map (·.1)).eraseDups).foldl (fun s l =>
    if (s.part n).graceAt.any fun g => g.lead = l then s
    else
      match s.oldestBlocked n l with
      | some a =>
        let s := s.modPart n fun p => { p with graceAt := p.graceAt ++ [{ lead := l, at_ := at_ l, node := a }] }
        if (s.part n).mode = 1 then s else s.postAt (at_ l) (.graceExpiry n l)
      | none => s) s

/-- Timers run for the leads that have a blocked node, and for no other. One that runs when PREEN is cleared goes on
(see `execGraceExpiry`). -/
def State.graceCheck (s : State) (n : Nat) : State :=
  let p := s.part n
  if !p.preen || p.mode = 1 then s else s.runTimers n fun l => s.tc (s.leadTile n l) + s.graceTc n

/-- Whether the task of a tile may be a victim (R105): not where a role change drains the tile (R107). -/
def State.mayEvict (s : State) (t : Nat) : Bool :=
  match (s.tile t).task with
  | some k => k.prio < 3 && k.phase == .running && s.mayCross t k && !s.drains t
  | none => false

/-- The victim for a blocked node (R105). Of columns that are equally the least loaded, the one with the lowest number
gives it: the rule orders tasks only (assumption 133). -/
def State.victimFor (s : State) (n node : Nat) (fixed : Option Nat) : Option Nat :=
  match fixed with
  | some t => if s.mayEvict t then some t else none
  | none =>
    match s.nodeAt n node with
    | none => none
    | some d =>
      let cands := if ndPk d.dwords = 2 then [ndColumn d.dwords] else columns.filter fun c => !(s.colTiles n c).isEmpty
      match leastBy (s.colLoad n) cands with
      | none => none
      | some c =>
        ((s.colTiles n c).filter s.mayEvict).foldl (fun best t =>
          match best with
          | none => some t
          | some b =>
            match (s.tile t).task, (s.tile b).task with
            | some k, some kb =>
              if k.prio < kb.prio || (k.prio = kb.prio && (k.started > kb.started ||
                  (k.started = kb.started && s.logicalId n t > s.logicalId n b))) then some t else some b
            | _, _ => some b) none

/-- Whether the control context of a tile is parked in WAITWORK: pre-emption recalls it (R86). -/
def State.waitsWork (s : State) (t : Nat) : Bool := (s.thread { tile := t, slot := 0 }).st == .parked .work

/-- Where a victim goes: an idle tile with its granules free, of the least loaded column, or a spill slot; the tile
it leaves starts the blocked node next (R106). -/
def State.evict (s : State) (n t node : Nat) : Option State :=
  let keep (s : State) : State := s.modTile t fun ti => { ti with reserved := some node }
  match (s.tile t).task with
  | none => none
  | some k =>
    if s.waitsWork t then some (s.callBack t)
    else
      let ok := (s.liveTiles n).filter fun u => s.idle n u && s.roomAt u k.pins
      match leastBy (fun u => s.colLoad n (u % 256)) ok with
      | some u => some (keep (s.startCross t u))
      | none => (s.freeSpill n).map fun i => keep (s.spill t i true)

/-- The victim of a timer's node, where that is still blocked. -/
def State.graceVictim (s : State) (n : Nat) (g : GraceTimer) : Option Nat :=
  ((s.blocked n).find? fun b => b.1 == g.lead && b.2.1 == g.node).bind fun b => s.victimFor n g.node b.2.2

/-- A grace timer is over: its node pre-empts one victim; a Crossover that finds no forwarding entry free waits for
one to expire (R95). -/
def State.preempt (s : State) (n : Nat) (g : GraceTimer) : State :=
  let s := s.modPart n fun p => { p with graceAt := p.graceAt.filter fun x => x.lead ≠ g.lead }
  match s.graceVictim n g with
  | none => s
  | some t =>
    if s.fwdFull t && !s.waitsWork t then
      if (s.part n).mode = 1 then s
      else
        let at_ := s.tc (s.leadTile n g.lead) + s.fwdFree t
        (s.modPart n fun p => { p with graceAt := p.graceAt ++ [{ g with at_ := at_ }] }).postAt at_ (.graceExpiry n g.lead)
    else (s.evict n t g.node).getD s

/-- The move that replay owes at a tile: its record is next there and its count has come (R115, R117). -/
def State.moveOwed (s : State) (n tile : Nat) : Option Nat :=
  if !s.replaying n then none
  else
    match s.owedAt n tile with
    | x :: _ =>
      if x.kind = 0x0B && x.cnt ≤ (s.thread { tile := tile, slot := 0 }).count then
        let sl := bits x.value 39 32
        if sl ≠ 0 then some (spillTile (sl - 1) tile)
        else (s.liveTiles n).find? fun u => (s.tileId u).toNat % 2 ^ 32 == bits x.value 31 0
      else none
    | [] => none

/-- A recorded move is made, where its target can take the task; none while it must wait. -/
def State.imposeMove (s : State) (n tile dst : Nat) (front : Bool) : Option State :=
  match (s.tile tile).task with
  | none => none
  | some k =>
    if s.fwdFull tile || k.phase ≠ .running || !s.mayCross tile k then none
    else if dst ≥ 4096 then
      if (s.part n).spilled.any fun x => x.slot == dst / 4096 - 1 then none else some (s.spill tile (dst / 4096 - 1) front)
    else if (s.tile dst).task.isNone && s.roomAt dst k.pins && !s.drains dst then some (s.startCross tile dst) else none

/-- The first tile of a lead's columns whose recorded move is due. -/
def State.moveDue (s : State) (n lead : Nat) : Option (Nat × Nat) :=
  ((s.tiles.map (·.1)).filter fun t => t < 4096 && s.computeTile n t && leadOf (t % 256) == lead).findSome? fun t =>
    (s.moveOwed n t).map fun d => (t, d)

/-- The grace timer of a lead dispenser expires. The manual does not say whether a timer that runs when PREEN is cleared
still pre-empts: here it does, at a boundary of deterministic mode it does not (assumption 117). Replay makes the
moves that the log holds instead (R117). -/
def execGraceExpiry (part lead : Nat) (σ : State) : Host.Outcome State Fault Refusal :=
  if σ.replaying part then
    .next (match σ.moveDue part lead with
      | some (t, d) => (σ.imposeMove part t d true).getD σ
      | none => σ)
  else
    match (σ.part part).graceAt.find? fun g => g.lead = lead && g.at_ ≤ σ.tc (σ.leadTile part lead) with
    | none => .next σ
    | some g => .next ((σ.preempt part g).graceCheck part)

/-- A lead dispenser places what it can, one node at a time. -/
def execNodePlacement (part : Nat) (σ : State) : Host.Outcome State Fault Refusal :=
  -- in deterministic mode the boundary's decide step places (R111)
  if (σ.part part).mode = 1 then .next σ else
  match σ.placeOne part with
  | some σ' => .next ((((σ'.kick part).postOnce (.nodePlacement part)).graceCheck part))
  | none => .next (σ.graceCheck part)

/-! ### The start of a task (R70, R102) -/

/-- The entry that the dispenser takes: one whose fetch has begun, else the oldest of the highest priority. -/
def Tile.nextEntry (t : Tile) : Option WorkEntry :=
  match t.workQ.find? (·.fetched) with
  | some w => some w
  | none => bestEntry (fun w => !w.deliv) t.workQ

/-- A context number for an entry (R71). Of a die pair's copies A takes its number first: where B begins first, A's is
taken with it (assumption 116). -/
def State.takeNumber (s : State) (n owner : Nat) (k : Task) : Option (State × Tag) :=
  let fresh (s : State) : Option (State × Tag) :=
    (s.freeNumber owner n).map fun c => (s.openCtx (mkTag owner n c) k.root k.launch k.priv, mkTag owner n c)
  let name (i : Nat) (x : State × Tag) : State × Tag :=
    (x.1.modPart n fun p => { p with pairs := p.pairs.map fun d =>
      if d.node = k.node then { d with tags := d.tags.set i x.2 } else d }, x.2)
  let first : Tag := (((s.part n).pairs.find? fun d => d.node = k.node).bind fun d => d.tags[0]?).getD 0
  match k.copy with
  | 0 => fresh s
  | 1 => if first ≠ 0 then some (s, first) else (fresh s).map (name 0)
  | 2 => ((if first ≠ 0 then some (s, first) else (fresh s).map (name 0)).bind fun x => fresh x.1).map (name 1)
  | c => (fresh s).map (name (c - 1))

/-- A context number and granules for an entry of a tile; none while it must wait (R71, R101). -/
def State.prepare (s : State) (n tile : Nat) (k : Task) : Option (State × Task) :=
  let owner := match s.launchOf n k.launch with
    | some l => l.owner.toNat
    | none => tagOwner k.tag
  -- no task starts under a launch root that is being killed (R271)
  if (s.ctx (mkTag owner n k.root)).dying then none else
  match s.takeNumber n owner k with
  | none => none
  | some (s, tag) =>
    match s.placeAll tile s.pinned k.fps with
    | none => none
    | some pins =>
      let (s, pins) := s.takePins tag k.root pins
      some (s, { k with tag := tag, pins := pins })

/-- Whether a node waits in a queue of its partition. -/
def State.inQueue (s : State) (n a : Nat) : Bool := ((s.part n).colQ ++ (s.part n).partQ).any fun e => e.2.contains a

/-- The node that a tile was vacated for enters its queue; the mark lapses once the node is no longer there to
start. -/
def State.callReserved (s : State) (n tile : Nat) : State :=
  match (s.tile tile).reserved with
  | none => s
  | some a =>
    if (s.tile tile).workQ.any fun w => w.task.node == a && !w.deliv then s
    else
      let drop := s.modTile tile fun t => { t with reserved := none }
      match s.nodeAt n a with
      | some d => if s.inQueue n a && s.fitsEmpty tile (ndFps d.dwords) then (s.placeNode n d tile).getD drop else drop
      | none => drop

/-- The entry that a tile starts next: that of the node it was vacated for, once it can be prepared. -/
def State.nextStart (s : State) (n tile : Nat) : Option WorkEntry :=
  let t := s.tile tile
  match t.reserved with
  | none => t.nextEntry
  | some a =>
    match t.workQ.find? fun w => w.task.node == a && !w.deliv with
    | none => t.nextEntry
    | some w => if w.fetched || (s.prepare n tile w.task).isSome then some w else t.workQ.find? (·.fetched)

/-- An entry leaves a tile's queue to start, and the mark of its node with it. -/
def Tile.startEntry (t : Tile) (w : WorkEntry) : Tile :=
  { t.takeEntry w with reserved := if t.reserved == some w.task.node then none else t.reserved }

/-- The dispenser of a tile takes an entry for its free slot 0. The node that the tile was vacated for comes straight from its
queue where the sixteen entries of the work queue are taken (R64): where it cannot start, it stays in its queue. -/
def execTaskStart (tile : Nat) (σ : State) : Host.Outcome State Fault Refusal :=
  let n := (σ.partOfTile tile).getD 0
  if (σ.tile tile).task.isSome || σ.drains tile || !σ.computeTile n tile then .next σ
  else
    let wait := if (σ.tile tile).workQ.length < 16 then σ.callReserved n tile else σ
    let σ := σ.callReserved n tile
    match σ.nextStart n tile with
    | none => .next wait
    | some w =>
      if w.fetched then
        -- its footprint may already be resident
        let σ := σ.modTile tile fun t => { t.startEntry w with task := some w.task }
        .next (σ.postOnce (.footprintResident tile))
      else if !σ.fitsEmpty tile w.task.fps then
        -- the tile has lost a bank since the placement: the node is placed anew (R37)
        let σ := σ.modTile tile (·.startEntry w)
        .next ((σ.enqueueNode n w.task.node).kick n)
      else
        match σ.prepare n tile w.task with
        | none => .next wait
        | some (σ, k) =>
          let σ := σ.modTile tile fun t => { t.startEntry w with task := some k }
          .next (σ.postOnce (.footprintResident tile))

/-- What the fetch of a footprint finds: the cells of every range; or why not. -/
def State.rangeCells (s : State) (k : Task) : Except Why (List (Pin × List Nat)) :=
  k.pins.foldl (fun acc p =>
    match acc with
    | .error e => .error e
    | .ok out =>
      let go (kind : AccKind) : Except Why (List Nat) :=
        s.reachWalk k.tag k.priv kind true (p.bytes / 4096 + 2) p.va p.bytes
      let rd := if p.input then go .footprint else .ok []
      let wr := if p.out then go .store else .ok []
      match rd, wr with
      | .error e, _ => .error e
      | _, .error e => .error e
      | .ok a, .ok b => .ok (out ++ [(p, if p.input then a else b)])) (.ok [])

/-- The first granule of the OUT ranges that the launch root does not hold (R73). R73 speaks of a granule that another
context holds: one that no context holds counts as busy here too (assumption 115). -/
def State.outBusy (s : State) (k : Task) (rs : List (Pin × List Nat)) : Option Nat :=
  if k.copy ≠ 0 then none
  else
    (rs.filter fun r => r.1.out).findSome? fun r =>
      (granulesOf (r.2.filter fun c => !isRemoteCell c)).find? fun g =>
        capHolder (s.cap g) ≠ mkTag (tagOwner k.tag) (tagPart k.tag) k.root

/-- The capabilities of the OUT ranges move from the launch root to the task. -/
def State.takeOuts (s : State) (k : Task) (rs : List (Pin × List Nat)) : State :=
  if k.copy ≠ 0 then s
  else
    (rs.filter fun r => r.1.out).foldl (fun s r =>
      (granulesOf (r.2.filter fun c => !isRemoteCell c)).foldl (fun s g =>
        s.setCap g (mkCap k.tag (capMode (s.cap g)) false k.root)) s) s

/-- The granule mode that the page of a virtual address asks for (R151). -/
def State.pageEcc (s : State) (k : Task) (va : Nat) : Nat :=
  match walk s (s.owner k.tag).ptroot va with
  | .leaf e _ _ _ => leafEcc e
  | _ => 0

/-- The bank copies are filled: fetched, or zeroed; their granules take their modes. -/
def State.fillRanges (s : State) (k : Task) (rs : List (Pin × List Nat)) : State :=
  rs.foldl (fun s r =>
    let p := r.1
    let s := (p.granules.zipIdx).foldl (fun s gi =>
      { s with gmode := SMap.set 0 s.gmode gi.1 (s.pageEcc k (p.va + gi.2 * 4096)) }) s
    if p.input then (chunksOf r.2 p.cells).foldl (fun s ch => s.landChunk k.tag ch.1 ch.2) s
    else s.storeCells k.tag (p.cells.map fun c => (c, 0))) s

/-- A die pair is forgotten: its shadows are free, and so is a number taken for a copy that has not begun (R71). -/
def State.dropPair (s : State) (n node : Nat) : State :=
  let tags := ((s.part n).pairs.filter fun d => d.node == node).flatMap (·.tags)
  let idle (t : Tag) : Bool := t ≠ 0 && (s.ctx t).live && !(s.ctx t).dying && (s.tileOfCtx t).isNone &&
    !s.tiles.any fun e => e.2.workQ.any fun w => w.fetched && w.task.tag == t
  (tags.filter idle).foldl State.closeCtx (s.modPart n fun p => { p with pairs := p.pairs.filter fun d => d.node ≠ node })

/-- A node fails before its start: its granules are unpinned and its number freed (R70, R71). -/
def State.startFails (s : State) (n tile : Nat) (k : Task) (reason extra : Nat) : State :=
  let s := (s.unpin k.pins).closeCtx k.tag
  let s := s.modTile tile fun t =>
    { t with task := (match t.task with
               | some x => if x.tag = k.tag then none else some x
               | none => none)
             workQ := t.workQ.filter fun w => !(w.fetched && w.task.tag == k.tag) }
  let s := if k.copy = 0 then s else s.dropPair n k.node
  (s.failNode n k.node reason extra).kick n

/-- The control context starts (R70, R87). -/
def State.beginTask (s : State) (n tile : Nat) (k : Task) : State :=
  let as_ := (k.pins.zipIdx).foldl (fun (v : Vector Word 16) pi =>
    if h : pi.2 < 16 then v.set pi.2 (mkPtr pi.1.path pi.1.off) h else v) (Vector.replicate 16 0)
  let x (i : Nat) : Word := k.args.getD i 0
  let th : Thread := { Thread.zero with st := .ready, pc := k.entry, a := as_, priv := k.priv }
  let th := (((th.setG 8 (x 0)).setG 9 (x 1)).setG 10 (x 2)).setG 11 (x 3)
  let th := if k.node = 0 then (th.setG 12 k.callTile).setG 13 (BitVec.ofNat 64 k.rtag)
    else th.setG 12 (BitVec.ofNat 64 k.node)
  let s := s.modTile tile fun t =>
    { t with task := some { k with phase := .running, started := s.now }, slots := SMap.set Thread.zero [] 0 th
             ring := [], ringNext := 0, roc := [] }
  let s := if k.node = 0 then s else s.setNodeState n k.node 3
  s.kick n

/-- Whether the pager still has a fault of a footprint's fetch before it. -/
def State.fetchWaits (s : State) (n tile : Nat) (tag : Tag) : Bool :=
  ((s.part n).faultQ ++ (s.part n).faults).any fun f => !f.void && f.who == .footprint tile tag

/-- Every range is looked up, checked and filled; then a task in slot 0 starts. A page fault waits for the pager
on behalf of the node, whose answer ACT 1 fails it (R70, R144). R73 has the OUT capabilities move at dispatch: with a
prefetch the model checks and moves them when the footprint becomes resident, before slot 0 is free (assumption
118). -/
def execFootprintResident (tile : Nat) (σ : State) : Host.Outcome State Fault Refusal :=
  let t := σ.tile tile
  let n := (σ.partOfTile tile).getD 0
  let load (k : Task) (done : State → State) : Host.Outcome State Fault Refusal :=
    if (σ.ctx k.tag).dying then .next σ
    else if k.unserved then .next (σ.startFails n tile k 1 0)
    else if σ.fetchWaits n tile k.tag then .next σ
    else
    match σ.rangeCells k with
    | .error (.pageFault va q l p) =>
      .next (σ.pageFault n (σ.faultRec n va 0 4 q l p ((σ.tileId tile).toNat % 2 ^ 12) 0 k.tag (.footprint tile k.tag)))
    | .error (.stray pa) => .fault (.noSuchStorage pa)
    | .error _ => .next (σ.startFails n tile k 1 0)
    | .ok rs =>
      match σ.outBusy k rs with
      | some g => .next (σ.startFails n tile k 2 g)
      | none => ends (done ((σ.takeOuts k rs).fillRanges k rs))
  match t.task with
  | some k =>
    if k.phase = .fetching && t.slots.isEmpty && k.dest.isNone then load k fun s => s.beginTask n tile k
    else if k.phase = .running && t.slots.isEmpty then .next (σ.beginTask n tile k)
    else
      match t.workQ.find? fun w => w.fetched && w.task.phase == .fetching with
      | some w => load w.task fun s => s.modTile tile fun t =>
          { t with workQ := t.workQ.map fun x => if x == w then { x with task := { x.task with phase := .running } } else x }
      | none => .next σ
  | none => .next σ

/-- While slot 0 is busy the footprint of the head entry is fetched into free granules (R102). -/
def execFootprintPrefetch (tile : Nat) (σ : State) : Host.Outcome State Fault Refusal :=
  let t := σ.tile tile
  let n := (σ.partOfTile tile).getD 0
  match t.task, t.nextEntry with
  | some k0, some w =>
    if w.fetched || w.spawned || w.task.fps.isEmpty || k0.phase ≠ .running then .next σ
    else
      match σ.prepare n tile w.task with
      | none => .next σ
      | some (σ, k) =>
        let σ := σ.modTile tile fun t =>
          { t with workQ := t.workQ.map fun x => if x == w then { x with task := k, fetched := true } else x }
        .next (σ.postOnce (.footprintResident tile))
  | _, _ => .next σ

/-! ### SPAWN at its target (R87, R403) -/

/-- A SPAWN enters the work queue of its tile; a full queue keeps it waiting. -/
def execSpawnArrival (m : SpawnMsg) (σ : State) : Host.Outcome State Fault Refusal :=
  if (σ.tile m.dst).workQ.length ≥ 16 then .next (σ.post (.spawnArrival m))
  else
    let k : Task :=
      { tag := mkTag (tagOwner m.caller) (tagPart m.caller) 0, root := m.root, launch := m.launch, priv := m.priv
        prio := m.prio, node := 0, pk := 1, rdm := 0, copy := 0, entry := BitVec.ofNat 51 m.entry.toNat
        args := [m.g8, m.g9, m.g10, m.g11], fps := [], pins := [], caller := tagCtx m.caller, callTile := m.srcId
        rtag := m.rtag, recalled := false, called := false, deliv := 0, phase := .fetching, unserved := false
        dest := none, started := 0 }
    let σ := σ.pushWork m.dst { task := k, deliv := false, spawned := true, fetched := false }
    .next (σ.kick (tagPart m.caller))

/-! ### Steals (R103, R113) -/

/-- The oldest stealable entry of the highest priority leaves the victim for the thief. -/
def State.steal (s : State) (thief victim : Nat) : Option State :=
  (bestEntry (stealable thief victim) (s.tile victim).workQ).map fun w =>
    (s.modTile victim (·.takeEntry w)).pushWork thief w

/-- An idle tile's request is on its way, and the answer after it. -/
def execStealRequest (tile victim : Nat) (σ : State) : Host.Outcome State Fault Refusal :=
  let n := (σ.partOfTile tile).getD 0
  .next (if σ.idle n tile then σ.postOnce (.stealAnswer tile victim) else σ)

/-- The victim's answer: an entry for the thief, or a refusal and a retry. -/
def execStealAnswer (tile victim : Nat) (σ : State) : Host.Outcome State Fault Refusal :=
  let n := (σ.partOfTile tile).getD 0
  if !σ.idle n tile then .next σ
  else
    -- in replay a refusal is imposed where the log has one
    match if (σ.stealOwed n tile).any fun x => x.2 = 0 then none else σ.steal tile victim with
    | some σ' => .next (σ'.kick n)
    | none => .next (σ.postIn 256 (.stealRetry tile))

/-- A refused thief asks again. -/
def execStealRetry (tile : Nat) (σ : State) : Host.Outcome State Fault Refusal :=
  let n := (σ.partOfTile tile).getD 0
  if !σ.idle n tile then .next σ
  else
    match σ.victimOf n tile with
    | some v => .next (σ.postOnce (.stealRequest tile v))
    | none => .next σ

/-! ### YIELD (R83, R443) -/

/-- Whether work is queued that a tile could start. -/
def State.workFor (s : State) (n tile : Nat) : Bool :=
  let col := tile % 256
  let p := s.part n
  (s.tile tile).startable ||
  ([0, 1, 2, 3].any fun pr => (SMap.get [] p.colQ (colKey col pr)).any fun e =>
    match s.nodeAt n e with
    | some d => ndPk d.dwords == 2 || s.atLogical n (ndX d.dwords) (ndY d.dwords) (ndZ d.dwords) == some tile
    | none => false) ||
  (p.colQ.any fun q => q.2.any fun e =>
    match s.nodeAt n e with
    | some d => ndPk d.dwords == 0 && s.atLogical n (ndX d.dwords) (ndY d.dwords) (ndZ d.dwords) == some tile
    | none => false) ||
  !p.partQ.isEmpty ||
  ((s.column tile).any fun t => t ≠ tile && s.stealCount tile t > 0)

/-- YIELD of the control context of a tile: in place, or into a spill slot; where no forwarding entry is free it waits
(R95). Replay has it complete as the log tells (R117). -/
def State.yieldOp (s : State) (t : ThreadId) : State :=
  let n := (s.partOfTile t.tile).getD 0
  let done := s.retireTo t ((s.thread t).pc + 4)
  match (s.tile t.tile).task with
  | none => done
  | some k =>
    let b := (s.part n).barctl
    if s.replaying n then
      match s.moveOwed n t.tile with
      | some d => (done.imposeMove n t.tile d false).getD (s.modThread t fun th => { th with st := .held })
      | none => done
    else if bitAt b 13 && bits b 12 0 == k.root then done
    else if !s.workFor n t.tile && !s.drains t.tile then done
    else
      match s.freeSpill n with
      | none => done
      | some i =>
        if !s.mayCross t.tile k then done
        else if s.fwdFull t.tile then s.modThread t fun th => { th with st := .held }
        else done.spill t.tile i false

def execYield (σ : State) : Host.Outcome State Fault Refusal :=
  if !σ.isControl then ends (σ.trap cContextMisuse 1)
  else if σ.myTile.anyLive then ends (σ.trap cContextMisuse 2)
  else if σ.windows.any fun w => w.owner == σ.myTag then ends (σ.trap cContextMisuse 3)
  else if !σ.myTile.vq.isEmpty || !σ.myTile.mq.isEmpty then .next σ.held
  else if σ.det && σ.me.priv == .task then
    -- the decide step of the boundary completes it (R444)
    let n := σ.myPart
    let q : Racing :=
      { tid := σ.cur, lid := σ.logicalId n σ.cur.tile, slot := σ.cur.slot, cnt := σ.me.count, ev := .yield }
    .next (σ.modPart n fun p => { p with racing := p.racing ++ [q] }).heldToBoundary
  else .next (σ.yieldOp σ.cur)

end Sys2Proof.Machine
end

