-- ==== Sys2Proof/Machine/Vector.lean ====
section
/-! DEFINITION. The vector unit: the dispatch of its instructions and the coprocessor ring (R45, R259), the lane
operations (R48 to R50, R209 to R221, R305, R313, R423 to R438) and the completion of the oldest one. -/

namespace Sys2Proof.Machine

/-! ### Dispatch (R45, R259) -/

/-- What an instruction takes at issue: its word, the scalar operands, its pointer, the cells it reads. -/
def unitOp (s : State) (i : Instr) : UnitOp :=
  { insn := i, word := BitVec.ofNat 32 (encodeWord i), slot := s.cur.slot, ring := 0, rm := s.me.rm, seed := s.me.seed
    x0 := 0, x1 := 0, ptr := 0, cells := [], scales := [], struck := none, sent := false, due := 0 }

/-- Whether the next number of the ring would reuse an entry that is kept for its trap (R259). -/
def Tile.ringKept (t : Tile) : Bool := (SMap.get RingEntry.zero t.ring t.ringNext.toNat).kept

/-- The next ring number taken by a dispatch of the executing thread. -/
def State.takeRing (s : State) (matrix : Bool) : BitVec 6 × State :=
  let q := s.myTile.ringNext
  let e : RingEntry := { pc := s.me.pc, slot := s.cur.slot, st := .queued, matrix := matrix, kept := false }
  (q, s.modMyTile fun t => { t with ring := SMap.set RingEntry.zero t.ring q.toNat e, ringNext := q + 1 })

/-- The latency of a vector instruction (R50). -/
def vecLatency : Instr → Nat
  | .vsel .. | .vshuf .. | .vbcast .. | .vlane .. | .vmask .. | .vmovg .. | .vcmp .. => 4
  | .vrcp .. | .vrsq .. | .vexp2 .. | .vlog2 .. => 14
  | .vred .. | .vscan .. | .vargx .. => 16
  | .vcvt .. | .vdeq .. | .vrng .. => 8
  | .vquant .. => 12
  | _ => 6

/-- A vector instruction enters the unit's queue, or the thread is held while there is no room (R424). -/
def opVector (u : UnitOp) (σ : State) : Host.Outcome State Fault Refusal :=
  if σ.myTile.vq.length ≥ 8 || σ.myTile.ringKept then .next σ.held
  else
    let (q, σ) := σ.takeRing false
    let due := σ.tc σ.cur.tile + vecLatency u.insn
    let σ := σ.modMyTile fun t => { t with vq := t.vq ++ [{ u with ring := q, due := due }] }
    .next (σ.postAt due (.vectorCompletion σ.cur.tile)).retire

/-! ### Lanes and masks (R48, R49) -/

/-- The mask bit that governs lane i of L. -/
def govern (L i : Nat) : Nat := if L ≤ 64 then i else i / (L / 64)
/-- The first lane that mask bit j governs. -/
def governed (L j : Nat) : Nat := if L ≤ 64 then j else j * (L / 64)

/-- Whether a lane is active under a mask. -/
def laneOn (k : Word) (L i : Nat) : Bool := k.getLsbD (govern L i)

/-- Every active lane replaced by `g`; the flags of the active lanes. -/
def perLane (f : VFmt) (k : Word) (old : VWord) (g : Nat → Nat × BitVec 5) : VWord × BitVec 5 :=
  let L := f.lanes
  let rs := (List.range L).map fun i => if laneOn k L i then g i else (lane old f.width i, 0)
  (ofLanes f.width (rs.map (·.1)), rs.foldl (fun a r => a ||| r.2) 0)

/-- Lanes without flags. -/
def perLane0 (f : VFmt) (k : Word) (old : VWord) (g : Nat → Nat) : VWord × BitVec 5 :=
  perLane f k old fun i => (g i, 0)

/-! ### Arithmetic on one lane -/

/-- The two-operand floating operations of fn 0, 1, 2, 4, 5 (R425). -/
inductive FpOp where
  | add | sub | mul | min | max
  deriving DecidableEq, Repr

def fpOp (op : FpOp) (g : Grid) (rm : RMode) (x y : Nat) : Nat × BitVec 5 :=
  let a := g.decode x
  let b := g.decode y
  let rdn := rm == .rdn
  match op with
  | .add => roundRaised g rm (exactSum rdn [a, b])
  | .sub => roundRaised g rm (exactSum rdn [a, b.negate])
  | .mul => roundRaised g rm (exactMul a b)
  | .min => roundRaised g rm (valMin a b)
  | .max => roundRaised g rm (valMax a b)

/-- VFMA of one lane (R425). -/
def fpFma (g : Grid) (rm : RMode) (x y z : Nat) : Nat × BitVec 5 :=
  roundRaised g rm (exactFma (rm == .rdn) (g.decode x) (g.decode y) (g.decode z))

/-- VABS and VNEG of one lane: the sign bit cleared or flipped; a NaN gives the default NaN (R425). -/
def fpSign (g : Grid) (flip : Bool) (x : Nat) : Nat × BitVec 5 :=
  let top := 2 ^ (g.width - 1)
  match g.decode x with
  | .nan sig => (g.nanCode, if sig then flagInvalid else 0)
  | _ => (if flip && x / top % 2 = 0 then x % top + top else x % top, 0)

/-- The faithful functions of one lane: BF16 and FP16 are computed as FP32 and rounded by RNE (R214). -/
def fpFaithful (fn : Nat) (g : Grid) (x : Nat) : Nat × BitVec 5 :=
  if g.width = 32 then faithful32 fn x
  else
    let w := roundFP gFp32 .rne 0 (g.decode x)
    let r := faithful32 fn w.1
    let n := roundFP g .rne 0 (gFp32.decode r.1)
    (n.1, w.2 ||| r.2 ||| n.2)

/-- Two lanes of VRED, VSCAN and the integer forms: add, min, max (R215, R436). -/
def redOp (op : RedOp) (f : VFmt) (rm : RMode) (x y : Nat) : Nat × BitVec 5 :=
  match f.grid? with
  | some g =>
    match op with
    | .add => fpOp .add g rm x y
    | .min => fpOp .min g rm x y
    | .max => fpOp .max g rm x y
  | none =>
    let w := f.width
    match op with
    | .add => ((x + y) % 2 ^ w, 0)
    | .min => (if sintOf y w < sintOf x w then y else x, 0)
    | .max => (if sintOf x w < sintOf y w then y else x, 0)

/-- The identity of an inactive lane (R215, R436). -/
def redIdentity (op : RedOp) (f : VFmt) : Nat :=
  match f.grid? with
  | some g =>
    match op with
    | .add => g.code true 0
    | .min => g.code false g.infCode
    | .max => g.code true g.infCode
  | none =>
    match op with
    | .add => 0
    | .min => 2 ^ (f.width - 1) - 1
    | .max => 2 ^ (f.width - 1)

/-- One level of the pairwise tree. -/
def pairUp (op : Nat → Nat → Nat × BitVec 5) : List (Nat × BitVec 5) → List (Nat × BitVec 5)
  | x :: y :: r =>
    let z := op x.1 y.1
    (z.1, x.2 ||| y.2 ||| z.2) :: pairUp op r
  | r => r

/-- The fixed pairwise tree of R215, level by level. -/
def redTree (op : Nat → Nat → Nat × BitVec 5) : Nat → List (Nat × BitVec 5) → Nat × BitVec 5
  | 0, ts => ts.headD (0, 0)
  | n + 1, ts => redTree op n (pairUp op ts)

/-- The doubling steps of R216 from distance `d` on. -/
def scanSteps (op : Nat → Nat → Nat × BitVec 5) : Nat → Nat → List Nat × BitVec 5 → List Nat × BitVec 5
  | 0, _, t => t
  | n + 1, d, t =>
    let rs := t.1.zipIdx.map fun xi => if xi.2 < d then (xi.1, 0) else op (t.1.getD (xi.2 - d) 0) xi.1
    scanSteps op n (2 * d) (rs.map (·.1), rs.foldl (fun a r => a ||| r.2) t.2)

/-- The integer operations of fn 0 to 10 of VINT (R426). -/
inductive IntOp where
  | add | sub | mul | and | or | xor | shl | shr | sar | min | max
  deriving DecidableEq, Repr

def intOp (op : IntOp) (w x y : Nat) : Nat :=
  let sh := y % 2 ^ Nat.log2 w
  match op with
  | .add => (x + y) % 2 ^ w
  | .sub => (x + 2 ^ w - y) % 2 ^ w
  | .mul => x * y % 2 ^ w
  | .and => x &&& y
  | .or => x ||| y
  | .xor => x ^^^ y
  | .shl => x * 2 ^ sh % 2 ^ w
  | .shr => x / 2 ^ sh
  | .sar => ((BitVec.ofNat w x).sshiftRight sh).toNat
  | .min => if sintOf y w < sintOf x w then y else x
  | .max => if sintOf x w < sintOf y w then y else x

/-- VCMP of one lane (R213, R429): every comparison with a NaN is false. -/
def fpCmp (c : VCond) (g : Grid) (x y : Nat) : Bool × BitVec 5 :=
  let a := g.decode x
  let b := g.decode y
  let r : Bool :=
    if a.isNan || b.isNan then false
    else match c with
      | .eq => a.same b
      | .ne => !a.same b
      | .lt => a.less false b
      | .le => a.less false b || a.same b
  (r, sigFlag [a, b])

/-- Bits written one per lane group: a bit whose lane is inactive keeps its value, a bit of no lane is 0 (R429). -/
def maskBits (L : Nat) (old : Word) (f : Nat → Option Bool) : Word :=
  BitVec.ofNat 64 (natOfLanes 1 ((List.range 64).map fun j =>
    if governed L j < L then
      match f (governed L j) with
      | some b => if b then 1 else 0
      | none => if old.getLsbD j then 1 else 0
    else 0))

/-! ### VARGX (R219, R427) -/

/-- The tie hash of an index. -/
def tieHash (seed : Word) (i : Nat) : Nat := (fmix32 (seed.truncate 32 ^^^ BitVec.ofNat 32 i)).toNat

/-- How two active lanes rank: whether the first is the more extreme; NaN ranks after every number. -/
def moreExtreme (isMax : Bool) (a b : Val) : Bool :=
  if a.isNan then false else if b.isNan then true else if isMax then b.less true a else a.less true b

/-- The extreme active lane. -/
def argExtreme (isMax : Bool) (seed : Word) (vals : List (Nat × Val)) : Option Nat :=
  (vals.foldl (fun (best : Option (Nat × Val)) x =>
    match best with
    | none => some x
    | some b =>
      if moreExtreme isMax x.2 b.2 then some x
      else if moreExtreme isMax b.2 x.2 then some b
      else if tieHash seed x.1 < tieHash seed b.1 then some x else some b) none).map (·.1)

/-! ### Conversions (R210, R211, R430 to R433) -/

/-- The sixteen random bits of source lane i (R208). -/
def laneRandom (L : Nat) (r : VWord) (i : Nat) : Nat :=
  if L ≤ 64 then lane r 32 i % 2 ^ 16 else lane r 16 i

/-- The base-2 logarithm, rounded down, of the largest finite value of a quantisation target (R211). -/
def targetEmax (t : Nat) : Int :=
  match storage t with
  | .float g => (Nat.log2 (g.mag g.maxCode).1 : Int) + (g.mag g.maxCode).2
  | _ => 6

/-- A code of a quantisation target, RNE saturating: an I8 code that saturates sets overflow and inexact. -/
def quantCode (t : Nat) (v : Val) : Nat × BitVec 5 :=
  let r := storageEncode t .rnesat 0 v
  match storage t with
  | .int _ _ => if r.2 &&& flagInvalid ≠ 0 then (r.1, flagOverflow ||| flagInexact) else r
  | _ => r

/-- The step against which the errors of R211 are counted: below every bit of a source or a scaled code. -/
def errStep : Int := -700

/-- The codes of a block under candidate scale `s`, with their exact error and flags. -/
def quantTry (t : Nat) (s : Int) (xs : List Val) : Nat × List Nat × BitVec 5 :=
  let qs := xs.map fun x => quantCode t (x.scale (-s))
  let err := (xs.zip qs).foldl (fun (a : Nat) xq =>
    let d := ((storageDecode t xq.2.1).scale s).steps errStep - xq.1.steps errStep
    a + d.natAbs * d.natAbs) 0
  (err, qs.map (·.1), qs.foldl (fun a q => a ||| q.2) 0)

/-- A block quantised: its scale code, its codes and its flags (R211). -/
def quantBlock (t : Nat) (xs : List Val) : Nat × List Nat × BitVec 5 :=
  let bad : Bool := xs.any fun x => match x with
    | .num _ _ _ => false
    | _ => true
  if bad then
    let nan := match storage t with
      | .float g => g.nanCode
      | _ => 0
    (0xFF, xs.map fun _ => nan, flagInvalid)
  else
    let big := xs.foldl (fun (a : Nat) x => Nat.max a (x.steps errStep).natAbs) 0
    if big = 0 then (0x7F, xs.map fun _ => 0, 0)
    else
      let s := (Nat.log2 big : Int) + errStep - targetEmax t
      let s0 : Int := if s < -126 then -126 else if s > 126 then 126 else s
      let lo := quantTry t (s0 - 1) xs
      let mid := quantTry t s0 xs
      let hi := quantTry t (s0 + 1) xs
      let (k, r) := if mid.1 ≤ lo.1 && mid.1 ≤ hi.1 then (s0, mid)
        else if hi.1 ≤ lo.1 then (s0 + 1, hi) else (s0 - 1, lo)
      ((k + 127).toNat, r.2.1, r.2.2)

/-- VQUANT on registers: the code register, the scale register and the flags (R432). -/
def vquant (f : VFmt) (t blk : Nat) (k : Word) (src oldC oldS : VWord) : VWord × VWord × BitVec 5 :=
  let L := f.lanes
  let b := if t = 12 then 4 else 8
  let nb := L / blk
  let go (acc : List Nat × List Nat × BitVec 5) (j : Nat) : List Nat × List Nat × BitVec 5 :=
    let here := (List.range blk).map (· + j * blk)
    let on := here.filter (laneOn k L)
    if on.isEmpty then
      (acc.1 ++ here.map (lane oldC b), acc.2.1 ++ [lane oldS 8 j], acc.2.2)
    else
      let r := quantBlock t (on.map fun i => f.decode (lane src f.width i))
      let codes := here.map fun i =>
        match (on.zip r.2.1).find? fun p => p.1 == i with
        | some p => p.2
        | none => lane oldC b i
      (acc.1 ++ codes, acc.2.1 ++ [r.1], acc.2.2 ||| r.2.2)
  let r := (List.range nb).foldl go ([], [], 0)
  (ofLanes b r.1, ofLanes 8 r.2.1, r.2.2)

/-- VDEQ of one lane (R433). -/
def vdeqLane (f : VFmt) (t c e : Nat) : Nat × BitVec 5 :=
  let v := scaledVal e (storageDecode t c)
  match v with
  | .nan _ => (f.grid.nanCode, 0)
  | _ => f.encode .rne 0 v

/-- VCVT on registers (R431). -/
def vcvt (dec : Bool) (f : VFmt) (t : Nat) (mode : RMode) (src old : VWord) : VWord × BitVec 5 :=
  let L := f.lanes
  let b := (fmtBits t).getD 8
  let rs := (List.range L).map fun n =>
    let rnd := laneRandom L old n
    if dec then f.encode mode rnd (storageDecode t (lane src b n))
    else storageEncode t mode rnd (f.decode (lane src f.width n))
  (ofLanes (if dec then f.width else b) (rs.map (·.1)), rs.foldl (fun a r => a ||| r.2) 0)

/-! ### The execution of one instruction -/

/-- A vector result with its flags, in a thread. -/
def Thread.vres (th : Thread) (d : VReg) (r : VWord × BitVec 5) : Thread := (th.setV d r.1).raise r.2

/-- A vector instruction executed on the registers of the thread that dispatched it (R313, R423). -/
def vecRun (u : UnitOp) (th : Thread) : Thread :=
  let V := th.getV
  let rm := rmodeOf u.rm
  let fp2 (op : FpOp) (f : VFmt) (d a b : VReg) (m : KReg) : Thread :=
    th.vres d (perLane f (th.getK m) (V d) fun i =>
      fpOp op f.grid rm (lane (V a) f.width i) (lane (V b) f.width i))
  let fp1 (f : VFmt) (d a : VReg) (m : KReg) (g : Nat → Nat × BitVec 5) : Thread :=
    th.vres d (perLane f (th.getK m) (V d) fun i => g (lane (V a) f.width i))
  let int2 (op : IntOp) (f : VFmt) (d a b : VReg) (m : KReg) : Thread :=
    th.vres d (perLane0 f (th.getK m) (V d) fun i =>
      intOp op f.width (lane (V a) f.width i) (lane (V b) f.width i))
  let vals (op : RedOp) (f : VFmt) (a : VReg) (m : KReg) : List Nat :=
    (List.range f.lanes).map fun i =>
      if laneOn (th.getK m) f.lanes i then lane (V a) f.width i else redIdentity op f
  match u.insn with
  | .vadd f d a b m => fp2 .add f d a b m
  | .vsub f d a b m => fp2 .sub f d a b m
  | .vmul f d a b m => fp2 .mul f d a b m
  | .vmin f d a b m => fp2 .min f d a b m
  | .vmax f d a b m => fp2 .max f d a b m
  | .vfma f d a b m =>
    th.vres d (perLane f (th.getK m) (V d) fun i =>
      fpFma f.grid rm (lane (V a) f.width i) (lane (V b) f.width i) (lane (V d) f.width i))
  | .vabs f d a m => fp1 f d a m (fpSign f.grid false)
  | .vneg f d a m => fp1 f d a m (fpSign f.grid true)
  | .vexp2 f d a m => fp1 f d a m (fpFaithful 0 f.grid)
  | .vrcp f d a m => fp1 f d a m (fpFaithful 1 f.grid)
  | .vrsq f d a m => fp1 f d a m (fpFaithful 2 f.grid)
  | .vlog2 f d a m => fp1 f d a m (fpFaithful 3 f.grid)
  | .vred op f d a m =>
    let r := redTree (redOp op f rm) (Nat.log2 f.lanes) ((vals op f a m).map fun x => (x, 0))
    th.vres d (ofLanes f.width [r.1], r.2)
  | .vscan op f d a m =>
    let r := scanSteps (redOp op f rm) (Nat.log2 f.lanes) 1 (vals op f a m, 0)
    (th.vres d (perLane0 f (th.getK m) (V d) fun i => r.1.getD i 0)).raise r.2
  | .vcmp c f k a b m =>
    let on := laneOn (th.getK m) f.lanes
    let cmp (i : Nat) := fpCmp c f.grid (lane (V a) f.width i) (lane (V b) f.width i)
    let fl := (List.range f.lanes).foldl (fun x i => if on i then x ||| (cmp i).2 else x) 0
    (th.setK k (maskBits f.lanes (th.getK k) fun i => if on i then some (cmp i).1 else none)).raise fl
  | .viadd f d a b m => int2 .add f d a b m
  | .visub f d a b m => int2 .sub f d a b m
  | .vimul f d a b m => int2 .mul f d a b m
  | .vand f d a b m => int2 .and f d a b m
  | .vor f d a b m => int2 .or f d a b m
  | .vxor f d a b m => int2 .xor f d a b m
  | .vshl f d a b m => int2 .shl f d a b m
  | .vshr f d a b m => int2 .shr f d a b m
  | .vsar f d a b m => int2 .sar f d a b m
  | .vimin f d a b m => int2 .min f d a b m
  | .vimax f d a b m => int2 .max f d a b m
  | .vsel f d a b m =>
    th.vres d (perLane0 f (th.getK m) (V b) fun i => lane (V a) f.width i)
  | .vshuf f d a b m =>
    th.vres d (perLane0 f (th.getK m) (V d) fun i => lane (V a) f.width (lane (V b) f.width i % f.lanes))
  | .vbcast f d _ m => th.vres d (perLane0 f (th.getK m) (V d) fun _ => u.x0.toNat % 2 ^ f.width)
  | .vmovg f d a _ =>
    th.setG (d.castLE (by decide)) (elemWord f (lane (V a) f.width (u.x1.toNat % f.lanes)))
  | .vlane f d _ _ =>
    th.vres d (perLane0 f (BitVec.allOnes 64) (V d) fun i =>
      if i = u.x1.toNat % f.lanes then u.x0.toNat % 2 ^ f.width else lane (V d) f.width i)
  | .vmask f k a => th.setK k (maskBits f.lanes 0 fun i => some (lane (V a) f.width i ≠ 0))
  | .vargx f d a isMax m =>
    let on := (List.range f.lanes).filter (laneOn (th.getK m) f.lanes)
    let xs := on.map fun i => (i, f.decode (lane (V a) f.width i))
    let r : Word := match argExtreme isMax u.seed xs with
      | some i => BitVec.ofNat 64 i
      | none => BitVec.allOnes 64
    (th.setG (d.castLE (by decide)) r).raise (sigFlag (xs.map (·.2)))
  | .vrng d _ _ m =>
    th.vres d (perLane0 .i32 (th.getK m) (V d) fun i =>
      (vrngLane (u.x0.truncate 32) (u.x1.truncate 32) i).toNat)
  | .vcvt dec f d a _ rm => th.vres d (vcvt dec f (ptrFmt u.ptr) rm (V a) (V d))
  | .vquant f d a _ m =>
    let r := vquant f (ptrFmt u.ptr) (2 ^ ptrK u.ptr) (th.getK m) (V a) (V d) (V (d + 1))
    ((th.setV d r.1).setV (d + 1) r.2.1).raise r.2.2
  | .vdeq f d a _ m =>
    let t := ptrFmt u.ptr
    let b := (fmtBits t).getD 8
    th.vres d (perLane f (th.getK m) (V d) fun i =>
      vdeqLane f t (lane (V a) b i) (lane (V (a + 1)) 8 (i / 2 ^ ptrK u.ptr)))
  | _ => th

/-- The oldest vector instruction of a tile completes (R45, R50, R221): one whose thread is gone leaves
nothing. -/
def execVectorCompletion (tile : Nat) (σ : State) : Host.Outcome State Fault Refusal :=
  match (σ.tile tile).vq with
  | [] => .next σ
  | u :: us =>
    if σ.tc tile < u.due then .next (σ.postAt u.due (.vectorCompletion tile))
    else
      let σ := σ.modTile tile fun t => { t with vq := us }.setRing u.ring .done false
      .next (if u.slot < 16 then σ.modThread { tile := tile, slot := u.slot } (vecRun u) else σ)

/-! ### The instructions -/

/-- The value of a g register that a vector field of five bits names. -/
def State.g5 (s : State) (r : Fin 32) : Word := s.g (r.castLE (by decide))

def execVadd (f : VFmt) (d a b : VReg) (m : KReg) (σ : State) : Host.Outcome State Fault Refusal :=
  opVector (unitOp σ (.vadd f d a b m)) σ
def execVsub (f : VFmt) (d a b : VReg) (m : KReg) (σ : State) : Host.Outcome State Fault Refusal :=
  opVector (unitOp σ (.vsub f d a b m)) σ
def execVmul (f : VFmt) (d a b : VReg) (m : KReg) (σ : State) : Host.Outcome State Fault Refusal :=
  opVector (unitOp σ (.vmul f d a b m)) σ
def execVfma (f : VFmt) (d a b : VReg) (m : KReg) (σ : State) : Host.Outcome State Fault Refusal :=
  opVector (unitOp σ (.vfma f d a b m)) σ
def execVmin (f : VFmt) (d a b : VReg) (m : KReg) (σ : State) : Host.Outcome State Fault Refusal :=
  opVector (unitOp σ (.vmin f d a b m)) σ
def execVmax (f : VFmt) (d a b : VReg) (m : KReg) (σ : State) : Host.Outcome State Fault Refusal :=
  opVector (unitOp σ (.vmax f d a b m)) σ
def execVabs (f : VFmt) (d a : VReg) (m : KReg) (σ : State) : Host.Outcome State Fault Refusal :=
  opVector (unitOp σ (.vabs f d a m)) σ
def execVneg (f : VFmt) (d a : VReg) (m : KReg) (σ : State) : Host.Outcome State Fault Refusal :=
  opVector (unitOp σ (.vneg f d a m)) σ
def execVexp2 (f : VFmt) (d a : VReg) (m : KReg) (σ : State) : Host.Outcome State Fault Refusal :=
  opVector (unitOp σ (.vexp2 f d a m)) σ
def execVrcp (f : VFmt) (d a : VReg) (m : KReg) (σ : State) : Host.Outcome State Fault Refusal :=
  opVector (unitOp σ (.vrcp f d a m)) σ
def execVrsq (f : VFmt) (d a : VReg) (m : KReg) (σ : State) : Host.Outcome State Fault Refusal :=
  opVector (unitOp σ (.vrsq f d a m)) σ
def execVlog2 (f : VFmt) (d a : VReg) (m : KReg) (σ : State) : Host.Outcome State Fault Refusal :=
  opVector (unitOp σ (.vlog2 f d a m)) σ
def execVred (op : RedOp) (f : VFmt) (d a : VReg) (m : KReg) (σ : State) : Host.Outcome State Fault Refusal :=
  opVector (unitOp σ (.vred op f d a m)) σ
def execVscan (op : RedOp) (f : VFmt) (d a : VReg) (m : KReg) (σ : State) : Host.Outcome State Fault Refusal :=
  opVector (unitOp σ (.vscan op f d a m)) σ
def execVcmp (c : VCond) (f : VFmt) (k : KReg) (a b : VReg) (m : KReg) (σ : State) :
    Host.Outcome State Fault Refusal :=
  opVector (unitOp σ (.vcmp c f k a b m)) σ
def execViadd (f : VFmt) (d a b : VReg) (m : KReg) (σ : State) : Host.Outcome State Fault Refusal :=
  opVector (unitOp σ (.viadd f d a b m)) σ
def execVisub (f : VFmt) (d a b : VReg) (m : KReg) (σ : State) : Host.Outcome State Fault Refusal :=
  opVector (unitOp σ (.visub f d a b m)) σ
def execVimul (f : VFmt) (d a b : VReg) (m : KReg) (σ : State) : Host.Outcome State Fault Refusal :=
  opVector (unitOp σ (.vimul f d a b m)) σ
def execVand (f : VFmt) (d a b : VReg) (m : KReg) (σ : State) : Host.Outcome State Fault Refusal :=
  opVector (unitOp σ (.vand f d a b m)) σ
def execVor (f : VFmt) (d a b : VReg) (m : KReg) (σ : State) : Host.Outcome State Fault Refusal :=
  opVector (unitOp σ (.vor f d a b m)) σ
def execVxor (f : VFmt) (d a b : VReg) (m : KReg) (σ : State) : Host.Outcome State Fault Refusal :=
  opVector (unitOp σ (.vxor f d a b m)) σ
def execVshl (f : VFmt) (d a b : VReg) (m : KReg) (σ : State) : Host.Outcome State Fault Refusal :=
  opVector (unitOp σ (.vshl f d a b m)) σ
def execVshr (f : VFmt) (d a b : VReg) (m : KReg) (σ : State) : Host.Outcome State Fault Refusal :=
  opVector (unitOp σ (.vshr f d a b m)) σ
def execVsar (f : VFmt) (d a b : VReg) (m : KReg) (σ : State) : Host.Outcome State Fault Refusal :=
  opVector (unitOp σ (.vsar f d a b m)) σ
def execVimin (f : VFmt) (d a b : VReg) (m : KReg) (σ : State) : Host.Outcome State Fault Refusal :=
  opVector (unitOp σ (.vimin f d a b m)) σ
def execVimax (f : VFmt) (d a b : VReg) (m : KReg) (σ : State) : Host.Outcome State Fault Refusal :=
  opVector (unitOp σ (.vimax f d a b m)) σ
def execVsel (f : VFmt) (d a b : VReg) (m : KReg) (σ : State) : Host.Outcome State Fault Refusal :=
  opVector (unitOp σ (.vsel f d a b m)) σ
def execVshuf (f : VFmt) (d a b : VReg) (m : KReg) (σ : State) : Host.Outcome State Fault Refusal :=
  opVector (unitOp σ (.vshuf f d a b m)) σ
/-- The g registers are read at issue (R423). -/
def execVbcast (f : VFmt) (d : VReg) (r : Fin 32) (m : KReg) (σ : State) : Host.Outcome State Fault Refusal :=
  opVector { unitOp σ (.vbcast f d r m) with x0 := σ.g5 r } σ
def execVmovg (f : VFmt) (d : Fin 32) (a : VReg) (i : Fin 32) (σ : State) : Host.Outcome State Fault Refusal :=
  opVector { unitOp σ (.vmovg f d a i) with x1 := σ.g5 i } σ
def execVlane (f : VFmt) (d : VReg) (r i : Fin 32) (σ : State) : Host.Outcome State Fault Refusal :=
  opVector { unitOp σ (.vlane f d r i) with x0 := σ.g5 r, x1 := σ.g5 i } σ
def execVmask (f : VFmt) (k : KReg) (a : VReg) (σ : State) : Host.Outcome State Fault Refusal :=
  opVector (unitOp σ (.vmask f k a)) σ
def execVargx (f : VFmt) (d : Fin 32) (a : VReg) (isMax : Bool) (m : KReg) (σ : State) :
    Host.Outcome State Fault Refusal :=
  opVector (unitOp σ (.vargx f d a isMax m)) σ
def execVrng (d : VReg) (b r : Fin 32) (m : KReg) (σ : State) : Host.Outcome State Fault Refusal :=
  opVector { unitOp σ (.vrng d b r m) with x0 := σ.g5 b, x1 := σ.g5 r } σ

/-- VCVT: the storage format is checked at issue (R430). -/
def execVcvt (dec : Bool) (f : VFmt) (d a : VReg) (n : AReg) (rm : RMode) (σ : State) :
    Host.Outcome State Fault Refusal :=
  let p := σ.me.getA n
  match fmtBits (ptrFmt p) with
  | none => ends (σ.trap cFormatInvalid p)
  | some b =>
    if ptrFmt p = 0 || ptrK p ≠ 0 then ends (σ.trap cFormatInvalid p)
    else if b > f.width then ends (σ.trap cInvalidOperand p)
    else opVector { unitOp σ (.vcvt dec f d a n rm) with ptr := p } σ

/-- Whether a format is a target of VQUANT: E2M1, I8 or a binary8 format. -/
def quantTarget (t : Nat) : Bool := t = 12 || t = 1 || (0x20 ≤ t && (fmtBits t).isSome)

/-- The checks of VQUANT and VDEQ at issue (R432, R433), those of R124 on a block-scaled pointer among them
(assumption 123). -/
def opQuant (f : VFmt) (n : AReg) (u : UnitOp) (σ : State) : Host.Outcome State Fault Refusal :=
  let p := σ.me.getA n
  if !quantTarget (ptrFmt p) || !σ.scaledOk n then ends (σ.trap cFormatInvalid p)
  else if 2 ^ ptrK p > f.lanes then ends (σ.trap cInvalidOperand p)
  else opVector { u with ptr := p } σ

def execVquant (f : VFmt) (d a : VReg) (n : AReg) (m : KReg) (σ : State) : Host.Outcome State Fault Refusal :=
  opQuant f n (unitOp σ (.vquant f d a n m)) σ
def execVdeq (f : VFmt) (d a : VReg) (n : AReg) (m : KReg) (σ : State) : Host.Outcome State Fault Refusal :=
  opQuant f n (unitOp σ (.vdeq f d a n m)) σ

end Sys2Proof.Machine
end

