-- ==== Sys2Proof/Machine/Matrix.lean ====
section
/-! DEFINITION. The matrix unit and the Infuser's instructions: issue checks, the queue, late faults, poison marks,
MMA and its loads and stores, ring rotation, streams (R51, R52, R217, R236 to R239, R259 to R264, R306, R318,
R380 to R385, R388 to R391). -/

namespace Sys2Proof.Machine

/-! ### Rows of R51 -/

/-- A row of R51: a number for the row, K, and whether the accumulator is FP64. -/
structure MmaRow where
  no   : Nat
  k    : Nat
  fp64 : Bool
  deriving DecidableEq, Repr

def mmaRow (fmt : Nat) : Option MmaRow :=
  match storage fmt with
  | .float _ =>
    if fmt = 8 then some { no := 0, k := 16, fp64 := true }
    else if fmt = 9 then some { no := 1, k := 32, fp64 := false }
    else if fmt = 10 || fmt = 11 then some { no := 2, k := 64, fp64 := false }
    else if fmt = 12 then some { no := 4, k := 256, fp64 := false }
    else some { no := 3, k := 128, fp64 := false }
  | _ => none

/-- The groups of an MMA: sixteen k each, or one k step in FP64 (R217). -/
def MmaRow.groups (r : MmaRow) : Nat := if r.fp64 then 16 else r.k / 16
def MmaRow.groupLen (r : MmaRow) : Nat := if r.fp64 then 1 else 16

/-! ### Late faults (R259 to R262) -/

def execLateFaultDelivery (t : ThreadId) (σ : State) : Host.Outcome State Fault Refusal := ends (σ.takeLate t)

/-- The matrix duration of an instruction once it is the head of the queue (R51, R62). -/
def matDuration (u : UnitOp) : Nat :=
  match u.insn with
  | .mma .. =>
    match mmaRow (ptrFmt u.ptr) with
    | some r => if r.no = 0 then 256 else if r.no = 1 then 128 else 64
    | none => 1
  | .mldb .. | .mldz .. | .mstz .. => 16
  | _ => 1

/-- The head of a tile's matrix queue begins. -/
def State.startHead (s : State) (tile : Nat) : State :=
  match (s.tile tile).mq with
  | [] => s
  | u :: us =>
    let due := s.tc tile + matDuration u
    (s.modTile tile fun t => { t with mq := { u with due := due } :: us }).postAt due (.matrixCompletion tile)

/-- The head of the queue has ended in a ring state; the next one begins. -/
def State.popHead (s : State) (tile : Nat) (st : RingSt) : State :=
  match (s.tile tile).mq with
  | [] => s
  | u :: us => (s.modTile tile fun t => { t with mq := us }.setRing u.ring st false).startHead tile

/-- A late fault of the head of the queue: the thread's later instructions are cancelled, and a parked thread
is woken (R260, R262). One whose thread is gone is discarded. -/
def State.lateFault (s : State) (tile : Nat) (u : UnitOp) (cause : Nat) (tval : Word) : State :=
  let t : ThreadId := { tile := tile, slot := u.slot }
  let th := s.thread t
  let gone : Bool := u.slot ≥ 16 || th.st == .free || th.st == .stopped || th.late.isSome
  let mine (v : UnitOp) : Bool := v.slot == u.slot && v.ring != u.ring
  let s := s.modTile tile fun ti =>
    let cut := ti.mq.filter mine
    let ti := cut.foldl (fun ti v => ti.setRing v.ring .cancelled false) ti
    ({ ti with mq := ti.mq.filter fun v => !mine v }).setRing u.ring .faulted (!gone)
  if gone then s
  else
    s.modThread t fun th =>
      let h := trapTarget false th.priv
      let b := th.bank h
      let th := { th with late := some { cause := BitVec.ofNat 7 cause, tval := tval, ring := u.ring } }
      let th := if b.nest then th.setBank h { b with pend := true } else th
      if b.nest then th
      else match th.st with
        | .parked _ => { th with st := .ready, expiry := none }
        | _ => th

/-- A late fault ends the head of the queue. -/
def State.faultHead (s : State) (tile : Nat) (u : UnitOp) (cause : Nat) (tval : Word) : State :=
  let s := s.lateFault tile u cause tval
  let s := s.modTile tile fun t => { t with mq := t.mq.drop 1 }
  s.startHead tile

/-! ### Issue (R45, R380) -/

/-- The accumulators and latches an instruction names. -/
def zlNamed : Instr → List ZReg × List LReg
  | .mzero _ z | .mstz z _ | .mldz z _ => ([z], [])
  | .mma z l _ | .mpois _ z l => ([z], [l])
  | .mldb l _ | .mrot l _ => ([], [l])
  | _ => ([], [])

/-- Whether a thread-redundant task names what belongs to its twin (R47). -/
def State.twinsReg (s : State) (i : Instr) : Bool :=
  (match s.myTile.task with
    | some k => k.rdm == 1
    | none => false) &&
  ((zlNamed i).1.any fun z => z.val ≥ 2) || ((match s.myTile.task with
    | some k => k.rdm == 1
    | none => false) && (zlNamed i).2.any fun l => l.val ≥ 1)

/-- A matrix instruction enters the unit's queue, or the thread is held while there is no room, or while an earlier access
of its that is performed elsewhere comes before the unit's (R158, R161, R183): the queue orders the unit's own. -/
def opMatrix (u : UnitOp) (σ : State) : Host.Outcome State Fault Refusal :=
  if σ.myTile.mq.length ≥ 4 || σ.myTile.ringKept ||
      (unitReach u).any (fun a => σ.fenceHolds a.1 a.2 || σ.caddyHolds a.1 a.2) then .next σ.held
  else
    let (q, σ) := σ.takeRing true
    let first := σ.myTile.mq.isEmpty
    let σ := σ.modMyTile fun t => { t with mq := t.mq ++ [{ u with ring := q }] }
    .next (if first then σ.startHead σ.cur.tile else σ).retire

/-- `go`, unless the instruction names its twin's registers. -/
def ifNamed (i : Instr) (σ : State) (go : Host.Outcome State Fault Refusal) : Host.Outcome State Fault Refusal :=
  if σ.twinsReg i then ends (σ.trap cIllegal (BitVec.ofNat 64 (encodeWord i))) else go

/-- A matrix operand found at issue: the cell of its first byte and of its first scale byte. -/
structure MatOperand where
  cells  : List Nat
  scales : List Nat
  deriving DecidableEq, Repr

/-- The scale bytes of a number of elements. -/
def scaleCount (n k : Nat) : Nat := (n + 2 ^ k - 1) / 2 ^ k

/-- The checks of a matrix pointer (R308, R380): format and K as `ok` admits them, the paths of the data and of the scale
pointer, the scale pointer's format, then extents in one bank and alignment (R125). -/
def State.matOperand (s : State) (a : AReg) (kind : AccKind) (ok : Bool) (bytes : Nat) :
    Except Why MatOperand :=
  let p := s.me.getA a
  let k := ptrK p
  let scale := if k = 0 then none else s.scalePtr a
  let onBank (p : Word) : Bool := [1, 2, 3].contains (ptrPath p)
  if !ok then .error (.trap cInvalidOperand p)
  else if !onBank p then .error (.trap cPathInvalid p)
  else
    match scale.filter fun sp => !onBank sp with
    | some sp => .error (.trap cPathInvalid sp)
    | none =>
      if k ≠ 0 && scale.isNone then .error (.trap cFormatInvalid p)
      else
        let data := (s.access [1, 2, 3] kind p true (ptrAddr p) bytes 256).get bytes
        let n := scaleCount (bytes * 8 / eb p) k
        let scs : Except Why (Bool × List Nat) := match scale with
          | none => .ok (true, [])
          | some sp => (s.access [1, 2, 3] .scale sp true (ptrAddr sp) n 1).get n
        match firstWhy ((whyOf data).toList ++ (whyOf scs).toList), data, scs with
        | some w, _, _ => .error w
        | none, .ok (_, cs), .ok (_, ss) => .ok { cells := cs, scales := ss }
        | none, .error w, _ => .error w
        | none, _, .error w => .error w

/-- Whether a format and K are admitted by a rule that admits rows of R51. -/
def rowOk (p : Word) (scaled : Bool) : Bool :=
  (mmaRow (ptrFmt p)).isSome && (ptrK p = 0 || (scaled && fmtScales (ptrFmt p)))

/-- A queued instruction with its operand: first cells, the scales' first cell and number. -/
def withOperand (u : UnitOp) (p sp : Word) (m : MatOperand) : UnitOp :=
  { u with ptr := p, x1 := sp, cells := m.cells.take 1, scales := m.scales.take 1, x0 := BitVec.ofNat 64 m.scales.length }

def execMzero (fp32 : Bool) (z : ZReg) (σ : State) : Host.Outcome State Fault Refusal :=
  ifNamed (.mzero fp32 z) σ (opMatrix (unitOp σ (.mzero fp32 z)) σ)

def execMma (z : ZReg) (l : LReg) (a : AReg) (σ : State) : Host.Outcome State Fault Refusal :=
  let p := σ.me.getA a
  ifNamed (.mma z l a) σ <|
    match σ.matOperand a .load (rowOk p true) 4096 with
    | .error w => ends (σ.stop (ptrPath p) .load w)
    | .ok m => opMatrix (withOperand (unitOp σ (.mma z l a)) p (σ.me.getA (a + 1)) m) σ

def execMldb (l : LReg) (a : AReg) (σ : State) : Host.Outcome State Fault Refusal :=
  let p := σ.me.getA a
  let few := ptrK p = 0 || scaleCount (32768 / eb p) (ptrK p) ≤ 512
  ifNamed (.mldb l a) σ <|
    match σ.matOperand a .load (rowOk p true && few) 4096 with
    | .error w => ends (σ.stop (ptrPath p) .load w)
    | .ok m => opMatrix (withOperand (unitOp σ (.mldb l a)) p (σ.me.getA (a + 1)) m) σ

def execMldz (z : ZReg) (a : AReg) (σ : State) : Host.Outcome State Fault Refusal :=
  let p := σ.me.getA a
  ifNamed (.mldz z a) σ <|
    match σ.matOperand a .load (rowOk p false && ptrFmt p ≠ 12) (imageBytes p) with
    | .error w => ends (σ.stop (ptrPath p) .load w)
    | .ok m => opMatrix (withOperand (unitOp σ (.mldz z a)) p 0 m) σ

/-- MSTZ: the writer capability of every granule is checked exactly (R383). -/
def execMstz (z : ZReg) (a : AReg) (σ : State) : Host.Outcome State Fault Refusal :=
  let p := σ.me.getA a
  let ok := ptrK p = 0 && (ptrFmt p = 8 || ptrFmt p = 9)
  ifNamed (.mstz z a) σ <|
    match σ.matOperand a .store ok (imageBytes p) with
    | .error w => ends (σ.stop (ptrPath p) .store w)
    | .ok m =>
      match σ.blockBusy m.cells with
      | some c => ends (σ.trap cControlBlock (σ.physAddr (c / 256 * 256)))
      | none =>
        match σ.capFail σ.myTag (granulesOf m.cells) with
        | some (cause, g) => ends (σ.trap cause (σ.granAddr g))
        | none => opMatrix (withOperand (unitOp σ (.mstz z a)) p 0 m) σ

def execMrot (l : LReg) (x : Axis) (σ : State) : Host.Outcome State Fault Refusal :=
  ifNamed (.mrot l x) σ (opMatrix (unitOp σ (.mrot l x)) σ)
def execMpois (g : GReg) (z : ZReg) (l : LReg) (σ : State) : Host.Outcome State Fault Refusal :=
  ifNamed (.mpois g z l) σ (opMatrix (unitOp σ (.mpois g z l)) σ)
def execMunsub (x : Fin 4) (σ : State) : Host.Outcome State Fault Refusal :=
  opMatrix (unitOp σ (.munsub x)) σ
def execMwait (x : Fin 4) (g : GReg) (σ : State) : Host.Outcome State Fault Refusal :=
  opMatrix (unitOp σ (.mwait x g)) σ

/-- The issue checks of MSUB and MPOST (R388): the descriptor pointer, with TVAL gs, then the ring or tile, each condition
of R308 for both before the next; a descriptor in a remote window may be refused (R247). `x1` keeps whether the thread runs
at task level, for the late check of granule 1023. -/
def opStream (u : UnitOp) (a : AReg) (g : GReg) (σ : State) : Host.Outcome State Fault Refusal :=
  let gs := σ.g g
  let p := σ.me.getA a
  let desc := (σ.access [0, 1, 2, 3] .load gs true (ptrAddr gs) 64 64).get 64
  let tile := (σ.access [1, 2, 3] .load p true (ptrAddr p) 1 256).get 1
  if ptrPath gs > 3 then ends (σ.trap cPathInvalid gs)
  else if !([1, 2, 3].contains (ptrPath p)) then ends (σ.trap cPathInvalid p)
  else
    match firstWhy ((whyOf desc).toList ++ (whyOf tile).toList), desc, tile with
    | none, .ok (_, ds), .ok (_, cs) =>
      if ds.any isRemoteCell && Config.remoteRefuses σ.frees then
        ends ((σ.refusedBy σ.myPart (remoteWin (ds.headD 0))).trap cRemoteLost gs)
      else
        let σ := if ds.any isRemoteCell then { σ with frees := σ.frees + 1 } else σ
        let task : Word := if σ.me.priv == .task then 1 else 0
        opMatrix { u with x0 := gs, x1 := task, ptr := p, cells := cs, scales := ds.take 1 } σ
    | some w, .error e, _ =>
      if w = e then
        match e with
        | .trap c _ => ends (σ.trap c gs)
        | w => ends (σ.stop (ptrPath gs) .load w)
      else ends (σ.stop (ptrPath p) .load w)
    | some w, _, _ => ends (σ.stop (ptrPath p) .load w)
    | none, _, _ => .next σ

def execMsub (x : Fin 4) (a : AReg) (g : GReg) (w : BitVec 6) (σ : State) : Host.Outcome State Fault Refusal :=
  opStream (unitOp σ (.msub x a g w)) a g σ
def execMpost (a : AReg) (g : GReg) (σ : State) : Host.Outcome State Fault Refusal :=
  opStream (unitOp σ (.mpost a g)) a g σ

/-! ### Loads and stores of the unit (R263, R381 to R383) -/

/-- The pointer of the 256-byte line that holds the byte at an offset of an operand (R257). -/
def linePtr (p : Word) (off : Nat) : Word := withAddr p ((ptrAddr p + off) / 256 * 256)

/-- The offset of the first poisoned word of `n` bytes. -/
def State.poisonOff (s : State) (base n : Nat) : Option Nat :=
  (s.firstPoison (cellsFrom base n)).map fun c => c / 8 * 8 - base

/-- What an operand of the unit is struck by: the TVAL of matrix-poisoned. -/
def State.struckLoad (s : State) (u : UnitOp) (n : Nat) : Option Word :=
  match s.poisonOff (u.cells.headD 0) n with
  | some o => some (linePtr u.ptr o)
  | none =>
    match if u.x0 = 0 then none else s.poisonOff (u.scales.headD 0) u.x0.toNat with
    | some o => some (linePtr u.x1 o)
    | none => u.struck.map fun _ => linePtr u.ptr 0

/-- The element codes of an image as a row of values. -/
def imageVals (fmt : Nat) (img : Nat) (n : Nat) (scales : Option (Nat × Nat)) : List Val :=
  let w := (fmtBits fmt).getD 8
  (List.range n).map fun q =>
    let v := storageDecode fmt (img / 2 ^ (w * q) % 2 ^ w)
    match scales with
    | none => v
    | some (img', k) => scaledVal (img' / 2 ^ (8 * (q / 2 ^ k)) % 256) v

/-- An accumulator image from codes of a format, each element widened (R382). -/
def widenImage (fmt : Nat) (img : Nat) : Nat :=
  if fmt = 8 || fmt = 9 then img
  else natOfLanes 32 ((imageVals fmt img 1024 none).map fun v => (roundFP gFp32 .rne 0 v).1)

def Tile.setZ (t : Tile) (z : ZReg) (x : Acc) : Tile := { t with z := t.z.set z x }
def Tile.setL (t : Tile) (l : LReg) (x : Latch) : Tile := { t with l := t.l.set l x }

/-- Flags of a unit's instruction joined at completion (R221). -/
def State.unitFlags (s : State) (tile : Nat) (u : UnitOp) (f : BitVec 5) : State :=
  if u.slot < 16 then s.modThread { tile := tile, slot := u.slot } (·.raise f) else s

/-- A load of the unit ends: from struck data it is marked and matrix-poisoned is raised. No flag is raised: of the
unit's instructions MMA alone raises any (R221). -/
def State.loadEnds (s : State) (tile : Nat) (u : UnitOp) (struck : Option Word) : State :=
  match struck with
  | some v => s.faultHead tile u cMatrixPoisoned v
  | none => s.popHead tile .done

/-! ### MMA (R217, R263, R384) -/

/-- One element of an accumulator over the groups of its row: FP64 fuses one k step at a time, the others sum
sixteen products exactly and round once. -/
def mmaElem (fp64 : Bool) : Nat → List (Val × Val) → Nat → Nat × BitVec 5
  | 0, _, c => (c, 0)
  | n + 1, ps, c =>
    if fp64 then
      match ps with
      | [] => (c, 0)
      | (a, b) :: rest =>
        let r := roundRaised gFp64 .rne (exactFma false a b (gFp64.decode c))
        let t := mmaElem fp64 n rest r.1
        (t.1, r.2 ||| t.2)
    else
      let ms := (ps.take 16).map fun ab => exactMul ab.1 ab.2
      let fl := ms.foldl (fun f m => f ||| m.2) 0
      let g := exactSum false (ms.map (·.1))
      let r := roundRaised gFp32 .rne (exactSum false [gFp32.decode c, g.1])
      let t := mmaElem fp64 n (ps.drop 16) r.1
      (t.1, fl ||| g.2 ||| r.2 ||| t.2)

/-- The accumulator after the first `groups` groups. -/
def mmaRun (r : MmaRow) (groups : Nat) (old : Nat) (a b : List Val) : Nat × BitVec 5 :=
  let w := if r.fp64 then 64 else 32
  let rows := (List.range 32).map fun i => (a.drop (i * r.k)).take r.k
  let cols := (List.range 32).map fun j => (List.range r.k).map fun k => b.getD (k * 32 + j) (.nan false)
  let cells := (List.range 1024).map fun e =>
    mmaElem r.fp64 groups ((rows.getD (e / 32) []).zip (cols.getD (e % 32) [])) (old / 2 ^ (w * e) % 2 ^ w)
  (natOfLanes w (cells.map (·.1)), cells.foldl (fun f c => f ||| c.2) 0)

/-- The first group that struck data enters, with the TVAL; none where everything is clean. -/
def State.struckGroup (s : State) (u : UnitOp) (r : MmaRow) : Option (Nat × Word) :=
  let base := u.cells.headD 0
  let w := eb u.ptr
  let bad (c n : Nat) : List Nat := (List.range (n / 8)).filter fun i => SMap.get false s.pois (c / 8 + i)
  let inA := (bad base 4096).map fun i => (i * 64 / w % r.k / r.groupLen, linePtr u.ptr (i * 8))
  let sc := u.scales.headD 0
  let k := ptrK u.ptr
  let inS := ((List.range u.x0.toNat).filter fun i => SMap.get false s.pois ((sc + i) / 8)).map fun i =>
    ((if 2 ^ k ≥ r.k then 0 else i * 2 ^ k % r.k / r.groupLen), linePtr u.x1 i)
  let inU := (u.struck.map fun g => (g, (0 : Word))).toList
  (inA ++ inS ++ inU).foldl (fun best x =>
    match best with
    | none => some x
    | some b => if x.1 < b.1 then some x else best) none

/-- MMA in the unit. -/
def State.mmaEnds (s : State) (tile : Nat) (u : UnitOp) (z : ZReg) (l : LReg) : State :=
  let t := s.tile tile
  let acc := t.z[z]
  let lat := t.l[l]
  match mmaRow (ptrFmt u.ptr), mmaRow lat.fmt with
  | some r, some rl =>
    if r.no ≠ rl.no || (r.no ≠ 3 && lat.fmt ≠ ptrFmt u.ptr) || acc.fp64 ≠ r.fp64 then
      s.faultHead tile u cInvalidOperand u.ptr
    else if acc.pois || lat.pois then s.faultHead tile u cPoisonedSource 0
    else
      let k := ptrK u.ptr
      let scA := if k = 0 then none else some (s.readN (u.scales.headD 0) u.x0.toNat, k)
      let scB := if lat.klog = 0 then none else some (lat.scales.toNat, lat.klog)
      let a := imageVals (ptrFmt u.ptr) (s.readN (u.cells.headD 0) 4096) (32 * r.k) scA
      let b := imageVals lat.fmt lat.data.toNat (32 * r.k) scB
      let hit := s.struckGroup u r
      let n := match hit with
        | some x => Nat.min x.1 r.groups
        | none => r.groups
      let res := mmaRun r n acc.data.toNat a b
      let new : Acc :=
        { acc with data := BitVec.ofNat 65536 res.1, pois := hit.isSome
                   grp := if hit.isSome then n else acc.grp, ring := if hit.isSome then u.ring else acc.ring }
      let s := s.modTile tile (·.setZ z new)
      match hit with
      | some x => s.faultHead tile u cMatrixPoisoned x.2
      | none => (s.unitFlags tile u res.2).popHead tile .done
  | _, _ => s.faultHead tile u cInvalidOperand u.ptr

/-- The word that MPOIS returns (R264). -/
def poisWord (z : Acc) (l : Latch) : Word :=
  BitVec.ofNat 64 ((if z.pois then 1 else 0) + (if l.pois then 2 else 0) + (if z.pois then z.grp % 32 * 4 else 0) +
    (if z.pois then z.ring.toNat * 256 else if l.pois then l.ring.toNat * 256 else 0))

/-- A g register written by the unit: it holds a matrix result until another instruction writes it (R260). -/
def State.matResult (s : State) (tile : Nat) (u : UnitOp) (g : GReg) (v : Word) : State :=
  if u.slot < 16 then
    s.modThread { tile := tile, slot := u.slot } fun th =>
      let th := th.setG g v
      { th with mres := if th.mres.contains g then th.mres else g :: th.mres }
  else s

/-! ### MROT (R238, R390) -/

def axisNo : Axis → Nat
  | .x => 0 | .y => 1 | .z => 2

/-- The ring neighbour at logical +1 along an axis, stand-ins used. -/
def State.ringNext (s : State) (tile axis : Nat) : Nat :=
  let n := (s.partOfTile tile).getD 0
  let x := tileX tile
  let y := tileY tile
  let z := s.logicalZ n (tileZ tile)
  let m := Nat.max 1 (s.part n).zmap.length
  (match axis with
    | 0 => s.atLogical n ((x + 1) % 16) y z
    | 1 => s.atLogical n x ((y + 1) % 16) z
    | _ => s.atLogical n x y ((z + 1) % m)).getD tile

/-- The ticks a latch takes to its neighbour: 4.5 KiB over the narrowest link of the route. -/
def rotTc (axis : Nat) : Nat := if axis = 2 then 36 else 144

/-- The head MROT sends its copy, and waits for the one on its way to it. -/
def State.rotSend (s : State) (tile : Nat) (u : UnitOp) (l : LReg) (axis : Nat) : State :=
  let nb := s.ringNext tile axis
  if nb = tile then s.popHead tile .done
  else
    let c : RotCopy := { axis := axis, at_ := s.tc nb + rotTc axis, latch := (s.tile tile).l[l] }
    let s := s.modTile nb fun t =>
      if t.rotSkip.contains axis then { t with rotSkip := t.rotSkip.erase axis } else { t with rotIn := t.rotIn ++ [c] }
    let s := s.modTile tile fun t =>
      { t with mq := match t.mq with
          | _ :: us => { u with sent := true, due := s.tc tile } :: us
          | [] => [] }
    ((s.postIn (rotTc axis) (.mrotExchange nb)).postIn (rotTc axis) (.mrotExchange tile)).postIn (2 ^ 20) (.rotationLost tile)

/-- The exchange of the MROT at the head: its outgoing copy has left and the incoming one has arrived. -/
def execMrotExchange (tile : Nat) (σ : State) : Host.Outcome State Fault Refusal :=
  let t := σ.tile tile
  match t.mq with
  | u :: _ =>
    match u.insn with
    | .mrot l x =>
      let ax := axisNo x
      match t.rotIn.find? fun c => c.axis = ax with
      | some c =>
        if u.sent && c.at_ ≤ σ.tc tile && u.due + rotTc ax ≤ σ.tc tile then
          let σ := σ.modTile tile fun t => { t.setL l c.latch with rotIn := dropFirst (· == c) t.rotIn }
          .next (σ.popHead tile .done)
        else .next σ
      | none => .next σ
    | _ => .next σ
  | [] => .next σ

/-- The copy has not come in 2^20 tc: rotation-lost, and the latch is zeroed. -/
def execRotationLost (tile : Nat) (σ : State) : Host.Outcome State Fault Refusal :=
  match (σ.tile tile).mq with
  | u :: _ =>
    match u.insn with
    | .mrot l x =>
      if u.sent && u.due + 2 ^ 20 ≤ σ.tc tile then
        let σ := σ.modTile tile fun t => { t.setL l Latch.zero with rotSkip := t.rotSkip ++ [axisNo x] }
        .next (σ.faultHead tile u cRotationLost (BitVec.ofNat 64 (axisNo x)))
      else .next σ
    | _ => .next σ
  | [] => .next σ

/-! ### Streams (R236, R237, R388, R389) -/

/-- The bytes of a stream's descriptor as the Infuser reads them, free values where they lie in a remote window. -/
def State.descBytes (s : State) (c : Nat) : List Byte × State :=
  if isRemoteCell c then
    ((List.range 64).map fun i => BitVec.ofNat 8 (Config.freeWord (s.frees + i)).toNat, { s with frees := s.frees + 64 })
  else (s.readBytes (cellsFrom c 64), s)

/-- The stream that an instruction names, made active where it is not; else the late fault: of a poisoned line in the
descriptor (DEDUCED, assumption 129), or invalid-operand where it is not valid or 64 streams are active. -/
def State.openStream (s : State) (n : Nat) (u : UnitOp) (root : Tag) : Except (Nat × Word) (State × Stream) :=
  let c := u.scales.headD 0
  match s.stream? n c with
  | some st => .ok (s, st)
  | none =>
    let (bs, s) := s.descBytes c
    let ds := dwordsOf 8 bs
    let d := ds.headD 0
    let tsize := bits d 15 0
    let nsub := bits d 22 16
    if !isRemoteCell c && s.poisoned (cellsFrom c 64) then .error (cMatrixPoisoned, linePtr u.x0 0)
    else if tsize % 256 ≠ 0 || tsize < 256 || tsize > 8192 || nsub < 1 || nsub > 64 || bitAt d 23 || bits d 63 48 ≠ 0 ||
        (ds.drop 1).any (· ≠ 0) || ((s.part n).streams.filter fun st => !st.broken).length ≥ 64 then
      .error (cInvalidOperand, u.x0)
    else
      let st : Stream :=
        { desc := c, va := ptrAddr u.x0, joins := 0, joined := [], pub := none, tsize := tsize, nsub := nsub
          ntile := bits d 47 24, subs := [], next := 0, broken := false, root := root }
      .ok (s.modPart n fun p => { p with streams := p.streams ++ [st] }, st)

/-- MSUB in the unit. -/
def State.subEnds (s : State) (tile : Nat) (u : UnitOp) (x w : Nat) : State :=
  let n := (s.partOfTile tile).getD 0
  let tag := s.tagOf { tile := tile, slot := u.slot }
  let bad (v : Word) : State := s.faultHead tile u cInvalidOperand v
  match s.openStream n u (s.rootTag tag) with
  | .error (c, v) => s.faultHead tile u c v
  | .ok (s1, st) =>
    let addr := ptrAddr u.ptr
    let base := u.cells.headD 0
    if st.broken then s1.faultHead tile u cStreamBroken (BitVec.ofNat 64 st.va)
    else if ((s.tile tile).sub x).on || st.subs.length ≥ st.nsub then bad u.x0
    else if addr % st.tsize ≠ 0 || addr + w * st.tsize > 2 ^ 22 ||
        (s.capFail tag (granulesOf ((List.range ((w * st.tsize + 4095) / 4096 + 1)).map fun i =>
          Nat.min (base + i * 4096) (base + w * st.tsize - 1)))).isSome then bad u.ptr
    else
      let b : Sub :=
        { on := true, stream := st.desc, path := ptrPath u.ptr, ring := addr, w := w, tsize := st.tsize
          ntile := st.ntile, arrived := st.next, given := st.next, released := st.next }
      let s1 := s1.modTile tile (·.setSub x b)
      let s1 := s1.modStream n st.desc fun st => { st with subs := st.subs ++ [(tile, x)], joins := st.joins + 1, joined := st.joined ++ [tag] }
      let s1 := s1.popHead tile .done
      s1.streamCheck n st.desc

/-- Whether an MPOST breaks a late check (R388). -/
def postBad (st : Stream) (tag : Tag) (u : UnitOp) : Bool :=
  (match st.pub with
    | some p => p ≠ tag
    | none => false) || ptrAddr u.ptr + st.tsize > 2 ^ 22 || (st.ntile ≠ 0 && st.next ≥ st.ntile)

/-- Whether a tile of task level runs into the dirty log's granule 1023 on path 1 (R128). -/
def postInLog (st : Stream) (u : UnitOp) : Bool :=
  u.x1 == 1 && ptrPath u.ptr == 1 && decide (ptrAddr u.ptr + st.tsize > 0x3FF000)

/-- MPOST at the head of the queue: its late checks, then the wait for admission. One that fails has no effect. The tile's
size is known only to the Infuser, so that address-range of R128 is raised late where the tile runs into the dirty log
(DEDUCED, assumption 124). -/
def State.postHead (s : State) (tile : Nat) (u : UnitOp) : State :=
  let n := (s.partOfTile tile).getD 0
  let tag := s.tagOf { tile := tile, slot := u.slot }
  match s.openStream n u (s.rootTag tag) with
  | .error (c, v) => s.faultHead tile u c v
  | .ok (s1, st) =>
    if st.broken then s.faultHead tile u cStreamBroken (BitVec.ofNat 64 st.va)
    else if postBad st tag u then s.faultHead tile u cInvalidOperand u.x0
    else if postInLog st u then s.faultHead tile u cAddressRange u.ptr
    else (s1.modStream n st.desc fun st => { st with pub := some tag }).postOnce (.infuserPostAdmit tile)

/-- Whether every subscriber has joined and every window has room. -/
def State.postReady (s : State) (st : Stream) : Bool :=
  st.joins ≥ st.nsub && st.subs.all fun b =>
    let q := (s.tile b.1).sub b.2
    st.next - q.released < q.w

/-- The MPOST at the head is admitted: its bytes are read at once and travel to every subscriber. -/
def execInfuserPostAdmit (tile : Nat) (σ : State) : Host.Outcome State Fault Refusal :=
  match (σ.tile tile).mq with
  | u :: _ =>
    match u.insn with
    | .mpost _ _ =>
      let n := (σ.partOfTile tile).getD 0
      match σ.stream? n (u.scales.headD 0) with
      | none => .next σ
      | some st =>
        if st.broken || st.pub ≠ some (σ.tagOf { tile := tile, slot := u.slot }) then .next (σ.pumpMatrix tile)
        else if !σ.postReady st then .next σ
        else
          let cells := cellsFrom (u.cells.headD 0) st.tsize
          let data := σ.readBytes cells
          let pois := (List.range (st.tsize / 256)).filter fun i => σ.poisoned ((cells.drop (256 * i)).take 256)
          let σ := st.subs.foldl (fun s b =>
            let d : Delivery :=
              { id := s.nextId, tile := b.1, sub := b.2, desc := st.desc, n := st.next, data := data, pois := pois }
            ({ s with deliveries := s.deliveries ++ [d], nextId := s.nextId + 1 }).post (.streamTileDelivery d.id)) σ
          let σ := σ.modStream n st.desc fun st => { st with next := st.next + 1 }
          .next (σ.popHead tile .done)
    | _ => .next σ
  | [] => .next σ

/-- A stream tile lands in its subscriber's slot, in sequence, its poisoned lines poisoned (R263); a delivery to a freed
ring is dropped, and one to a spilled subscriber lands with its ring (R95). -/
def execStreamTileDelivery (id : Nat) (σ : State) : Host.Outcome State Fault Refusal :=
  match σ.deliveries.find? fun d => d.id = id with
  | none => .next σ
  | some d =>
    let gone (s : State) : State := { s with deliveries := s.deliveries.filter fun x => x.id ≠ id }
    let b := (σ.tile d.tile).sub d.sub
    let n := (σ.partOfTile d.tile).getD 0
    let broken : Bool := match σ.stream? n d.desc with
      | some st => st.broken
      | none => false
    if !b.on || b.stream ≠ d.desc || broken || d.n < b.arrived then .next (gone σ)
    else if b.arrived < d.n then .next (σ.post (.streamTileDelivery id))
    else
      match σ.bankFor d.tile b.path with
      | none => .next (gone σ)
      | some bank =>
        let base := bankCell bank (b.ring + d.n % Nat.max 1 b.w * b.tsize)
        let tag := σ.tagOf { tile := d.tile, slot := 0 }
        let σ := (gone σ).storePoisoned tag ((cellsFrom base b.tsize).zip d.data)
          (d.pois.flatMap fun i => (List.range 32).map fun k => base + 256 * i + 8 * k)
        let σ := σ.modTile d.tile fun t => t.setSub d.sub { t.sub d.sub with arrived := d.n + 1 }
        .next (σ.pumpMatrix d.tile)

/-- MWAIT at the head: the slot given before is released, and the next tile taken once it is there. -/
def State.waitHead (s : State) (tile : Nat) (u : UnitOp) (x : Nat) (g : GReg) : State :=
  let n := (s.partOfTile tile).getD 0
  let b := (s.tile tile).sub x
  if !b.on then (s.matResult tile u g 0).faultHead tile u cInvalidOperand (BitVec.ofNat 64 x)
  else
    let broken : Option Nat := match s.stream? n b.stream with
      | some st => if st.broken then some st.va else none
      | none => none
    match broken with
    | some va => (s.matResult tile u g 0).faultHead tile u cStreamBroken (BitVec.ofNat 64 va)
    | none =>
      let b := { b with released := if u.sent then b.released else b.given }
      let s := (s.modTile tile fun t => { t.setSub x b with mq := match t.mq with
        | v :: vs => { v with sent := true } :: vs
        | [] => [] })
      let s := if u.sent then s else s.streamCheck n b.stream
      if b.arrived > b.given then
        let v := mkPtr b.path (b.ring + b.given % Nat.max 1 b.w * b.tsize)
        let s := s.modTile tile fun t => t.setSub x { t.sub x with given := b.given + 1 }
        (s.matResult tile u g v).popHead tile .done
      else if b.ntile ≠ 0 && b.released ≥ b.ntile then (s.matResult tile u g 0).popHead tile .done
      else s

/-- MUNSUB in the unit. -/
def State.unsubEnds (s : State) (tile : Nat) (u : UnitOp) (x : Nat) : State :=
  let n := (s.partOfTile tile).getD 0
  let b := (s.tile tile).sub x
  if !b.on then s.faultHead tile u cInvalidOperand (BitVec.ofNat 64 x)
  else
    match s.stream? n b.stream with
    | some st =>
      if st.broken then s.faultHead tile u cStreamBroken (BitVec.ofNat 64 st.va)
      else (s.leaveStream n tile x).popHead tile .done
    | none => (s.leaveStream n tile x).popHead tile .done

/-! ### Completion -/

/-- The head of a tile's matrix queue runs (R380). -/
def execMatrixCompletion (tile : Nat) (σ : State) : Host.Outcome State Fault Refusal :=
  let t := σ.tile tile
  match t.mq with
  | [] => .next σ
  | u :: _ =>
    if σ.tc tile < u.due then .next σ
    else
      let base := u.cells.headD 0
      match u.insn with
      | .mzero fp32 z => .next ((σ.modTile tile (·.setZ z { Acc.zero with fp64 := !fp32 })).popHead tile .done)
      | .mma z l _ => .next (σ.mmaEnds tile u z l)
      | .mldb l _ =>
        let hit := σ.struckLoad u 4096
        let x : Latch :=
          { fmt := ptrFmt u.ptr, klog := ptrK u.ptr, data := BitVec.ofNat 32768 (σ.readN base 4096)
            scales := BitVec.ofNat 4096 (if u.x0 = 0 then 0 else σ.readN (u.scales.headD 0) u.x0.toNat)
            pois := hit.isSome, ring := if hit.isSome then u.ring else 0 }
        .next ((σ.modTile tile (·.setL l x)).loadEnds tile u hit)
      | .mldz z _ =>
        let n := imageBytes u.ptr
        let hit := σ.struckLoad u n
        let x : Acc :=
          { fp64 := ptrFmt u.ptr == 8, data := BitVec.ofNat 65536 (widenImage (ptrFmt u.ptr) (σ.readN base n)), pois := hit.isSome, grp := 0
            ring := if hit.isSome then u.ring else 0 }
        .next ((σ.modTile tile (·.setZ z x)).loadEnds tile u hit)
      | .mstz z _ =>
        let acc := t.z[z]
        if acc.fp64 ≠ (ptrFmt u.ptr == 8) then .next (σ.faultHead tile u cInvalidOperand u.ptr)
        else if acc.pois then .next (σ.faultHead tile u cPoisonedSource 0)
        else
          let n := imageBytes u.ptr
          let tag := σ.tagOf { tile := tile, slot := u.slot }
          ends ((σ.storeCells tag ((cellsFrom base n).zip (bytesOfNat n acc.data.toNat))).popHead tile .done)
      | .mrot l x => .next (if u.sent then σ else σ.rotSend tile u l (axisNo x))
      | .mpois g z l => .next ((σ.matResult tile u g (poisWord t.z[z] t.l[l])).popHead tile .done)
      | .msub x _ _ w => .next (σ.subEnds tile u x.val w.toNat)
      | .mpost _ _ => .next (σ.postHead tile u)
      | .mwait x g => .next (σ.waitHead tile u x.val g)
      | .munsub x => .next (σ.unsubEnds tile u x.val)
      | _ => .next (σ.popHead tile .done)

end Sys2Proof.Machine
end

