-- ==== Sys2Proof/Machine/Collective.lean ====
section
/-! DEFINITION. Collectives: COLL, COLLWAIT and the completion of a collective (R175, R240 to R242, R354 to R356). -/

namespace Sys2Proof.Machine

/-- The register format of an f code (R48). -/
def vfmtOf (n : Nat) : VFmt :=
  match n with
  | 0 => .fp64 | 1 => .fp32 | 2 => .bf16 | 3 => .fp16 | 4 => .i64 | 5 => .i32 | 6 => .i16 | _ => .i8

/-- The fields of a collective's block (R240). -/
def cbOp (ds : List Word) : Nat := bits (ds.getD 0 0) 3 0
def cbRed (ds : List Word) : Nat := bits (ds.getD 0 0) 7 4
def cbFmt (ds : List Word) : Nat := bits (ds.getD 0 0) 11 8
def cbNpart (ds : List Word) : Nat := bits (ds.getD 0 0) 23 12
def cbRank (ds : List Word) : Nat := bits (ds.getD 0 0) 35 24
def cbRoot (ds : List Word) : Nat := bits (ds.getD 1 0) 11 0
def cbSrc (ds : List Word) : Word := ds.getD 2 0
def cbDst (ds : List Word) : Word := ds.getD 3 0
def cbCount (ds : List Word) : Nat := bits (ds.getD 4 0) 39 0
def cbDone (ds : List Word) : Nat := bits (ds.getD 5 0) 50 0
def cbPlist (ds : List Word) : Nat := bits (ds.getD 6 0) 50 0

/-- Step 2 of R355. -/
def cbBad (ds : List Word) : Bool :=
  bits (ds.getD 0 0) 63 36 ≠ 0 || bits (ds.getD 1 0) 63 12 ≠ 0 || bits (ds.getD 4 0) 63 40 ≠ 0 ||
  bits (ds.getD 5 0) 63 51 ≠ 0 || bits (ds.getD 6 0) 63 51 ≠ 0 || ds.getD 7 0 ≠ 0 ||
  cbOp ds > 3 || cbRed ds > 2 || cbFmt ds > 7 || cbNpart ds = 0 || cbRank ds ≥ cbNpart ds ||
  cbRoot ds ≥ cbNpart ds || cbCount ds = 0 || (cbRed ds ≠ 0 && cbOp ds ≥ 2)

/-- Bytes of an element, of SRC and of DST (R354). -/
def cbElem (ds : List Word) : Nat := (vfmtOf (cbFmt ds)).width / 8
def cbSrcLen (ds : List Word) : Nat :=
  cbCount ds * cbElem ds * (if cbOp ds = 1 then cbNpart ds else 1)
def cbDstLen (ds : List Word) : Nat :=
  cbCount ds * cbElem ds * (if cbOp ds = 2 then cbNpart ds else 1)
/-- Whether a participant's SRC is read: all but the ranks that receive a broadcast. -/
def cbReads (ds : List Word) : Bool := cbOp ds ≠ 3 || cbRank ds = cbRoot ds

/-- A buffer of a collective: its pointer, the paths that serve it, its bytes and what is done to it. -/
structure CollEnd where
  ptr   : Word
  paths : List Nat
  len   : Nat
  kind  : AccKind
  deriving DecidableEq, Repr

/-- The buffers that a block names: SRC, and DST. -/
def cbEnds (ds : List Word) : List CollEnd :=
  [{ ptr := cbSrc ds, paths := [0, 1, 2, 3, 4, 5], len := if cbReads ds then cbSrcLen ds else 0, kind := .load },
   { ptr := cbDst ds, paths := [0, 1, 2, 3, 5], len := cbDstLen ds, kind := .store }]

/-- Step 3 of R355, over both buffers: paths, then alignment, then extents. -/
def State.collEnds (s : State) (ds : List Word) : Option (Nat × Word) :=
  let es := cbEnds ds
  let b := cbElem ds
  match es.find? fun e => !e.paths.contains (ptrPath e.ptr), es.find? fun e => ptrAddr e.ptr % b ≠ 0 with
  | some e, _ => some (cPathInvalid, e.ptr)
  | none, some e => some (cMisaligned, e.ptr)
  | none, none =>
    let stops := es.map fun e => (s.rowStop e.kind e.ptr (ptrAddr e.ptr) e.len, e.ptr)
    match stops.find? fun x => x.1 == some cAddressRange, stops.find? fun x => x.1.isSome with
    | some x, _ => some (cAddressRange, x.2)
    | none, some x => some (x.1.getD 0, x.2)
    | none, none => none

/-- What step 6 found: the cells of SRC and DST. -/
structure CollBufs where
  src : List Nat
  dst : List Nat
  deriving DecidableEq, Repr

/-- Why a COLL does not start: the path and the kind of the access, and what it met; or the state that its reading of
PLIST ends in. -/
inductive CollStop where
  | why (path : Nat) (kind : AccKind) (w : Why)
  | ends (s : State)
  deriving DecidableEq, Repr

/-- Steps 3 to 6 of R355: the completion word's cell, the PLIST, the buffers' cells, and the state after the reading. -/
def State.collChecks (s : State) (p : Word) (ds : List Word) : Except CollStop (Nat × List Word × CollBufs × State) :=
  let src := cbSrc ds
  let dst := cbDst ds
  match s.collEnds ds with
  | some (cause, q) => .error (.why 0 .load (.trap cause q))
  | none =>
    let dp := mkPtr 0 (cbDone ds)
    match (s.access [0] .store dp true (cbDone ds) 8 8).get 8 with
    | .error w => .error (.why 0 .store w)
    | .ok (_, dc) =>
      if dc.any (s.outsideStore s.cur.tile) then .error (.why 0 .store (.trap cPathInvalid dp))
      else
        match s.reachWalk s.myTag s.me.priv .load true (cbNpart ds / 512 + 2) (cbPlist ds) (8 * cbNpart ds) with
        | .error w => .error (.why 0 .load w)
        | .ok pc =>
          match s.readNow 0 (cbPlist ds + ·) pc with
          | .error s' => .error (.ends s')
          | .ok (pb, s) =>
            let pl := dwordsOf (cbNpart ds) pb
            let own := s.floor.device
            if bits (pl.getD (cbRank ds) 0) 31 0 ≠ (s.tileId s.cur.tile).toNat then
              .error (.why 0 .load (.trap cInvalidOperand p))
            else if pl.any fun e => bits e 31 16 ≠ own && s.importSt s.myPart (bits e 43 32) ≠ 1 then
              .error (.why 0 .load (.trap cRemoteLost (BitVec.ofNat 64 (cbPlist ds))))
            else
              match (if cbReads ds then s.rowCells .load src (ptrAddr src) (cbSrcLen ds) else .ok []) with
              | .error w => .error (.why (ptrPath src) .load w)
              | .ok sc =>
                match s.rowCells .store dst (ptrAddr dst) (cbDstLen ds) with
                | .error w => .error (.why (ptrPath dst) .store w)
                | .ok tc => .ok (dc.headD 0, pl, { src := sc, dst := tc }, s)

/-- Whether two PLISTs are one content, one of them perhaps cut by a differing NPART (R242). -/
def samePlist (a b : List Word) : Bool := a.isPrefixOf b || b.isPrefixOf a

/-- Whether two participants' descriptors differ (R242). -/
def collDiffer (a b : CollPart) : Bool := bits a.d0 23 0 ≠ bits b.d0 23 0 || a.count ≠ b.count

/-- A participant joins the oldest collective of its root and PLIST that its rank has not joined (R355). -/
def State.joinColl (s : State) (n : Nat) (root : Tag) (pl : List Word) (q : CollPart) : State :=
  match (s.part n).colls.find? fun c => c.root == root && samePlist c.plist pl && !c.gone.contains q.rank &&
      !c.parts.any fun x => x.rank == q.rank with
  | some c =>
    let c' : Collective :=
      { c with parts := c.parts ++ [q], plist := if pl.length > c.plist.length then pl else c.plist
               status := if c.status = 0 && (c.parts.any (collDiffer q)) then 3 else c.status }
    (s.modPart n fun p => { p with colls := p.colls.map fun x => if x.id = c.id then c' else x }).postOnce
      (.collCompletion c.id)
  | none =>
    let c : Collective := { id := s.nextId, root := root, plist := pl, parts := [q], gone := [], status := 0 }
    (({ s with nextId := s.nextId + 1 }).modPart n fun p => { p with colls := p.colls ++ [c] }).postOnce
      (.collCompletion c.id)

/-- The participations of a tile in flight. -/
def State.collsOfTile (s : State) (n tile : Nat) : Nat :=
  (((s.part n).colls.map fun c => (c.parts.filter fun q => q.tile == tile).length)).sum

def execColl (a : AReg) (σ : State) : Host.Outcome State Fault Refusal :=
  let p := σ.me.getA a
  match (σ.access [0, 1, 2, 3] .load p true (ptrAddr p) 64 64).get 64 with
  | .error w => ends (σ.stop (ptrPath p) .load w)
  | .ok (_, bc) =>
    match σ.readNow (ptrPath p) (ptrAddr p + ·) bc with
    | .error σ' => ends σ'
    | .ok (bb, σ) =>
      let ds := dwordsOf 8 bb
      if cbBad ds then ends (σ.trap cInvalidOperand p)
      else
        match σ.collChecks p ds with
        | .error (.why path kind w) => ends (σ.stop path kind w)
        | .error (.ends σ') => ends σ'
        | .ok (done, pl, b, σ) =>
          let apart := !b.src.any b.dst.contains || ((cbOp ds = 0 || cbOp ds = 3) && b.src == b.dst)
          let grs := granulesOf ((b.dst ++ [done]).filter fun c => !isRemoteCell c)
          if !apart then ends (σ.trap cInvalidOperand (cbDst ds))
          else
            match σ.capFail σ.myTag grs with
            | some (cause, g) => ends (σ.trap cause (σ.granAddr g))
            | none =>
              if σ.dieCopy then ends (σ.trap cRedundancy p)
              else
                match σ.releaseAt .fab with
                | some σ' => .next σ'
                | none =>
                  let n := σ.myPart
                  if σ.collsOfTile n σ.cur.tile ≥ 8 then .next σ.held
                  else
                    let q : CollPart :=
                      { tile := σ.cur.tile, tid := σ.cur, tag := σ.myTag, block := bc.headD 0, rank := cbRank ds
                        d0 := ds.getD 0 0, root := cbRoot ds, count := cbCount ds, src := b.src, dst := b.dst
                        done := done, ord := σ.nextId }
                    ends (σ.joinColl n (σ.rootTag σ.myTag) pl q).retire

/-! ### Completion -/

/-- An element of a buffer: its code, and whether a word it lies in is poisoned. -/
def State.collElem (s : State) (cells : List Nat) (b i : Nat) : Nat × Bool :=
  let cs := (cells.drop (i * b)).take b
  (natOfBytes (cs.map s.byte), s.poisoned cs)

/-- The tree of R241 over ranks. -/
def collTree (red : RedOp) (f : VFmt) (xs : List (Nat × Bool)) : Nat × Bool :=
  let L := 2 ^ Nat.log2 (2 * xs.length - 1)
  let vals := xs.map (fun x => (x.1, (0 : BitVec 5))) ++
    List.replicate (L - xs.length) (redIdentity red f, 0)
  ((redTree (redOp red f .rne) (Nat.log2 L) vals).1, xs.any (·.2))

/-- Element `i` of the buffer of rank `k`; a rank of another device, or one whose buffer lies in a remote window, brings a
free value (assumption 6). -/
def State.collIn (s : State) (ps : List CollPart) (b k i : Nat) : Nat × Bool :=
  let far : Nat × Bool :=
    let x := Config.remoteElem s.frees k i
    (x.1.toNat % 2 ^ (8 * b), x.2)
  match ps.find? fun q => q.rank == k with
  | some q => if ((q.src.drop (i * b)).take b).any isRemoteCell then far else s.collElem q.src b i
  | none => far

/-- The elements that rank r receives (R354). -/
def State.collResult (s : State) (ps : List CollPart) (r : Nat) : List (Nat × Bool) :=
  match ps.find? fun q => q.rank == r with
  | none => []
  | some me =>
    let op := bits me.d0 3 0
    let f := vfmtOf (bits me.d0 11 8)
    let b := f.width / 8
    let red : RedOp := match bits me.d0 7 4 with
      | 0 => .add | 1 => .min | _ => .max
    let n := bits me.d0 23 12
    let total (i : Nat) : Nat × Bool := collTree red f ((List.range n).map fun k => s.collIn ps b k i)
    match op with
    | 0 => (List.range me.count).map total
    | 1 => (List.range me.count).map fun j => total (r * me.count + j)
    | 2 => (List.range n).flatMap fun k => (List.range me.count).map fun j => s.collIn ps b k j
    | _ => (List.range me.count).map fun j => s.collIn ps b me.root j

/-- A result written to a participant's DST, poison with it. -/
def State.collWrite (s : State) (q : CollPart) (res : List (Nat × Bool)) (keep : Nat → Bool) : State :=
  let b := (vfmtOf (bits q.d0 11 8)).width / 8
  let bytes := res.flatMap fun x => (bytesOfNat b x.1).map fun y => (y, x.2)
  let pairs := ((q.dst.zip bytes).zipIdx.filter fun e => keep e.2 && !isRemoteCell e.1.1).map (·.1)
  s.storePoisoned q.tag (pairs.map fun e => (e.1, e.2.1)) ((pairs.filter fun e => e.2.2).map fun e => e.1 / 8 * 8).eraseDups

/-- A participant's completion word is written, with release. -/
def State.collDone (s : State) (q : CollPart) (st : Nat) : State := s.write64 q.tag q.done (BitVec.ofNat 64 st)

/-- The ranks of a collective that lie on this device. -/
def State.ranksHere (s : State) (pl : List Word) : List Nat :=
  (List.range pl.length).filter fun r => bits (pl.getD r 0) 31 16 == s.floor.device

/-- A collective as far as it has come: every rank joined and agreeing, it completes; a participant lost or
descriptors that disagree end it for the ranks that have issued (R241, R242). After a loss each byte of an
output holds its old or its final value. When the ranks of another device join, and with what, is a free value. -/
def execCollCompletion (id : Nat) (σ : State) : Host.Outcome State Fault Refusal :=
  match (List.range 8).findSome? fun n => ((σ.part n).colls.find? fun c => c.id = id).map fun c => (n, c) with
  | none => .next σ
  | some (n, c) =>
    let here := σ.ranksHere c.plist
    let all := here.all fun r => c.parts.any fun q => q.rank == r
    let far := if here.length = c.plist.length then 2 else Config.remoteRanks σ.frees
    let setColl (s : State) (f : Collective → Option Collective) : State :=
      s.modPart n fun p => { p with colls := p.colls.filterMap fun x => if x.id = id then f x else some x }
    let results := c.parts.map fun q => (q, σ.collResult c.parts q.rank)
    if c.status = 0 then
      if !all then .next σ
      else if far = 0 then .next (({ σ with frees := σ.frees + 1 }).postOnce (.collCompletion id))
      else if far = 1 then
        .next ((setColl { σ with frees := σ.frees + 1 } fun x => some { x with status := 3 }).postOnce
          (.collCompletion id))
      else
        let σ := { σ with frees := σ.frees + 1 }
        let σ := results.foldl (fun s r => s.collWrite r.1 r.2 fun _ => true) σ
        let σ := c.parts.foldl (fun s q => s.collDone q 1) σ
        ends (setColl σ fun _ => none)
    else
      let σ := if c.status = 2 && all then
          results.foldl (fun s r =>
            let k := s.frees
            ({ s with frees := s.frees + r.1.dst.length }).collWrite r.1 r.2 fun i =>
              (Config.freeWord (k + i)).toNat % 2 = 1) σ
        else σ
      let live := c.parts.filter fun q => !c.gone.contains q.rank
      let σ := live.foldl (fun s q => s.collDone q c.status) σ
      let gone := (c.gone ++ c.parts.map (·.rank)).eraseDups
      ends (setColl σ fun x =>
        if here.all gone.contains then none
        else some { x with parts := [], gone := gone })

/-- The completion word that a COLLWAIT waits for: that of a collective in flight whose block the task named, and none
where there is none. -/
def State.collOf (s : State) (block : Nat) : Option CollPart :=
  (s.part s.myPart).colls.findSome? fun x => x.parts.find? fun q => q.tag == s.myTag && q.block == block

/-- The value of a completion word, consumed. -/
def State.collWord (s : State) (d : GReg) (path : Nat) (va : Nat) (cells : List Nat) : State :=
  match s.readNow path (va + ·) cells with
  | .error s' => s'
  | .ok (bs, s') => (s'.setG d (BitVec.ofNat 64 (natOfBytes bs))).retire

/-- COLLWAIT (R356): held while the collective of that block is in flight, then the completion word that it wrote; where none
is in flight, the current value of the word that the block names (assumption 56). -/
def execCollwait (d : GReg) (a : AReg) (σ : State) : Host.Outcome State Fault Refusal :=
  let p := σ.me.getA a
  match (σ.access [0, 1, 2, 3] .load p true (ptrAddr p) 64 64).get 64 with
  | .error w => ends (σ.stop (ptrPath p) .load w)
  | .ok (_, bc) =>
    match σ.collOf (bc.headD 0), σ.me.outcome with
    | some q, _ => .next ((σ.modMe fun th => { th with outcome := some (BitVec.ofNat 64 q.done) }).held)
    | none, some c => ends (σ.collWord d 0 0 (cellsFrom c.toNat 8))
    | none, none =>
      match σ.readNow (ptrPath p) (ptrAddr p + ·) bc with
      | .error σ' => ends σ'
      | .ok (bb, σ) =>
        let at_ := cbDone (dwordsOf 8 bb)
        match (σ.access [0] .store (mkPtr 0 at_) true at_ 8 8).get 8 with
        | .error w => ends (σ.stop 0 .store w)
        | .ok (_, dc) => ends (σ.collWord d 0 at_ dc)

end Sys2Proof.Machine
end

