-- ==== Sys2Proof/Machine/Kettle.lean ====
section
/-! DEFINITION. The Kettle units' commands: KCMD, KFENCE, KSTAT and the steps of a unit (R276, R320 to R322, R369 to
R372). -/

namespace Sys2Proof.Machine

/-- The floating grid of an operand's format: FP64, FP32, BF16 or FP16. -/
def kGrid (fmt : Nat) : Option Grid :=
  match fmt with
  | 8 => some gFp64
  | 9 => some gFp32
  | 10 => some gBf16
  | 11 => some gFp16
  | _ => none

/-- What step 5 of R321 refuses in a block: reserved fields, OP, COUNT, FACT (R320, R369). -/
def kBad (g : Grid) (ds : List Word) (addr : Nat) : Bool :=
  let d0 := ds.getD 0 0
  let f := (ds.getD 1 0).toNat
  let d2 := ds.getD 2 0
  let op := bits d0 7 0
  let n := bits d0 31 8
  bits d0 63 32 ≠ 0 || bits d2 7 2 ≠ 0 || bits d2 15 13 ≠ 0 || bits d2 63 32 ≠ 0 || (ds.drop 3).any (· ≠ 0) ||
  op = 0 || op > 4 || n = 0 || f ≥ 2 ^ g.width || addr % 4096 + n * (g.width / 8) > 4096 ||
  (op = 4 && (f ≥ 2 ^ (g.width - 1) || (g.decode f).isNan))

/-- One element under a command (R369), with its flags. -/
def kElem (op : Nat) (g : Grid) (f e : Nat) : Nat × BitVec 5 :=
  let x := g.decode e
  let y := g.decode f
  match op with
  | 1 => roundRaised g .rne (exactMul x y)
  | 2 => roundRaised g .rne (exactSum false [x, y])
  | 3 => (f, 0)
  | _ =>
    match x with
    | .nan sig => (g.nanCode, if sig then flagInvalid else 0)
    | _ =>
      if x.less false y.negate then (f + 2 ^ (g.width - 1), 0)
      else if y.less false x then (f, 0) else (e, 0)

/-- KCMD (R321): the checks in their order, then the queue of sixteen. -/
def execKcmd (d : GReg) (a : AReg) (t : GReg) (σ : State) : Host.Outcome State Fault Refusal :=
  let p := σ.me.getA a
  let q := σ.g t
  if ptrPath p ≠ 6 then ends (σ.trap cPathInvalid p)
  else if ptrPath q > 3 then ends (σ.trap cPathInvalid q)
  else
    match kGrid (ptrFmt p) with
    | none => ends (σ.trap cFormatInvalid p)
    | some g =>
      let b := g.width / 8
      if ptrK p ≠ 0 then ends (σ.trap cFormatInvalid p)
      else if ptrAddr p % b ≠ 0 then ends (σ.trap cMisaligned p)
      else if ptrAddr q % 64 ≠ 0 then ends (σ.trap cMisaligned q)
      else
        match (σ.access [0, 1, 2, 3] .atomic q true (ptrAddr q) 64 64).get 64 with
        | .error w => ends (σ.stop (ptrPath q) .atomic w)
        | .ok (near, bc) =>
          if bc.any isRemoteCell then ends (σ.trap cPathInvalid q)
          else
            match σ.consume σ.cur bc with
            | some σ' => ends σ'
            | none =>
              let ds := dwordsOf 8 (σ.readBytes bc)
              if kBad g ds (ptrAddr p) then ends (σ.trap cInvalidOperand q)
              else
                let n := bits (ds.getD 0 0) 31 8 * b
                match (σ.access [6] .atomic p true (ptrAddr p) n b).get n with
                | .error (.trap c v) => ends (if c = cRemoteLost then σ.trap cPathInvalid p else σ.trap c v)
                | .error w => ends (σ.stop 6 .atomic w)
                | .ok (_, cs) =>
                  let base := cs.headD 0
                  if 2 ^ 63 ≤ base then ends (σ.trap cPathInvalid p)
                  else
                    match σ.serving (kettleOf base) with
                    | none => ends (σ.trap cPathInvalid p)
                    | some u =>
                      match σ.capFail σ.myTag [base / 4096, cellGranule (bc.headD 0)] with
                      | some (cause, gr) => ends (σ.trap cause (σ.granAddr gr))
                      | none =>
                        if σ.dieCopy then ends (σ.trap cRedundancy p)
                        else if σ.dirtyLacks (ptrAddr p :: (if near then [] else [ptrAddr q])) || σ.mustHold 6 cs ||
                            σ.mustHold (ptrPath q) bc then
                          .next σ.held
                        else if (σ.kettle u).queue.length ≥ 16 then ends (σ.setG d 1).retire
                        else
                          match σ.release with
                          | some σ' => .next σ'
                          | none =>
                            let σ := σ.dirty σ.cur (ptrAddr p)
                            let σ := if near then σ else σ.dirty σ.cur (ptrAddr q)
                            let c : KCommand :=
                              { tid := σ.cur, tag := σ.myTag, root := σ.rootOf σ.myTag, block := bc.headD 0, d0 := ds.getD 0 0
                                fact := ds.getD 1 0, fmt := ptrFmt p, base := base, map := 0, flags := 0
                                line := base / 256 % 16, active := false, lost := false
                                killed := false, ord := σ.nextId }
                            let σ := { σ with nextId := σ.nextId + 1 }
                            let σ := σ.modKettle u fun k => { k with queue := k.queue ++ [c] }
                            ends ((σ.postOnce (.kettleCommandStart u)).setG d 0).retire

/-- KFENCE (R371): held until the task's commands accepted before it are applied, then a release over all paths. -/
def execKfence (σ : State) : Host.Outcome State Fault Refusal :=
  let tag := σ.myTag
  let mark := σ.me.kmark.getD σ.nextId
  if σ.kettles.any fun e => e.2.queue.any fun k => k.tag == tag && k.ord < mark then
    .next (σ.modMe fun th => { th with kmark := some mark }).held
  else
    match σ.release with
    | some σ' => .next (σ'.modMe fun th => { th with kmark := some mark })
    | none => .next (σ.modMe fun th => { th with kmark := none }).retire

/-- The report of KSTAT on the unit that serves an address (R372). -/
def State.kstatWord (s : State) (addressed u : Nat) : Word :=
  let k := s.kettle u
  let mine := (k.queue.filter fun c => c.tag == s.myTag).length
  let home : Home := .kettle u
  let wins := (s.windows.filter fun w => w.homes.contains home).length
  let caddy := ((s.windows.map fun w => (w.caddy.filter fun c => c.upd.home == home).length)).sum
  BitVec.ofNat 64 (k.queue.length % 32 + mine % 32 * 2 ^ 5 + wins % 128 * 2 ^ 10 + caddy % 512 * 2 ^ 17 +
    s.eventsHeld (.kettle u) % 4 * 2 ^ 26 + (if u = addressed then 0 else 2 ^ 28) + u % 32 * 2 ^ 29)

def execKstat (d : GReg) (a : AReg) (σ : State) : Host.Outcome State Fault Refusal :=
  let p := σ.me.getA a
  match (σ.access [0, 6] .load p true (ptrAddr p) 1 1).get 1 with
  | .error (.trap c v) => ends (if c = cRemoteLost then σ.trap cPathInvalid p else σ.trap c v)
  | .error w => ends (σ.stop (ptrPath p) .load w)
  | .ok (_, cs) =>
    let c := cs.headD 0
    if 2 ^ 63 ≤ c then ends (σ.trap cPathInvalid p)
    else
      match σ.serving (kettleOf c) with
      | none => ends (σ.trap cPathInvalid p)
      | some u => .next (σ.setG d (σ.kstatWord (kettleOf c) u)).retire

/-! ### The unit (R321, R322) -/

/-- The oldest command becomes the one that runs. -/
def execKettleCommandStart (unit : Nat) (σ : State) : Host.Outcome State Fault Refusal :=
  match (σ.kettle unit).queue with
  | [] => .next σ
  | c :: cs =>
    if c.active then .next σ
    else
      .next ((σ.modKettle unit fun k => { k with queue := { c with active := true } :: cs }).postIn 200
        (.kettleLine unit))

/-- The elements of a command that lie in a line of its granule: the cells of each. -/
def kLineCells (c : KCommand) (line : Nat) : List Nat :=
  let b := ((kGrid c.fmt).getD gFp64).width / 8
  let lo := c.base
  let hi := c.base + bits c.d0 31 8 * b
  let g := c.base / 4096 * 4096
  ((List.range (256 / b)).map fun i => g + line * 256 + i * b).filter fun x => lo ≤ x && x < hi

/-- The last line of a command in its granule. -/
def kLastLine (c : KCommand) : Nat :=
  (c.base % 4096 + bits c.d0 31 8 * (((kGrid c.fmt).getD gFp64).width / 8) - 1) / 256

/-- A line's read-modify-write, in one instant. -/
def State.kRun (s : State) (c : KCommand) : State × BitVec 5 :=
  let g := (kGrid c.fmt).getD gFp64
  let b := g.width / 8
  let rs := (kLineCells c c.line).map fun x => (x, kElem (bits c.d0 7 0) g c.fact.toNat (s.readN x b))
  (s.storeCells c.tag (rs.flatMap fun r => (cellsFrom r.1 b).zip (bytesOfNat b r.2.1)),
    rs.foldl (fun f r => f ||| r.2.2) 0)

/-- The command at the head of a unit's queue goes, and nothing of it is left to happen; the next one starts. -/
def State.kDrop (s : State) (unit : Nat) : State :=
  let s := s.modKettle unit fun k => { k with queue := k.queue.drop 1 }
  let s := { s with agenda := s.agenda.filter fun q => q.ev ≠ Instr.kettleLine unit && q.ev ≠ Instr.kettleCommandComplete unit }
  if (s.kettle unit).queue.isEmpty then s else s.postOnce (.kettleCommandStart unit)

/-- Whether the running command has done its last line and is to complete. -/
def State.kEnding (s : State) (unit : Nat) : Bool := s.agenda.any fun q => q.ev == Instr.kettleCommandComplete unit

/-- The running command goes on with its next line, or to its completion; a killed one ends. -/
def State.kNext (s : State) (unit : Nat) (c : KCommand) : State :=
  let set (s : State) (c : KCommand) : State :=
    s.modKettle unit fun k => { k with queue := c :: k.queue.drop 1 }
  if c.killed then s.kDrop unit
  else if c.line ≥ kLastLine c then (set s c).postIn 2 (.kettleCommandComplete unit)
  else (set s { c with line := c.line + 1 }).postIn 2 (.kettleLine unit)

/-- A line of a command that is skipped: its MAP bit is set. -/
def kSkip (c : KCommand) : KCommand := { c with map := setBit c.map c.line true }

/-- The unit processes a line: a line that holds poison is left as it is, with a record (R322). -/
def execKettleLine (unit : Nat) (σ : State) : Host.Outcome State Fault Refusal :=
  match (σ.kettle unit).queue with
  | [] => .next σ
  | c :: _ =>
    if !c.active || c.lost then .next σ
    else
      let line := c.base / 4096 * 4096 + c.line * 256
      let cells := cellsFrom line 256
      if σ.poisoned cells then
        let k : Strike :=
          { struct_ := 13, slot := 0, stop := false, wide := false, last := false, count := 1
            loc := 0x80000000 + unit, addr := BitVec.ofNat 64 line, epc := 0, seq := none }
        ends ((σ.kNext unit (kSkip c)).contain c.tag 0x43 k)
      else
        let (σ, f) := σ.kRun c
        ends (σ.kNext unit { c with flags := c.flags ||| f })

/-- The status dword of a command that ends (R320). -/
def kStatus (c : KCommand) : Nat :=
  (if c.lost then 3 else if c.map ≠ 0 then 2 else 1) + c.flags.toNat * 2 ^ 8 + c.map.toNat * 2 ^ 16

/-- A command completes: its status dword is written with release, and the next command starts. -/
def execKettleCommandComplete (unit : Nat) (σ : State) : Host.Outcome State Fault Refusal :=
  match (σ.kettle unit).queue with
  | [] => .next σ
  | c :: cs =>
    if !c.active then .next σ
    else if c.killed then .next (σ.kDrop unit)
    else
      let σ := σ.write64 c.tag (c.block + 16) (BitVec.ofNat 64 (kStatus c))
      let σ := σ.modKettle unit fun k => { k with queue := cs }
      ends (if cs.isEmpty then σ else σ.postOnce (.kettleCommandStart unit))

end Sys2Proof.Machine
end

