-- ==== Sys2Proof/Machine/Curve.lean ====
section
/-! DEFINITION. SM2 signatures and key exchange of GB/T 32918 (R243, R328, R329, R333, R334). The manual names the
standard; the curve's constants are taken from it (assumption 4). -/

namespace Sys2Proof.Machine

/-! ### The curve -/

def sm2P : Nat := 0xFFFFFFFEFFFFFFFFFFFFFFFFFFFFFFFFFFFFFFFF00000000FFFFFFFFFFFFFFFF
def sm2A : Nat := sm2P - 3
def sm2B : Nat := 0x28E9FA9E9D9F5E344D5A9E4BCF6509A7F39789F515AB8F92DDBCBD414D940E93
def sm2N : Nat := 0xFFFFFFFEFFFFFFFFFFFFFFFFFFFFFFFF7203DF6B21C6052B53BBF40939D54123
def sm2G : Nat × Nat :=
  (0x32C4AE2C1F1981195F9904466A39C9948FE30BBFF2660BE1715A4589334C74C7,
    0xBC3736A2F4F6779C59BDCEE36B692153D0A9877CC62A474002DF32E52139F0A0)

/-- `b ^ e` modulo `m`, over the low bits of the exponent. -/
def powMod (m : Nat) : Nat → Nat → Nat → Nat
  | 0, _, _ => 1 % m
  | n + 1, b, e => let h := powMod m n (b * b % m) (e / 2); if e % 2 = 1 then h * b % m else h

/-- The inverse modulo a prime of 256 bits. -/
def invMod (m x : Nat) : Nat := powMod m 256 (x % m) (m - 2)
def subMod (m x y : Nat) : Nat := (x + (m - y % m)) % m

/-- The sum of two points, `none` the one at infinity. -/
def pointAdd : Option (Nat × Nat) → Option (Nat × Nat) → Option (Nat × Nat)
  | none, q => q
  | p, none => p
  | some (x1, y1), some (x2, y2) =>
    if x1 = x2 && (y1 + y2) % sm2P = 0 then none
    else
      let l := if x1 = x2 then (3 * x1 * x1 + sm2A) * invMod sm2P (2 * y1) % sm2P
        else subMod sm2P y2 y1 * invMod sm2P (subMod sm2P x2 x1) % sm2P
      let x := subMod sm2P (l * l) (x1 + x2)
      some (x, subMod sm2P (l * subMod sm2P x1 x) y1)

/-- `k` times a point, over the low bits of `k`. -/
def pointMul : Nat → Nat → Option (Nat × Nat) → Option (Nat × Nat)
  | 0, _, _ => none
  | n + 1, k, p => let q := pointMul n (k / 2) (pointAdd p p); if k % 2 = 1 then pointAdd p q else q

def onCurve (p : Nat × Nat) : Bool :=
  p.1 < sm2P && p.2 < sm2P && p.2 * p.2 % sm2P == (p.1 * p.1 * p.1 + sm2A * p.1 + sm2B) % sm2P

/-! ### Bytes -/

/-- A number from its bytes, the most significant first. -/
def natOfBig (bs : List Byte) : Nat := bs.foldl (fun n b => 256 * n + b.toNat) 0
def pointBytes (p : Nat × Nat) : List Byte := bigEndian 32 p.1 ++ bigEndian 32 p.2
def pointOf (bs : List Byte) : Nat × Nat := (natOfBig (bs.take 32), natOfBig ((bs.drop 32).take 32))
/-- The bytes of a digest, the first in bits 7:0 (R332). -/
def digestBytes (d : BitVec 256) : List Byte := bytesOfNat 32 d.toNat
def sm3Bytes (m : List Byte) : List Byte := digestBytes (sm3 m)

/-! ### Signatures: (r, s), each of 32 bytes, over a digest -/

/-- Whether a signature over a digest verifies under a public key. -/
def sm2Verify (key : Nat × Nat) (digest : BitVec 256) (sig : List Byte) : Bool :=
  let e := natOfBig (digestBytes digest)
  let (r, s) := pointOf sig
  let t := (r + s) % sm2N
  sig.length == 64 && onCurve key && 0 < r && r < sm2N && 0 < s && s < sm2N && t != 0 &&
  (match pointAdd (pointMul 256 s (some sm2G)) (pointMul 256 t (some key)) with
    | some (x, _) => (e + x) % sm2N == r
    | none => false)

/-- The signature of a private key with a nonce. -/
def sm2SignWith (d k : Nat) (digest : BitVec 256) : List Byte :=
  let e := natOfBig (digestBytes digest)
  let x := ((pointMul 256 k (some sm2G)).getD (0, 0)).1
  let r := (e + x) % sm2N
  let s := invMod sm2N (1 + d) * subMod sm2N k (r * d) % sm2N
  pointBytes (r, s)

/-- A number from 1 to n - 2, of an open one. -/
def sm2Scalar (x : Nat) : Nat := x % (sm2N - 2) + 1

/-- The device key pair (R328). -/
def deviceKey : Nat := sm2Scalar Config.deviceKey
def devicePublic : Nat × Nat := (pointMul 256 deviceKey (some sm2G)).getD (0, 0)

/-- The device's signature over a digest, the `k`th since boot (R333). -/
def sm2Sign (k : Nat) (digest : BitVec 256) : List Byte := sm2SignWith deviceKey (sm2Scalar (Config.sm2Nonce true k)) digest

/-- Whether a signature verifies under the public key that has a digest: the key itself is not the device's to hold, so
which one it is stands open (assumption 4). -/
def sm2VerifyBy (keyDigest : BitVec 256) (message : List Byte) (sig : List Byte) : Bool :=
  let key := Config.publicKey keyDigest
  sm3 key == keyDigest && sm2Verify (pointOf key) (sm3 message) sig

/-! ### Key exchange -/

/-- The digest of a party's identity and public key. -/
def sm2Z (ident : List Byte) (key : Nat × Nat) : List Byte :=
  sm3Bytes (bigEndian 2 (8 * ident.length) ++ ident ++ bigEndian 32 sm2A ++ bigEndian 32 sm2B ++ pointBytes sm2G ++ pointBytes key)

/-- The low 127 bits of a coordinate with bit 127 set. -/
def sm2Bar (x : Nat) : Nat := 2 ^ 127 + x % 2 ^ 127

/-- What the exchange gives the device. -/
structure Exchanged where
  /-- The output's 256 bits, as a number. -/
  key     : BitVec 256
  /-- The device's ephemeral public key. -/
  eph     : Nat × Nat
  confirm : List Byte
  /-- Whether the points lie on the curve and the shared one is not at infinity. -/
  good    : Bool
  deriving DecidableEq, Repr

/-- The exchange with an exchange record's first 128 bytes, the device its initiator or not, with the `k`th nonce. -/
def sm2Exchange (rec_ : List Byte) (init : Bool) (k : Nat) : Exchanged :=
  let r := sm2Scalar (Config.sm2Nonce false k)
  let eph := (pointMul 256 r (some sm2G)).getD (0, 0)
  let peer := pointOf (rec_.take 64)
  let peerEph := pointOf ((rec_.drop 64).take 64)
  let t := (deviceKey + sm2Bar eph.1 * r) % sm2N
  let u := pointMul 256 t (pointAdd (some peer) (pointMul 256 (sm2Bar peerEph.1) (some peerEph)))
  let (xu, yu) := u.getD (0, 0)
  let zs := [sm2Z (Config.sm2Ident true) devicePublic, sm2Z (Config.sm2Ident false) peer]
  -- the initiator's part comes first
  let z := (if init then zs else zs.reverse).flatten
  let es := [pointBytes eph, pointBytes peerEph]
  let out := sm3Bytes (bigEndian 32 xu ++ bigEndian 32 yu ++ z ++ bigEndian 4 1)
  let inner := sm3Bytes (bigEndian 32 xu ++ z ++ (if init then es else es.reverse).flatten)
  { key := BitVec.ofNat 256 (natOfBig out), eph := eph
    confirm := sm3Bytes ((if init then 3 else 2) :: (bigEndian 32 yu ++ inner))
    good := onCurve peer && onCurve peerEph && u.isSome }

end Sys2Proof.Machine
end

