-- ==== Sys2Proof/Machine/Windows.lean ====
section
/-! DEFINITION. Windows to and from other devices, requests through them, the frames of the optical ports and their
keys, and the host's accesses (R243 to R250, R334, R335). -/

namespace Sys2Proof.Machine

/-! ### The tables (R246) -/

def State.importAt (s : State) (n i : Nat) : Nat := bits (s.part n).winb 50 17 * 2 ^ 17 + i % 4096 * 32
def State.exportAt (s : State) (n i : Nat) : Nat := bits (s.part n).expb 50 17 * 2 ^ 17 + i % 4096 * 32
def State.exportSt (s : State) (n i : Nat) : Nat := bits (s.read64 (s.exportAt n i)) 1 0
def State.setExport (s : State) (n i st : Nat) : State :=
  let at_ := s.exportAt n i
  s.write64 0 at_ (setBits (s.read64 at_) 1 0 st)

/-- Whether the reserved bits of an entry are zero and its size is one of a window: a command on an entry with another
SIZE fails as for a reserved bit (assumption 139). -/
def State.importGood (s : State) (n i : Nat) : Bool :=
  let at_ := s.importAt n i
  let d (k : Nat) : Word := s.read64 (at_ + 8 * k)
  bits (d 0) 15 2 == 0 && bits (d 0) 63 44 == 0 && bits (d 1) 63 9 == 0 && bits (d 2) 63 32 == 0 && d 3 == 0 &&
  12 ≤ bits (d 1) 5 0 && bits (d 1) 5 0 ≤ 50
def State.exportGood (s : State) (n i : Nat) : Bool :=
  let at_ := s.exportAt n i
  let d (k : Nat) : Word := s.read64 (at_ + 8 * k)
  bits (d 0) 7 2 == 0 && bits (d 0) 63 45 == 0 && bits (d 1) 11 6 == 0 && bits (d 1) 63 51 == 0 &&
  bits (d 2) 63 32 == 0 && d 3 == 0 && 12 ≤ bits (d 1) 5 0 && bits (d 1) 5 0 ≤ 50

/-- The entries of a table of 32-byte entries that are not all zero. -/
def State.tableUsed (s : State) (base : Nat) : List Nat :=
  ((s.mem.filter fun e => base ≤ e.1 && e.1 < base + 2 ^ 17).map fun e => (e.1 - base) / 32).eraseDups

/-- Whether a fault record stands for a request through an export: one that waits for the pager. -/
def asksExport (n i : Nat) (f : FaultRec) : Bool :=
  match f.who with
  | .graph (.remoteRequest r) => r.part == n && r.exp == i && !f.void
  | _ => false

/-- OUTST of an export: the requests under way, which are those that wait for the pager (R246). -/
def State.countExport (s : State) (n i : Nat) : State :=
  let k := (((s.part n).faultQ ++ (s.part n).faults).filter (asksExport n i)).length
  let at_ := s.exportAt n i + 16
  s.write64 0 at_ (setBits (s.read64 at_) 31 0 k)

/-! ### The commands (R246, R248) -/

/-- Open import: a closed entry opens; lost and revoked ones must be closed first. -/
def State.openImport (s : State) (n i : Nat) : State :=
  if s.importGood n i && s.importSt n (i % 4096) = 0 then s.setImport n (i % 4096) 1 else s
def State.closeImport (s : State) (n i : Nat) : State :=
  if s.importGood n i then (s.setImport n (i % 4096) 0).dropWindow n (i % 4096) else s
def State.openExport (s : State) (n i : Nat) : State :=
  if s.exportGood n i && s.exportSt n i = 0 then s.setExport n i 1 else s
/-- Revoke export: every request not yet performed is answered with a revoked completion, those that wait for the pager
among them. -/
def State.revokeExport (s : State) (n i : Nat) : State :=
  if s.exportGood n i && s.exportSt n i = 1 then
    let drop (f : FaultRec) : FaultRec := if asksExport n (i % 4096) f then { f with void := true } else f
    let s := (s.setExport n i 2).modPart n fun p =>
      { p with winBusy := true, faultQ := p.faultQ.map drop, faults := p.faults.map drop }
    (s.countExport n (i % 4096)).post (.revokeComplete n (i % 4096))
  else s

/-- The entry that WINCMD names. -/
def State.winIdx (s : State) (n : Nat) : Nat := bits (s.part n).wincmd 14 3

/-- The command of WINCMD in a partition. -/
def State.winGo (s : State) (n : Nat) : State :=
  let i := s.winIdx n
  match bits (s.part n).wincmd 2 0 with
  | 1 => s.openImport n i
  | 2 => s.closeImport n i
  | 3 => s.openExport n i
  | 4 => s.revokeExport n i
  | _ => s

def execWinOpenImport (σ : State) : Host.Outcome State Fault Refusal := ends (σ.openImport σ.myPart (σ.winIdx σ.myPart))
def execWinCloseImport (σ : State) : Host.Outcome State Fault Refusal := ends (σ.closeImport σ.myPart (σ.winIdx σ.myPart))
def execWinOpenExport (σ : State) : Host.Outcome State Fault Refusal := ends (σ.openExport σ.myPart (σ.winIdx σ.myPart))
def execWinRevokeExport (σ : State) : Host.Outcome State Fault Refusal := ends (σ.revokeExport σ.myPart (σ.winIdx σ.myPart))

/-- No request is outstanding: the importer is told, the entry closes, BUSY clears. -/
def execRevokeComplete (part exp : Nat) (σ : State) : Host.Outcome State Fault Refusal :=
  let d := σ.read64 (σ.exportAt part exp)
  let σ := if σ.exportSt part exp = 2 then σ.setExport part exp 0 else σ
  ends ((σ.modPart part fun p => { p with winBusy := false }).sendFrame (bits d 31 16) (bits d 15 8))

/-- An import window is revoked: its translations leave the TLBs, senders it has refused are woken, collectives
with a participant through it end with status 2 (R189, R242, R248, R249). -/
def execRevokedNotice (part window : Nat) (σ : State) : Host.Outcome State Fault Refusal :=
  let σ := if σ.importSt part window = 1 then σ.setImport part window 3 else σ
  let σ := σ.dropWindow part window
  let σ := σ.loseColls part none (fun w => bits w 31 16 ≠ σ.floor.device && bits w 43 32 == window) (· == window)
  ends (σ.wakeIf fun t p => σ.partOfTile t.tile == some part && p == .ticket (.remote window))

/-- The exports under a context that is killed are revoked (R249). -/
def State.revokeUnder (s : State) (tag : Tag) : State :=
  let n := tagPart tag
  ((s.tableUsed (s.exportAt n 0)).filter fun i => s.exportSt n i == 1 &&
    bits (s.read64 (s.exportAt n i)) 44 32 == tagCtx tag &&
    bits (s.read64 (s.exportAt n i)) 15 8 == tagOwner tag).foldl (fun s i => s.revokeExport n i) s

/-! ### Requests of other devices (R247) -/

/-- The cells that an access from outside reaches under a proxy context. -/
def State.proxyCells (s : State) (tag : Tag) (kind : AccKind) (va n : Nat) : Except Why (List Nat) :=
  s.reachWalk tag (s.ctx tag).priv kind false (n / 4096 + 2) va n

/-- An access from outside on behalf of an event: a page fault waits for the pager, anything else that keeps it
from storage refuses it. -/
def State.proxyAccess (s : State) (n : Nat) (tag : Tag) (kind : AccKind) (va len : Nat) (ev : Instr) : Engine :=
  match s.proxyCells tag kind va len with
  | .ok cs => .cells cs s
  | .error (.pageFault v q lv pte) =>
    if (s.part n).gfail.contains ev then .bad
    else .waits (s.pageFault n (s.faultRec n v 0 (accCode kind) q lv pte 0xFFF 0 tag (.graph ev)))
  | .error (.stray pa) => .waits { s with stray := some pa }
  | .error _ => .bad

def remoteBytes : RemoteOp → Nat
  | .load n => n
  | .store d => d.length
  | .guest n _ _ _ _ _ => n
  | .ticket _ f _ _ => tfWidth f
def remoteKind : RemoteOp → AccKind
  | .load _ => .load
  | .store _ => .store
  | .guest _ _ _ _ _ _ | .ticket _ _ _ _ => .atomic

/-- A request is performed at the cells it reaches and its completion returns to the importer; an atomic is a guest
operation there, like any other (R190). -/
def State.remoteDo (s : State) (dev owner : Nat) (tag : Tag) (op : RemoteOp) (cs : List Nat) : State :=
  let c := cs.headD 0
  let home := (s.homeOf c).getD (.bank 0)
  match op with
  | .load _ => s.sendFrame dev owner
  | .store d =>
    (match s.capFail tag (granulesOf cs) with
    | some _ => s
    | none => s.storeCells tag (cs.zip d)).sendFrame dev owner
  | .guest n fn x0 x1 e0 e1 =>
    s.sendGuest { tid := remoteThread dev owner, tag := tag, path := 0, ptr := 0, insn := 0, home := home, cell := c, bytes := n
                  fn := fn, x0 := x0, x1 := x1, e0 := e0, e1 := e1, ret := true, dest := 0, ord := 0 }
  | .ticket o f v t =>
    (s.sendFrame dev owner).updAtHome
      { tid := remoteThread dev owner, tag := tag, path := 0, ptr := 0, insn := 0, home := home
        cell := c, op := o, fmt := f, v := v, t := t, ret := true, dest := 0, ord := s.nextId }

/-- A request through an export: refused where the entry is not open to it, else performed under the entry's proxy
context, whose owner is the entry's. Its completion leaves as a frame. -/
def execRemoteRequest (r : RemoteReq) (σ : State) : Host.Outcome State Fault Refusal :=
  let d (k : Nat) : Word := σ.read64 (σ.exportAt r.part r.exp + 8 * k)
  let len := remoteBytes r.op
  if bits (d 0) 1 0 ≠ 1 || bits (d 0) 15 8 ≠ r.owner.toNat || bits (d 0) 31 16 ≠ r.dev ||
      r.offset + len > 2 ^ bits (d 1) 5 0 then .next (σ.sendFrame r.dev r.owner.toNat)
  else
    let tag := mkTag r.owner.toNat r.part (bits (d 0) 44 32)
    let ev : Instr := .remoteRequest r
    match σ.proxyAccess r.part tag (remoteKind r.op) (bits (d 1) 50 12 * 4096 + r.offset) len ev with
    | .waits σ' => ends (σ'.countExport r.part (r.exp % 4096))
    | .bad => .next (((σ.unfail r.part ev).countExport r.part (r.exp % 4096)).sendFrame r.dev r.owner.toNat)
    | .cells cs _ =>
      ends ((σ.remoteDo r.dev r.owner.toNat tag r.op cs).countExport r.part (r.exp % 4096))

/-! ### The host (R250) -/

/-- The partition of a Lift queue's host accesses: the queue's own; for the steward's queue the lowest valid one. -/
def State.liftPart (s : State) (queue : Nat) : Nat :=
  if queue < 8 then queue else ((List.range 8).find? fun n => pdescValid (s.pdesc n)).getD 0

/-- The host reads or writes memory under the queue's proxy context. -/
def execHostHbmAccess (a : HostAccess) (σ : State) : Host.Outcome State Fault Refusal :=
  let q := σ.liftQ a.queue
  let n := σ.liftPart a.queue
  let tag := mkTag q.owner.toNat n q.proxy
  let ev : Instr := .hostHbmAccess a
  let answer (s : State) (bs : List Byte) : State := s.modLift a.queue fun q => { q with answers := q.answers ++ [bs] }
  let isRead := a.data.isEmpty
  -- in recovery the steward's queue alone is open (R331)
  if σ.floor.recovery && a.queue % 9 ≠ 8 then .next σ else
  match σ.proxyAccess n tag (if isRead then .load else .store) a.va (if isRead then a.read else a.data.length) ev with
  | .waits σ' => ends σ'
  | .bad => .next (answer (σ.unfail n ev) [])
  | .cells cs _ =>
    if isRead then ends (answer σ (σ.readBytes cs))
    else
      match σ.capFail tag (granulesOf cs) with
      | some _ => .next (answer σ [])
      | none => ends (σ.storeCells tag (cs.zip a.data))

/-! ### Ingress and loss (R243, R245, R335) -/

/-- The sixteen header bytes: the manual names the fields and not their places (assumption 11). -/
def frameHeader (f : Frame) : List Byte :=
  bytesOfNat 1 f.owner.toNat ++ bytesOfNat 2 f.src ++ bytesOfNat 2 f.dst ++ bytesOfNat 1 f.piste ++
  bytesOfNat 6 f.seq ++ bytesOfNat 1 (if f.epoch then 1 else 0) ++ [0, 0, 0]

/-- Whether a frame is authentic under a 256-bit entry, whose low half receives. -/
def authentic (key : BitVec 256) (f : Frame) : Bool :=
  sm4Cmac (key.truncate 128) (frameHeader f ++ f.payload) == f.mac

/-- Ingress of a frame (R245): dropped and counted, or accepted; the first authentic frame of a new epoch makes that
the epoch received (R335). A request in it goes to its export. -/
def execFrameIngress (f : Frame) (σ : State) : Host.Outcome State Fault Refusal :=
  let k := σ.port f.port f.owner.toNat
  let auth : Bool := match k.keys.getD (if f.epoch then 1 else 0) none with
    | some key => authentic key f
    | none => false
  let first := k.fresh.getLsbD (if f.epoch then 1 else 0)
  let old := f.epoch ≠ k.rxep && !first
  if !k.v || !auth || old || (!first && f.seq ≤ k.rxseq) then
    .next (σ.modPort f.port f.owner.toNat fun k => { k with drop := Nat.min (k.drop + 1) (2 ^ 32 - 1) })
  else
    let σ := σ.modPort f.port f.owner.toNat fun k =>
      { k with rxseq := f.seq, rxep := f.epoch, fresh := k.fresh &&& ~~~(if f.epoch then 2 else 1) }
    .next (match f.request with
      | some r => if f.dst = σ.floor.device then σ.post (.remoteRequest { r with dev := f.src, owner := f.owner }) else σ
      | none => σ)

/-- A device is lost for an owner (R245): the owner's windows to it are lost as R150 has it. -/
def State.loseDevice (s : State) (dev owner : Nat) : State :=
  let parts := (List.range 8).filter fun n => pdescValid (s.pdesc n) && (s.liftQ n).owner.toNat == owner
  parts.foldl (fun s n =>
    let wins := (s.tableUsed (s.importAt n 0)).filter fun w =>
      let e := s.read64 (s.importAt n w)
      bits e 1 0 == 1 && bits e 31 16 == dev
    let s := wins.foldl (fun s w => (s.setImport n w 2).dropWindow n w) s
    let s := s.loseColls n none (fun w => bits w 31 16 ≠ s.floor.device && wins.contains (bits w 43 32)) wins.contains
    s.wakeIf fun t p => s.partOfTile t.tile == some n && (match p with
      | .ticket (.remote w) => wins.contains w
      | _ => false)) s

/-! ### Requests that leave the device (R245, R246, R248) -/

/-- The tag of an event that stands for the completion of requests through import windows, and the windows; a copy's
requests go through those of the pages still to land, and a collective's round through those of its ranks and buffers. -/
def State.outgoing (s : State) (e : Instr) : Tag × List Nat :=
  let wins (cs : List Nat) : List Nat := ((cs.filter isRemoteCell).map remoteWin).eraseDups
  let far (h : Home) : List Nat := match h with
    | .remote w => [w]
    | _ => []
  match e with
  | .loadResponse r => (s.tagOf r.tid, wins (destCells r.dest))
  | .storeAtHome r => (r.tag, wins (r.cells.map (·.1)))
  | .atomicAtHome r => (r.tag, far r.home)
  | .ticketUpdateArrival r => (r.tag, far r.home)
  | .acopyChunkLand t => match (s.tile t).engQ with
    | c :: _ => (c.tag, wins (c.chunks.flatMap fun k => k.1 ++ k.2))
    | [] => (0, [])
  | .collCompletion id =>
    -- a round with the ranks of other devices, and with the devices that hold a buffer
    match (List.range 8).findSome? fun n => (s.part n).colls.find? fun c => c.id = id with
    | some c =>
      let ranks := (c.plist.filter fun w => bits w 31 16 ≠ s.floor.device).map fun w => bits w 43 32
      (((c.parts.head?).map (·.tag)).getD 0, (ranks ++ wins (c.parts.flatMap fun q => q.src ++ q.dst)).eraseDups)
    | none => (0, [])
  | _ => (0, [])

/-- The partition, the device and the owner of the requests of an event through a window. -/
def State.target (s : State) (tag : Tag) (w : Nat) : Nat × Nat × Nat :=
  (tagPart tag, bits (s.read64 (s.importAt (tagPart tag) w)) 31 16, tagOwner tag)

/-- The window that an event's next request leaves through, where one has not left yet: none through a lost or revoked
one, or through one closed meanwhile that no port serves. -/
def State.leavesBy (s : State) (p : Pending) : Option Nat :=
  let (tag, ws) := s.outgoing p.ev
  ws.find? fun w =>
    let (n, dev, o) := s.target tag w
    let st := s.importSt n w
    !lostSt st && !s.sent.contains (p.id, n, w) && (st == 1 || !(s.exits dev o).isEmpty)

/-- Whether an event waits for a frame to leave before it. -/
def State.stalled (s : State) (p : Pending) : Bool :=
  match s.leavesBy p with
  | some w => let x := s.target (s.outgoing p.ev).1 w; s.frameWaits x.2.1 x.2.2
  | none => match p.ev with
    | .remoteRequest r => s.frameWaits r.dev r.owner.toNat
    | .frameIngress f => s.portRetrains f.port || s.agenda.any fun q => q.id < p.id && (match q.ev with
        | .frameIngress g => g.port == f.port && q.due ≤ p.due
        | _ => false)
    | .frameRetransmit port _ _ => s.portRetrains port
    | .revokeComplete n i =>
      let d := s.read64 (s.exportAt n i)
      s.frameWaits (bits d 31 16) (bits d 15 8)
    | _ => false

/-- OUTST of an import entry changed. -/
def State.countImport (s : State) (n w : Nat) (f : Nat → Nat) : State :=
  let at_ := s.importAt n w + 16
  s.write64 0 at_ (setBits (s.read64 at_) 31 0 (f (bits (s.read64 at_) 31 0)))

/-- The request of an event leaves, before the event can happen: it is outstanding from then on. Where no port remains
the device counts as lost for the owner (R245). -/
def State.sends (s : State) (p : Pending) : Option State :=
  (s.leavesBy p).map fun w =>
    let (n, dev, o) := s.target (s.outgoing p.ev).1 w
    if (s.exits dev o).isEmpty then
      let s' := s.loseDevice dev o
      if s'.importSt n w = 1 then s'.setImport n w 2 else s'
    else
      let s := (s.sendFrame dev o).countImport n w (· + 1)
      { s with sent := s.sent ++ [(p.id, n, w)] }

/-- The request of a thread's fetch through a window leaves (R244, R245): none where its owner's frames to the device wait.
A fetch from the device's own storage sends nothing. -/
def State.fetchSends (s : State) (t : ThreadId) : Option State :=
  match s.translate t .fetch (s.thread t).pc.toNat with
  | .ok (.remote w _) =>
    let (n, dev, o) := s.target (s.tagOf t) w
    if (s.exits dev o).isEmpty then
      let s' := s.loseDevice dev o
      some (if s'.importSt n w = 1 then s'.setImport n w 2 else s')
    else if s.frameWaits dev o then none
    else some (s.sendFrame dev o)
  | _ => some s

/-- Requests whose event has happened, or has gone with its thread or context, are no longer outstanding (R246). -/
def State.countOver (s : State) : State :=
  let ended (e : Nat × Nat × Nat) : Bool := !s.agenda.any fun q => q.id == e.1
  let s' := (s.sent.filter ended).foldl (fun s e => s.countImport e.2.1 e.2.2 (· - 1)) s
  { s' with sent := s.sent.filter fun e => !ended e }

/-- A frame is not acknowledged within 4096 tc: it is sent again, three times at most; then the owner's session on
the port is lost, and with the last port of a device the device. -/
def execFrameRetransmit (port : Nat) (owner : BitVec 8) (seq : Nat) (σ : State) : Host.Outcome State Fault Refusal :=
  let o := owner.toNat
  let k := σ.port port o
  let tries := SMap.get 0 k.tries seq
  if k.lost then .next σ
  else if tries < 3 then
    let again := Config.unacknowledged σ.frees
    let σ := { (σ.modPort port o fun k => { k with tries := SMap.set 0 k.tries seq (tries + 1) }) with frees := σ.frees + 1 }
    .next (if again then σ.postIn 4096 (.frameRetransmit port owner seq) else σ)
  else
    let σ := σ.modPort port o fun k => { k with lost := true, tries := [] }
    let σ := σ.notify 8 6 0 (BitVec.ofNat 64 port)
    let devs := ((σ.floor.routes.filter fun r => r.2 == port).map (·.1)).eraseDups
    ends ((devs.filter fun d => (σ.floor.routes.filter fun r => r.1 == d).all fun r => (σ.port r.2 o).lost).foldl
      (fun s d => s.loseDevice d o) σ)

/-! ### Link keys (R334, R335) -/

def State.keyPort (s : State) : Nat := bits s.floor.keyRun 7 0
def State.keyOwner (s : State) : Nat := bits s.floor.keyRun 15 8
def State.keyEpoch (s : State) : Bool := bitAt s.floor.keyRun 19

/-- A command ends with a code. -/
def State.keyEnds (s : State) (code : Nat) : State := s.modFloor fun f => { f with keyBusy := false, keyCode := code }

/-- The command's entry changed, where the port exists; a command on a port that does not ends with CODE 1
(assumption 142). -/
def State.keyEntry (s : State) (f : PortKey → PortKey) : State :=
  if s.keyPort ≥ 144 then s.keyEnds 1 else (s.modPort s.keyPort s.keyOwner f).keyEnds 0

/-- An exchange into an epoch that does not transmit: the record is read, the keys installed, the device's ephemeral
key and the confirmation written. -/
def execKeyExchange (σ : State) : Host.Outcome State Fault Refusal :=
  let e := σ.keyEpoch
  let k := σ.port σ.keyPort σ.keyOwner
  let init := bitAt σ.floor.keyRun 20
  let at_ := bits σ.floor.keyRunAt 50 6 * 64
  if σ.keyPort ≥ 144 || e = k.ep then .next (σ.keyEnds 1)
  else
    let rec_ := σ.readBytes (cellsFrom at_ 192)
    let x := sm2Exchange rec_ init σ.floor.keyDone
    let half (lo : Nat) : Nat := bits x.key (lo + 127) lo
    -- the low half of an entry's key receives: the responder's direction where this device initiates
    let key : BitVec 256 := BitVec.ofNat 256 (if init then half 128 + half 0 * 2 ^ 128 else half 0 + half 128 * 2 ^ 128)
    let σ := ((((cellsFrom (at_ + 0x80) 64).zip (pointBytes x.eph)) ++
      ((cellsFrom (at_ + 0xC0) 32).zip x.confirm)) |> σ.storeCells 0).touch (at_ + 223)
    let ok := x.good && Config.sm2Confirms rec_ init σ.floor.keyDone
    let σ := σ.modFloor fun f => { f with keyDone := f.keyDone + 1 }
    ends (if ok then
        σ.keyEntry fun k => { k with keys := k.keys.set (if e then 1 else 0) (some key), fresh := k.fresh ||| (if e then 2 else 1) }
      else σ.keyEnds 2)

/-- A switch of the transmit epoch restarts the sequence. -/
def execKeySwitch (σ : State) : Host.Outcome State Fault Refusal :=
  let e := σ.keyEpoch
  .next (σ.keyEntry fun k => { k with ep := e, txseq := 0, lost := false, tries := [] })
def execKeySetV (σ : State) : Host.Outcome State Fault Refusal := .next (σ.keyEntry fun k => { k with v := true })
def execKeyClear (σ : State) : Host.Outcome State Fault Refusal :=
  .next (σ.keyEntry fun k => { PortKey.zero with drop := k.drop })

/-- A GO written to KEYCMD: ignored while a command runs, and for other operations. -/
def State.keyGo (s : State) : State :=
  let run (e : Instr) : State := (s.modFloor fun f => { f with keyBusy := true, keyRun := f.keycmd, keyRunAt := f.keyaddr }).post e
  if s.floor.keyBusy then s
  else
    match bits s.floor.keycmd 18 16 with
    | 1 => run .keyExchange
    | 2 => run .keySwitch
    | 3 => run .keySetV
    | 4 => run .keyClear
    | _ => s

end Sys2Proof.Machine
end

