-- ==== Sys2Proof/Machine/Avalanche.lean ====
section
/-! DEFINITION. Errors and containment: containment records and their answers, Avalanche, uncorrectable and
correctable errors, thread pairs and die pairs (R188, R189, R239, R242, R263, R266 to R280, R321, R322). -/

namespace Sys2Proof.Machine

/-! ### Containment records (R269, R270) -/

def ctnSize (p : Partition) : Nat := 2 ^ (bits p.ctnb 55 51 + 6)

/-- Whether the ring of a partition has a place: the records from the oldest not yet answered on take theirs. -/
def State.ctnRoom (s : State) (n : Nat) : Bool := (s.part n).ctnRecs.length < ctnSize (s.part n)

/-- The oldest record that has a place is written, CTNH advances, and the host is told (R269); a record whose notice
the floor die could not hold waits (R251). -/
def execContainmentRecordWrite (σ : State) : Host.Outcome State Fault Refusal :=
  match σ.floor.ctnWait.find? fun r => σ.ctnRoom r.part && σ.noticeRoom r.part with
  | none => .next σ
  | some r =>
    let p := σ.part r.part
    let at_ := bits p.ctnb 50 12 * 4096 + p.ctnHead % ctnSize p * 32
    let σ := (((σ.write64 0 at_ r.d0).write64 0 (at_ + 8) r.d1).write64 0 (at_ + 16) r.d2).write64 0 (at_ + 24) r.d3
    let σ := σ.modPart r.part fun p =>
      { p with ctnHead := (p.ctnHead + 1) % 2 ^ 32, ctnRecs := p.ctnRecs ++ [r] }
    let σ := σ.modFloor fun f => { f with ctnWait := dropFirst (· == r) f.ctnWait }
    let σ := σ.notify r.part 4 0 (BitVec.ofNat 64 (bits r.d0 30 24))
    ends (if σ.floor.ctnWait.isEmpty then σ else σ.postOnce .containmentRecordWrite)

/-- The index that CTNDONE reads: of the oldest record that awaits a decision, else of the next to be written. -/
def State.ctnOldest (s : State) (n : Nat) : Nat :=
  let p := s.part n
  let i := p.ctnRecs.findIdx fun r => bitAt r.d0 44 && !r.answered
  (p.ctnHead + 2 ^ 32 - p.ctnRecs.length + i) % 2 ^ 32

/-- The record of an index is marked answered and its place freed (R270). It gives the context whose decision was
awaited, where it still lives. -/
def State.answerRecord (s : State) (n idx : Nat) : State × Option Tag :=
  let p := s.part n
  let i := (idx + 2 ^ 32 - (p.ctnHead + 2 ^ 32 - p.ctnRecs.length) % 2 ^ 32) % 2 ^ 32
  match p.ctnRecs[i]? with
  | none => (s, none)
  | some r =>
    if r.answered then (s, none)
    else
      let recs := (modAt p.ctnRecs i fun r => { r with answered := true }).dropWhile (·.answered)
      let s := s.modPart n fun p => { p with ctnRecs := recs }
      let s := if s.floor.ctnWait.isEmpty then s else s.postOnce .containmentRecordWrite
      let tag := BitVec.ofNat 24 (bits r.d0 23 0)
      if !bitAt r.d0 44 then (s, none)
      else
        let s := s.modCtx tag fun c => { c with await := c.await - 1 }
        let c := s.ctx tag
        if !c.live then ((s.closeCtx tag).kick n, none)
        else if c.dying then (s, none)
        else (s, some tag)

/-- Whether the control thread of a context is stopped. -/
def State.controlStopped (s : State) (tag : Tag) : Bool :=
  match s.tileOfCtx tag with
  | some t => (s.thread { tile := t, slot := 0 }).st == .stopped
  | none => false

/-- The supervisor's answers (R270). -/
def State.ctnKill (s : State) (n idx : Nat) : State :=
  match s.answerRecord n idx with
  | (s, some tag) => s.avalancheAll tag 0x44
  | (s, none) => s
def State.ctnContinue (s : State) (n idx : Nat) : State :=
  match s.answerRecord n idx with
  | (s, some tag) => if s.controlStopped tag then s.avalancheAll tag 0x44 else s
  | (s, none) => s
def State.ctnRerun (s : State) (n idx : Nat) : State :=
  match s.answerRecord n idx with
  | (s, some tag) =>
    match s.taskOf tag with
    | some k => if k.node = 0 then s.avalancheAll tag 0x44 else s.containEnd tag true
    | none => s
  | (s, none) => s

def execCtndoneContinue (idx : Nat) (σ : State) : Host.Outcome State Fault Refusal := ends (σ.ctnContinue σ.myPart idx)
def execCtndoneRerun (idx : Nat) (σ : State) : Host.Outcome State Fault Refusal := ends (σ.ctnRerun σ.myPart idx)
def execCtndoneKill (idx : Nat) (σ : State) : Host.Outcome State Fault Refusal := ends (σ.ctnKill σ.myPart idx)

/-! ### Avalanche (R271, R273) -/

/-- What a Kettle unit drops for a killed context: its queued commands; a running one stops after its line and
writes no status (R321). -/
def State.dropCommands (s : State) (tag : Tag) : State :=
  s.mapKettles fun k =>
    { k with queue := (k.queue.filter fun c => c.tag ≠ tag || c.active).map fun c =>
        if c.tag = tag then { c with killed := true } else c }

/-- A command of a killed context still in hand at the confirmation ends. -/
def State.endCommands (s : State) (tag : Tag) : State :=
  ((s.kettles.filter fun e => (e.2.queue.head?).any fun c => c.tag == tag && c.killed).map (·.1)).foldl State.kDrop s

/-- Guest operations of an ended context that a home has begun complete there, and their returns are discarded (R271,
R344). -/
def State.finishGuests (s : State) (tag : Tag) : State :=
  let begun := s.tiles.flatMap (fun e => e.2.guests.map (·.2)) ++ s.kettles.flatMap fun e => e.2.guests.map (·.2)
  (begun.filter fun g => g.tag == tag && g.ret).foldl (fun s g => s.landOne (.atomicAtHome g)) s

/-- A kill packet reaches a tile: its threads of the context are removed and its queue entries cancelled, and the
sweep of the router begins. -/
def execKillPacketArrival (tag : Tag) (tile : Nat) (σ : State) : Host.Outcome State Fault Refusal :=
  let n := tagPart tag
  let here : Bool := match (σ.tile tile).task with
    | some k => k.tag == tag
    | none => false
  let σ :=
    if here then
      let id := σ.tileId tile
      -- its combined stores leave (R129)
      let σ := σ.drainLines tile fun l => l.tag == tag
      let σ := (σ.breakStreams tag).loseColls n (some (σ.rootTag tag)) (fun w => bits w 31 0 == id.toNat) fun _ => false
      let σ := σ.modTile tile fun t =>
        let rest := t.engQ.filter fun c => c.tag ≠ tag
        { t with slots := [], vq := [], mq := [], store := [], rotIn := [], rotSkip := [], engQ := rest
                 task := t.task.map fun k => { k with phase := .ended }
                 ring := t.ring.map (fun (e : Nat × RingEntry) =>
                   (e.1, if e.2.st = .queued then { e.2 with st := .cancelled } else e.2)) }
      let σ := if (σ.tile tile).engQ.isEmpty then σ else σ.postOnce (.acopyStart tile)
      σ.dropWaits tile
    else σ
  let σ := σ.modTile tile fun t => { t with guestQ := t.guestQ.filter fun g => g.tag ≠ tag }
  .next ((σ.dropCommands tag).postIn 2048 (.avalancheSweepEnd tag tile))

/-- The sweep of a router ends; after the last, the confirmation follows in 40 tc. -/
def execAvalancheSweepEnd (tag : Tag) (tile : Nat) (σ : State) : Host.Outcome State Fault Refusal :=
  let σ := σ.modCtx tag fun c => { c with sweeps := c.sweeps.filter fun t => t ≠ tile }
  .next (if (σ.ctx tag).sweeps.isEmpty && (σ.ctx tag).dying then σ.postIn 40 (.avalancheConfirm tag) else σ)

/-- The Caddy entries of a killed sender are discarded, each with an entry in the owner's fault log (R189). -/
def State.dropUpdates (s : State) (tag : Tag) : State :=
  s.windows.foldl (fun s w =>
    let gone := w.caddy.filter fun e => e.upd.tag == tag
    if gone.isEmpty then s
    else
      let s := s.modWindow w.id fun w => { w with caddy := w.caddy.filter fun e => e.upd.tag ≠ tag }
      gone.foldl (fun s e => s.flog w.owner
        { ptr := e.upd.ptr, insn := e.upd.insn, cause := cTicketClosed, opnd := e.upd.v
          ticket := e.upd.t.toNat, home := s.homeWord e.upd.home }) s) s

/-- Whether an event is a message or a SPAWN that a context has sent (R96, R271). -/
def sentOf (tag : Tag) : Instr → Bool
  | .messageArrival m => m.ctag == tag
  | .spawnArrival m => m.caller == tag
  | _ => false

/-- Posted operations of an ended context that have not landed never do (R273), its messages among them (R271), and a
SPAWN that has not entered its work queue (R96). -/
def State.dropPosted (s : State) (tag : Tag) : State :=
  let s := { s with
    agenda := s.agenda.filter (fun q => match q.ev with
      | .storeAtHome r => r.tag ≠ tag
      | .atomicAtHome r => r.tag ≠ tag
      | .ticketUpdateArrival r => r.tag ≠ tag
      | .windowInstall _ w => !s.windows.any fun x => x.id == w && x.owner == tag
      | e => !sentOf tag e)
    packets := s.packets.filter fun p => p.tag ≠ tag }
  let s := s.modPart (tagPart tag) fun p => { p with racing := p.racing.filter fun r => !sentOf tag r.ev }
  (s.mapTiles fun _ t => { t with guests := t.guests.filter fun e => e.2.tag ≠ tag }).mapKettles fun k =>
    { k with guests := k.guests.filter (fun e => e.2.tag ≠ tag), waitQ := k.waitQ.filter (fun g => g.tag ≠ tag) }

/-- Waiting guests look again for a slot. -/
def State.admitAll (s : State) : State :=
  let ts := (s.tiles.filter fun e => !e.2.guestQ.isEmpty).map (·.1)
  let us := (s.kettles.filter fun e => !e.2.waitQ.isEmpty).map fun e => homeNumber (.kettle e.1)
  (ts ++ us).foldl (fun s h => s.postOnce (.guestAdmit h)) s

/-- A die-pair node whose copy was killed: the other copy ends too, and the node fails (R280). -/
def State.endPair (s : State) (n : Nat) (tag : Tag) : State :=
  match (s.part n).pairs.find? fun d => d.tags.contains tag with
  | none => s
  | some d =>
    let s := s.modPart n fun p => { p with pairs := p.pairs.filter fun x => x.node ≠ d.node }
    let s := s.mapTiles fun _ t => { t with workQ := t.workQ.filter fun w => !(w.task.node == d.node && w.task.copy != 0) }
    let others := d.tags.filter fun t => t ≠ tag && t ≠ 0 && (s.ctx t).live
    (others.foldl (fun s t => s.avalanche t (s.ctx tag).cause.toNat) s).failNode n d.node 4 0

/-- The nodes that fail with a task (R69, R75): its own, and every DELIV node delivered to it or queued at its
tile. -/
def State.failWith (s : State) (n : Nat) (k : Task) (tile : Nat) : State :=
  let queued := ((s.tile tile).workQ.filter (·.deliv)).map fun w => w.task.node
  let s := s.modTile tile fun t => { t with workQ := t.workQ.filter fun w => !w.deliv }
  let dl := (if k.deliv ≠ 0 then [k.deliv] else []) ++ (if (s.tile tile).task.isSome then queued else [])
  let s := dl.foldl (fun s a => s.failNode n a 4 0) s
  if k.copy ≠ 0 then s.endPair n k.tag else if k.node ≠ 0 then s.failNode n k.node 4 0 else s

/-- Entries of a work queue whose context is killed before it starts. -/
def State.dropFetched (s : State) (n : Nat) (tag : Tag) : State :=
  let hits := s.tiles.flatMap fun e => (e.2.workQ.filter fun w => w.fetched && w.task.tag == tag).map (·.task)
  let s := hits.foldl (fun s k => s.unpin k.pins) s
  let s := s.mapTiles fun _ t => { t with workQ := t.workQ.filter fun w => !(w.fetched && w.task.tag == tag) }
  hits.foldl (fun s k => if k.copy ≠ 0 then s.endPair n tag else s.failNode n k.node 4 0) s

/-- A launch whose root was killed: what of it has not run is forgotten, and it ends with status 3 (R120, R271). -/
def State.killLaunch (s : State) (n id : Nat) : State :=
  let s := s.modLaunch n id fun l => { l with killed := true, todo := some [] }
  let failing := (s.part n).reports.filterMap (·.fails)
  -- a SPAWN of the launch that has not entered its work queue
  let mine (e : Instr) : Bool := match e with
    | .spawnArrival m => m.launch == id && tagPart m.caller == n
    | _ => false
  let s := { s with agenda := s.agenda.filter (fun q => !mine q.ev), packets := s.packets.filter fun p => !mine p.ev }
  let s := s.modPart n fun p => { p with racing := p.racing.filter fun r => !mine r.ev }
  let gone := ((s.part n).nodes.filter fun d => d.launch == id && !failing.contains d.addr).map (·.addr)
  let s := gone.foldl (fun s a => (s.unqueue n a).dropNode n a) s
  let s := s.mapTiles fun t x =>
    if s.partOfTile t = some n then
      { x with workQ := x.workQ.filter fun w => !(w.task.launch == id && !w.fetched) }
    else x
  s.checkLaunch n id

/-- The release of an Avalanche once it is confirmed (R271). A launch root's comes after those of its contexts. -/
def execAvalancheConfirm (tag : Tag) (σ : State) : Host.Outcome State Fault Refusal :=
  let c := σ.ctx tag
  let n := tagPart tag
  let kin (e : Nat × Ctx) : Bool :=
    e.2.dying && !e.2.isRoot && e.2.root == tagCtx tag && e.1 / 2 ^ 13 == tag.toNat / 2 ^ 13
  if !c.dying || !c.sweeps.isEmpty then .next σ
  else if c.isRoot && σ.ctxs.any kin then .next (σ.postIn 40 (.avalancheConfirm tag))
  else
    let tile := (σ.tileOfCtx tag).getD 0
    -- the record of the Avalanche itself, where no strike's record bears its cause (R271, R272)
    let recs := if c.recs.any fun r => bits r.d0 30 24 == c.cause.toNat then c.recs
      else ctnRec σ.floor.device tag c.cause.toNat c.surv false (Strike.plain tile) :: c.recs
    let σ := match σ.taskOf tag with
      | some k => σ.failWith n k tile
      | none => σ
    let σ := (((σ.finishGuests tag).endCommands tag).dropPosted tag).takeOut tag
    let σ := (σ.windows.filter fun w => w.owner == tag).foldl State.abandonWindow σ
    let σ := (σ.dropUpdates tag).revertCaps tag c.isRoot
    let σ := (σ.dropFetched n tag).dropForwards tag
    let σ := (σ.voidFaults n tag).revokeUnder tag
    let σ := recs.foldl State.putRecord σ
    -- the KILLs that wait for it complete
    let σ := c.killer.foldl (fun s k =>
      if (s.thread k.1).st = .awaiting then (s.modThread k.1 (·.setG k.2 0)).retireTo k.1 ((s.thread k.1).pc + 4)
      else s) σ
    let σ := (σ.modCtx tag fun c => { c with dying := false }).closeCtx tag
    let σ := if c.isRoot then
        (((σ.part n).launches.filter fun l => l.tag n == tag && l.ending.isNone).map (·.id)).foldl
          (fun s id => s.killLaunch n id) σ
      else σ.checkLaunch n c.launch
    ends ((σ.admitAll.wakeIf fun _ (p : Park) => p == .capability).kick n)

/-! ### Thread pairs (R277) -/

/-- The slots of a thread-redundant task have diverged: it ends without publishing, and its node runs again, on
another tile when one qualifies. -/
def execTwinTimeout (t : ThreadId) (σ : State) : Host.Outcome State Fault Refusal :=
  match (σ.tile t.tile).task with
  | none => .next σ
  | some k =>
    if k.rdm ≠ 1 || (σ.ctx k.tag).dying then .next σ
    else
      let (σ, c, last) := σ.countEvent (.core t.tile)
      let σ := σ.record k.tag (if last then 0x45 else 0x46) false { Strike.plain t.tile with count := c, last := last }
      let σ := σ.modNode (tagPart k.tag) k.node fun d => { d with avoid := some t.tile }
      ends (σ.containEnd k.tag true)

/-! ### Die pairs (R278, R280) -/

/-- The tile at the x and y of a pair's copy A on a layer, or its stand-in. -/
def State.pairTile (s : State) (n : Nat) (d : DiePair) (z : Nat) : Option Nat :=
  match s.nodeAt n d.node with
  | none => none
  | some nd =>
    let xy := match s.tiles.findSome? fun e => if (e.2.task.any fun k => k.node == d.node) then some (e.1 % 256) else none with
      | some i => i
      | none => ndColumn nd.dwords
    s.atLogical n (xy % 16) (xy / 16) z

/-- The layer of a third copy: the lowest logical one that neither copy used, or that of copy A. -/
def State.thirdLayer (s : State) (n : Nat) (d : DiePair) : Nat :=
  let p := s.part n
  match (List.range p.zmap.length).find? fun z => !d.layers.contains (p.zmap.getD z 0) with
  | some z => z
  | none => s.logicalZ n (d.layers.headD 0)

/-- The bytes of the OUT ranges of a node, one after another. -/
def outBytes (ds : List Word) : Nat := (((ndFps ds).filter fpOut).map fpLen).sum

/-- The OUT ranges in the order that the digest reads them: ascending virtual address, each with its offset in the
shadow. -/
def shadowParts : Nat → List Word → List (Nat × Word)
  | _, [] => []
  | o, w :: ws => (o, w) :: shadowParts (o + fpLen w) ws
def insertPart (x : Nat × Word) : List (Nat × Word) → List (Nat × Word)
  | [] => [x]
  | y :: ys => if fpVa x.2 < fpVa y.2 then x :: y :: ys else y :: insertPart x ys
def ascending (ps : List (Nat × Word)) : List (Nat × Word) := ps.foldl (fun acc x => insertPart x acc) []

/-- The digest of a copy's shadow (R278). -/
def State.shadowDigest (s : State) (n slot : Nat) (ds : List Word) : BitVec 256 :=
  let base := s.shadowBase n slot
  sm3 ((ascending (shadowParts 0 ((ndFps ds).filter fpOut))).flatMap fun p =>
    s.readBytes (cellsFrom (base + p.1) (fpLen p.2)))

/-- The shadow of a copy goes to the virtual ranges, and the node retires; a page fault waits for the pager. -/
def State.commitPair (s : State) (n : Nat) (d : DiePair) (nd : Node) (l : Launch) (i : Nat) (ev : Instr) : State :=
  let base := s.shadowBase n (d.slots.getD i 0)
  let parts := shadowParts 0 ((ndFps nd.dwords).filter fpOut)
  let go := parts.foldl (fun (acc : Except Engine (List (List Nat × List Nat))) p =>
    match acc with
    | .error e => .error e
    | .ok out =>
      match s.engineAccess n l (fpVa p.2) (fpLen p.2) true ev with
      | .cells cs _ => .ok (out ++ [(cellsFrom (base + p.1) (fpLen p.2), cs)])
      | e => .error e) (.ok [])
  match go with
  | .error (.waits s') => s'
  | .error _ => ((s.unfail n ev).dropPair n d.node).failNode n d.node 1 0
  | .ok moves =>
    let s := moves.foldl (fun s m => s.publishTo (l.tag n) m.1 m.2) s
    ((s.dropPair n d.node).retireNode n d.node 4).kick n

/-- A copy that is to end does: nothing of it is published. -/
def State.endCopies (s : State) (n : Nat) (d : DiePair) : State :=
  (d.tags.zipIdx).foldl (fun s ti =>
    if d.bad.getD ti.2 false && !d.exited.getD ti.2 false then
      (s.containEnd ti.1 false).modPart n fun p => { p with pairs := p.pairs.map fun x =>
        if x.node = d.node then { x with exited := x.exited.set ti.2 true } else x }
    else s) s

/-- An event of a compute die in the comparison, with its record. -/
def State.dieEvent (s : State) (tag : Tag) (z cause : Nat) : State :=
  let (s, c, last) := s.countEvent (.die z)
  s.record tag (if last then 0x45 else cause) false { Strike.plain (256 * z) with count := c, last := last }

/-- The comparison once every copy has exited. -/
def State.comparePair (s : State) (n : Nat) (d : DiePair) (nd : Node) (l : Launch) (ev : Instr) : State :=
  let dig (i : Nat) : Option (BitVec 256) :=
    if d.bad.getD i false then none else some (s.shadowDigest n (d.slots.getD i 0) nd.dwords)
  let agree (i j : Nat) : Bool := (dig i).isSome && dig i == dig j
  let tag (i : Nat) : Tag := d.tags.getD i 0
  let layer (i : Nat) : Nat := d.layers.getD i 0
  -- the copy that the third disagrees with counts once, however often the commit is tried
  let outvoted (i : Nat) : State :=
    if d.counted then s
    else (s.dieEvent (tag i) (layer i) 0x47).modPart n fun p =>
      { p with pairs := p.pairs.map fun x => if x.node = d.node then { x with counted := true } else x }
  if d.tags.length = 2 then
    if agree 0 1 then s.commitPair n d nd l 0 ev
    else
      match (s.freeShadows n).head?, s.pairTile n d (s.thirdLayer n d) with
      | some sl, some t =>
        if (s.tile t).workQ.length ≥ 16 then s.post ev
        else
          let d' : DiePair :=
            { d with tags := d.tags ++ [0], layers := d.layers ++ [tileZ t], slots := d.slots ++ [sl]
                     exited := d.exited ++ [false], bad := d.bad ++ [false], expiry := none, counted := false }
          ((s.modPart n fun p => { p with pairs := p.pairs.map fun x => if x.node = d.node then d' else x }).pushWork t
            (nodeEntry l.ctx l.priv nd 3)).kick n
      | _, _ => s.post ev
  else if agree 0 2 then (outvoted 1).commitPair n d nd l 0 ev
  else if agree 1 2 then (outvoted 0).commitPair n d nd l 1 ev
  else
    let s := (List.range 3).foldl (fun s i =>
      let (s, c, last) := s.countEvent (.die (layer i))
      if last then s.record (tag i) 0x45 false { Strike.plain (256 * layer i) with count := c, last := true } else s) s
    let s := s.record (tag 2) 0x48 false
      { Strike.plain (256 * layer 2) with count := Nat.max 1 (s.eventsHeld (.die (layer 2))) }
    ((s.dropPair n d.node).failNode n d.node 4 0).kick n

/-- The digest engine looks at a pair: copies that have consumed an error end first; the comparison waits until
every copy has exited. A retry of a commit that waited for a page counts nothing again. -/
def execDigestCompare (part node : Nat) (σ : State) : Host.Outcome State Fault Refusal :=
  let ev : Instr := .digestCompare part node
  match (σ.part part).pairs.find? fun d => d.node = node with
  | none => .next σ
  | some d =>
    let σ := σ.endCopies part d
    match (σ.part part).pairs.find? fun d => d.node = node with
    | none => .next σ
    | some d =>
      match σ.nodeAt part node with
      | none => .next (σ.dropPair part node)
      | some nd =>
        match σ.launchOf part nd.launch with
        | none => .next (σ.dropPair part node)
        | some l =>
          if d.exited.all id then ends (σ.comparePair part d nd l ev)
          else if d.expiry.isSome then .next σ
          else
            let at_ := σ.now + 2 ^ bits (σ.part part).rdncfg 60 56
            .next ((σ.modPart part fun p => { p with pairs := p.pairs.map fun x =>
              if x.node = node then { x with expiry := some at_ } else x }).postAt at_ (.partnerWaitExpiry part node))

/-- Whether a copy stands still where it may have stood for long: pre-empted into a spill slot, or parked (R280). -/
def State.standsStill (s : State) (tag : Tag) : Bool :=
  match s.tileOfCtx tag with
  | none => false
  | some t => 4096 ≤ t || (match (s.thread { tile := t, slot := 0 }).st with
    | .parked _ => true
    | _ => false)

/-- The comparison has waited long enough: the late copy, pre-empted or parked, ends, both shadows are discarded, and
the node is queued as a new pair (R280). For one that runs or has yet to start, it waits on. -/
def execPartnerWaitExpiry (part node : Nat) (σ : State) : Host.Outcome State Fault Refusal :=
  match (σ.part part).pairs.find? fun d => d.node = node with
  | none => .next σ
  | some d =>
    match d.expiry with
    | none => .next σ
    | some e =>
      if σ.now < e || d.exited.all id then .next σ
      else
        let late := (d.tags.zipIdx.filter fun ti => !d.exited.getD ti.2 true).map (·.1)
        if !late.any σ.standsStill then
          let at_ := σ.now + 2 ^ bits (σ.part part).rdncfg 60 56
          .next ((σ.modPart part fun p => { p with pairs := p.pairs.map fun x =>
            if x.node = node then { x with expiry := some at_ } else x }).postAt at_ (.partnerWaitExpiry part node))
        else
        let tag := (late.find? (· ≠ 0)).getD (d.tags.headD 0)
        let σ := σ.record tag 0x49 false (Strike.plain (256 * d.layers.getD (d.tags.findIdx (· == tag)) 0))
        let σ := late.foldl (fun s t => s.containEnd t false) σ
        -- what a prefetch had taken for a copy is given back
        let σ := (σ.tiles.flatMap fun e => (e.2.workQ.filter fun w =>
            w.fetched && w.task.node == node && w.task.copy != 0).map (·.task)).foldl (fun s k =>
          (s.unpin k.pins).closeCtx k.tag) σ
        let σ := σ.mapTiles fun _ t =>
          { t with workQ := t.workQ.filter fun w => !(w.task.node == node && w.task.copy != 0) }
        ends (((σ.dropPair part node).enqueueNode part node).kick part)

/-! ### Errors (R263, R266, R274) -/

/-- An event of a structure with the containment fault that reports it: lasting-fault where it retires. -/
def State.structError (s : State) (u : Unit_) (tag : Tag) (cause : Nat) (k : Strike) : State :=
  let (s, n, last) := s.countEvent u
  s.contain tag (if last then 0x45 else cause) { k with count := n, last := last }

/-- An event of a structure that no context hears of, unless the structure is retired: then it is reported to those
given, or on record only. -/
def State.quietError (s : State) (u : Unit_) (part : Nat) (tags : List Tag) (k : Strike) : State :=
  let (s, n, last) := s.countEvent u
  if !last then s
  else
    let k := { k with count := n, last := true }
    if tags.isEmpty then s.record (mkTag 0 part 0) 0x45 false k
    else tags.foldl (fun s t => s.contain t 0x45 k) s

/-- The contexts that pin or hold a granule of a bank. -/
def State.bankHolders (s : State) (bank : Nat) : List Tag :=
  let pins := s.tiles.flatMap fun e => (e.2.task.toList ++ e.2.workQ.map (·.task)).filterMap fun k =>
    if k.pins.any fun p => p.bank == bank then some k.tag else none
  let caps := (s.bankCap.filter fun e => cellBank (e.1 * 4096) == bank).map fun e => capHolder e.2
  (pins ++ caps).eraseDups.filter fun t => tagCtx t ≠ 0

/-- The contexts with tasks at a tile. -/
def State.resident (s : State) (tile : Nat) : List Tag := ((s.tile tile).task.map (·.tag)).toList

/-- A storage word holds an uncorrectable error: poison where its granule is protected, any value where it is not
(R151, R266). -/
def State.wordError (s : State) (cell : Nat) : State :=
  let c := cell / 8 * 8
  if cell < 2 ^ 63 then if isHbmCell cell then s.poisonWord c else s
  else
    let open_ : Bool := isSideCell cell || SMap.get 0 s.gmode (cellGranule cell) == 2
    let bank := cellBank cell
    let n := (s.partOfTile bank).getD 0
    if open_ then
      let (v, s) := s.free
      ((cellsFrom c 8).zip (bytesOfNat 8 v.toNat)).foldl (fun s cb => s.setByte cb.1 cb.2) s
    else
      let k : Strike := { Strike.plain bank with struct_ := 0, addr := BitVec.ofNat 64 c }
      (s.poisonWord c).quietError (.bank bank) n (s.bankHolders bank) k

def atHome (h : Home) (s : State) : Unit_ :=
  match h with
  | .bank t => .bank t
  | .kettle u => .kettle u
  | .remote _ => .die (tileZ s.cur.tile)
def homeLoc (h : Home) : Nat :=
  match h with
  | .bank t => t
  | .kettle u => 0x80000000 + u
  | .remote w => w

/-- A ticket window is broken (R188): those who wait on it look again. -/
def State.breakWindow (s : State) (w : TicketWindow) : State :=
  (s.modWindow w.id fun w => { w with st := .broken }).wakeIf fun _ p =>
    match p with
    | .ticket h => w.homes.contains h
    | .drain i => i == w.id
    | _ => false

/-- The running command of a Kettle unit is changed. -/
def State.modCommand (s : State) (u : Nat) (f : KCommand → KCommand) : State :=
  s.modKettle u fun k => { k with queue := match k.queue with
    | c :: cs => f c :: cs
    | [] => [] }

/-- The head of the matrix queue meets an error from a group on. -/
def State.strikeHead (s : State) (tile group : Nat) : State :=
  s.modTile tile fun t => { t with mq := match t.mq with
    | u :: us => { u with struck := some group } :: us
    | [] => [] }

/-- A command's lines from the current one on are not processed. -/
def kAbandon (c : KCommand) : KCommand :=
  { c with lost := true, map := BitVec.ofNat 16 (c.map.toNat ||| ((2 ^ (kLastLine c + 1) - 1) / 2 ^ c.line * 2 ^ c.line)) }

/-- The context of a work-queue entry: its own once it has a number, else its launch root (R266). -/
def State.entryTag (s : State) (n : Nat) (w : WorkEntry) : Tag :=
  if tagCtx w.task.tag ≠ 0 then w.task.tag
  else
    match s.launchOf n w.task.launch with
    | some l => l.tag n
    | none => mkTag (tagOwner w.task.tag) n w.task.root

/-- The entries of a partition's dispenser queues, columns first, each with its lead dispenser (R97, R98); the queue of
one; and the context of an entry: a spilled task's own, a node's launch root (R266). -/
def queueEntries (p : Partition) : List (Nat × Nat) :=
  (p.colQ.flatMap fun e => e.2.map fun x => (leadOf (e.1 / 4), x)) ++ p.partQ.flatMap fun e => e.2.map fun x => (0, x)
/-- The queue that the `i`-th of them stands in. -/
def queueAt : List (List Nat) → Nat → List Nat
  | [], _ => []
  | q :: qs, i => if i < q.length then q else queueAt qs (i - q.length)
def queueWith (p : Partition) (i : Nat) : List Nat := queueAt ((p.colQ ++ p.partQ).map (·.2)) i
def State.queuedTag (s : State) (n e : Nat) : Option Tag :=
  if e ≥ 2 ^ 64 then ((s.part n).spilled.find? fun x => spillKey x.tag = e).map (·.tag)
  else (s.nodeAt n e).bind fun d => (s.launchOf n d.launch).map (·.tag n)

/-- The contexts with a guest at a home, in a slot or in its guest queue; what waits beyond is still in the buffers of
the router or of the floor channel (R40, R190). -/
def State.guestEntries (s : State) (h : Home) : List GuestOp :=
  let (g, q) := s.guestsAt h
  g.map (·.2) ++ q.take (guestWait h)

/-- The context of an entry of the fault queue. -/
def faultTag (f : FaultRec) : Tag := BitVec.ofNat 24 (bits f.d1 39 16)

/-- The structure that counts an error's events (R274): a dispenser's queue counts at the cluster agent of its lead. -/
def siteUnit (s : State) : ErrSite → Unit_
  | .word c => .bank (cellBank c)
  | .registerBank t => .core t.tile
  | .vectorUnit t => .vectorUnit t.tile
  | .loadValue t => .core t.tile
  | .matrixOperand t _ => .matrixUnit t
  | .matrixLoad t => .bank t
  | .tlb t | .rocLine t _ | .workEntry t _ | .message t _ => .core t
  | .packet t _ => .router t
  | .caddy h _ | .cursor h _ | .windowSlot h _ | .guestEntry h _ => atHome h s
  | .kettleBuffer u | .kettleLine u | .kettleEntry u => .kettle u
  | .l2Tlb c _ => .agent c
  | .dispenserEntry n i => .agent (clusterOf (s.leadTile n ((((queueEntries (s.part n))[i]?).map (·.1)).getD 0)))
  | .faultEntry n i => .agent ((((s.part n).faultQ[i]?).map (·.agent)).getD 0 % 256)
  | .unitEntry t m _ => if m then .matrixUnit t else .vectorUnit t
  | .tagOf e => siteUnit s e

/-- Where such an error is (R269 LOC), and the code of its structure. -/
def unitLoc : Unit_ → Nat
  | .kettle u => 0x80000000 + u
  | .bank t | .core t | .vectorUnit t | .matrixUnit t | .router t => t
  | .agent c => (clusterTiles c).headD 0
  | .die z => 256 * z
  | .link l => linkLoc l
def siteStruct : ErrSite → Nat
  | .word _ | .matrixLoad _ => 0
  | .registerBank _ => 1
  | .vectorUnit _ => 2
  | .matrixOperand _ _ => 3
  | .unitEntry _ _ _ => 4
  | .tlb _ | .l2Tlb _ _ => 5
  | .rocLine _ _ => 6
  | .message _ _ => 7
  | .guestEntry _ _ => 8
  | .packet _ _ => 9
  | .caddy _ _ => 10
  | .cursor _ _ | .windowSlot _ _ => 11
  | .workEntry _ _ | .dispenserEntry _ _ | .faultEntry _ _ => 12
  | .kettleBuffer _ | .kettleLine _ | .kettleEntry _ => 14
  | .loadValue _ => 15
  | .tagOf e => siteStruct e

/-- The cell of the line at which the head of a matrix queue meets an error in its load (R263). -/
def State.loadCell (s : State) (tile : Nat) : Nat := (((s.tile tile).mq.head?).bind fun u => u.cells.head?).getD 0

/-- ADDR of a record: the physical place of a struck word, for other state its entry index (R269). A line buffer's and a
command's are as R322 has them. -/
def State.siteAddr (s : State) : ErrSite → Nat
  | .word c => c
  | .matrixLoad t => s.loadCell t
  | .registerBank t | .vectorUnit t | .loadValue t => t.slot
  | .matrixOperand _ g => g
  | .tlb _ => 0
  | .rocLine t line => (s.tile t).roc.findIdx fun l => l.fill.line == line
  | .packet t id => (s.packets.filter fun p => p.cur == t).findIdx fun p => p.id == id
  | .workEntry _ i | .message _ i | .caddy _ i | .l2Tlb _ i | .dispenserEntry _ i | .faultEntry _ i
  | .guestEntry _ i => i
  | .cursor _ cell => cell
  | .windowSlot h w => (s.windows.filter fun x => x.homes.contains h).findIdx fun x => x.id == w
  | .kettleBuffer u | .kettleLine u => (((s.kettle u).queue.head?).map fun c => c.base / 4096 * 4096 + c.line * 256).getD 0
  | .kettleEntry u => (((s.kettle u).queue.head?).map (·.block)).getD 0
  | .unitEntry _ _ i => i
  | .tagOf e => s.siteAddr e

/-- SEQ of a record: the ring number of the unit's instruction that the error meets (R269). -/
def State.siteSeq (s : State) : ErrSite → Option (BitVec 6)
  | .unitEntry t m i => ((if m then (s.tile t).mq else (s.tile t).vq)[i]?).map (·.ring)
  | .matrixLoad t | .matrixOperand t _ => ((s.tile t).mq.head?).map (·.ring)
  | .tagOf e => s.siteSeq e
  | _ => none

/-- The windows with an entry in the Caddy of a home. -/
def State.caddyWindows (s : State) (h : Home) : List TicketWindow :=
  s.windows.filter fun w => w.caddy.any fun e => e.upd.home == h

/-- The contexts of a widened domain, for each kind of entry whose tag cannot be read (R266). -/
def State.wideDomain (s : State) (e : ErrSite) : List Tag :=
  let tags : List Tag := match e with
    | .word c => if isBankCell c then s.bankHolders (cellBank c) else []
    | .matrixLoad t => s.bankHolders t
    | .registerBank t | .vectorUnit t => [s.tagOf t]
    | .tlb _ | .l2Tlb _ _ | .rocLine _ _ => []
    | .packet t id =>
      match s.packets.find? fun p => p.id = id with
      | some x => (s.packets.filter fun p => p.cur = t && p.piste = x.piste).map (·.tag)
      | none => []
    | .workEntry t _ => ((s.tile t).workQ.map fun w => s.entryTag ((s.partOfTile t).getD 0) w)
    | .message t _ | .matrixOperand t _ | .unitEntry t _ _ => s.resident t
    | .caddy h _ => (s.caddyWindows h).map (·.owner)
    | .cursor h _ | .windowSlot h _ => (s.windows.filter fun w => w.homes.contains h).map (·.owner)
    | .kettleBuffer u | .kettleLine u => (((s.kettle u).queue.head?).map (·.tag)).toList
    | .kettleEntry u => (s.kettle u).queue.map (·.tag)
    | .dispenserEntry n i => (queueWith (s.part n) i).filterMap (s.queuedTag n)
    | .faultEntry n i => ((s.part n).faultQ.filter fun f => some f.agent == ((s.part n).faultQ[i]?).map (·.agent)).map faultTag
    | .guestEntry h _ => (s.guestEntries h).map (·.tag)
    | .loadValue t => s.resident t.tile
    | .tagOf _ => []
  tags.eraseDups.filter fun x => tagCtx x ≠ 0

/-- The cells of a window whose cursors are lost are written poisoned (R188). -/
def State.poisonGranules (s : State) (gs : List Nat) : State :=
  gs.foldl (fun s g => (List.range 512).foldl (fun s i => s.poisonWord (g * 4096 + 8 * i)) s) s

/-- What is lost with an entry whose tag cannot be read: a Caddy's windows break, a translation or a cached line is
dropped and fetched anew (R188, R266). -/
def State.loseTag (s : State) (e : ErrSite) : State :=
  match e with
  | .caddy h _ => (s.caddyWindows h).foldl State.breakWindow s
  | .tlb t => s.modTile t fun x => { x with itlb := [], dtlb := [] }
  | .l2Tlb c _ => { s with l2 := SMap.set [] s.l2 c [] }
  | .rocLine t line => s.modTile t fun x => { x with roc := x.roc.filter fun l => l.fill.line ≠ line }
  | _ => s

/-- An uncorrectable error strikes, and the structure's own rule handles it. -/
def execUncorrectableError (e : ErrSite) (σ : State) : Host.Outcome State Fault Refusal :=
  let tileStrike (t st : Nat) : Strike :=
    { Strike.plain t with struct_ := st, addr := BitVec.ofNat 64 (σ.siteAddr e), seq := σ.siteSeq e }
  match e with
  | .word cell => ends (σ.wordError cell)
  | .registerBank t =>
    let k := { tileStrike t.tile 1 with slot := t.slot, stop := true, epc := (σ.thread t).pc }
    if (σ.thread t).st = .free then .next (σ.quietError (.core t.tile) ((σ.partOfTile t.tile).getD 0) [] k)
    else ends ((σ.stopThread t).structError (.core t.tile) (σ.tagOf t) 0x40 k)
  | .vectorUnit t =>
    let k := { tileStrike t.tile 2 with slot := t.slot, stop := true, epc := (σ.thread t).pc }
    if (σ.thread t).st = .free then .next (σ.quietError (.vectorUnit t.tile) ((σ.partOfTile t.tile).getD 0) [] k)
    else ends ((σ.stopThread t).structError (.vectorUnit t.tile) (σ.tagOf t) 0x40 k)
  | .matrixOperand tile group =>
    ends ((σ.strikeHead tile group).quietError (.matrixUnit tile) ((σ.partOfTile tile).getD 0) (σ.resident tile)
      (tileStrike tile 3))
  | .loadValue t =>
    -- the twins diverge (R277)
    match (σ.tile t.tile).task, (σ.twin t).lvq with
    | some k, _ :: _ => if k.rdm = 1 then .next ((σ.stopAll t.tile).postOnce (.twinTimeout { tile := t.tile, slot := 0 })) else .next σ
    | _, _ => .next σ
  | .matrixLoad tile =>
    let bank := if isBankCell (σ.loadCell tile) then cellBank (σ.loadCell tile) else tile
    ends ((σ.strikeHead tile 0).quietError (.bank bank) ((σ.partOfTile tile).getD 0) (σ.bankHolders bank)
      (tileStrike bank 0))
  | .tlb tile =>
    .next ((σ.modTile tile fun t => { t with itlb := [], dtlb := [] }).quietError (.core tile)
      ((σ.partOfTile tile).getD 0) (σ.resident tile) (tileStrike tile 5))
  | .rocLine tile line =>
    .next ((σ.modTile tile fun t => { t with roc := t.roc.filter fun l => l.fill.line ≠ line }).quietError (.core tile)
      ((σ.partOfTile tile).getD 0) (σ.resident tile) (tileStrike tile 6))
  | .packet tile id =>
    match σ.packets.find? fun p => p.id = id with
    | none => .next σ
    | some p => ends ((σ.dropPacket id).structError (.router tile) p.tag 0x43 (tileStrike tile 9))
  | .workEntry tile index =>
    match (σ.tile tile).workQ[index]? with
    | none => .next σ
    | some w =>
      let n := (σ.partOfTile tile).getD 0
      let tag := σ.entryTag n w
      let σ := σ.modTile tile (·.takeEntry w)
      -- what a prefetch had taken for it is given back
      let σ := if w.fetched then (σ.unpin w.task.pins).closeCtx w.task.tag else σ
      ends (σ.structError (.core tile) tag 0x43 (tileStrike tile 12))
  | .message tile index =>
    match (σ.tile tile).store[index]? with
    | none => .next σ
    | some _ =>
      let σ := σ.modTile tile fun t => { t with store := t.store.eraseIdx index }
      ends ((σ.resident tile).foldl (fun s x => s.structError (.core tile) x 0x43 (tileStrike tile 7)) σ)
  | .caddy home index =>
    let here := σ.windows.flatMap fun w => (w.caddy.filter fun c => c.upd.home == home).map fun c => (w, c)
    match here[index]? with
    | none => .next σ
    | some (w, c) =>
      let σ := σ.modWindow w.id fun w => { w with caddy := dropFirst (· == c) w.caddy }
      let σ := σ.flog w.owner
        { ptr := c.upd.ptr, insn := c.upd.insn, cause := cTicketClosed, opnd := c.upd.v
          ticket := c.upd.t.toNat, home := σ.homeWord home }
      ends (σ.structError (atHome home σ) c.upd.tag 0x43 { Strike.plain (homeLoc home) with struct_ := 10, addr := BitVec.ofNat 64 index })
  | .cursor home cell =>
    match σ.windowAt cell with
    | none => .next σ
    | some w =>
      let σ := (σ.poisonWord (cell / 8 * 8)).breakWindow w
      ends (σ.structError (atHome home σ) w.owner 0x43 { Strike.plain (homeLoc home) with struct_ := 11, addr := BitVec.ofNat 64 cell })
  | .windowSlot home window =>
    match σ.windows.find? fun w => w.id = window with
    | none => .next σ
    | some w =>
      -- with its slot the home has lost the window's cursors there (assumption 121)
      ends (((σ.poisonGranules (σ.granulesHome w home)).breakWindow w).structError (atHome home σ) w.owner 0x43 { Strike.plain (homeLoc home) with struct_ := 11, addr := BitVec.ofNat 64 (σ.siteAddr e) })
  | .kettleBuffer unit =>
    match (σ.kettle unit).queue with
    | [] => .next σ
    | c :: _ =>
      let k : Strike := { Strike.plain (0x80000000 + unit) with struct_ := 14 }
      if !c.active || c.lost then .next σ
      -- no line is in the buffer any more
      else if σ.kEnding unit then .next (σ.quietError (.kettle unit) (tagPart c.tag) [c.tag] k)
      else
        let line := c.base / 4096 * 4096 + c.line * 256
        -- the line in hand is not written back; the command goes on with the next
        let σ := σ.kNext unit (kSkip c)
        ends (({ σ with agenda := dropFirst (fun (q : Pending) => q.ev == Instr.kettleLine unit && q.id < σ.nextId - 1) σ.agenda }).structError
          (.kettle unit) c.tag 0x43
          { Strike.plain (0x80000000 + unit) with struct_ := 14, addr := BitVec.ofNat 64 line })
  | .kettleLine unit =>
    match (σ.kettle unit).queue with
    | [] => .next σ
    | c :: _ => ends (if c.active then σ.poisonWord (c.base / 4096 * 4096 + c.line * 256) else σ)
  | .kettleEntry unit =>
    match (σ.kettle unit).queue with
    | [] => .next σ
    | c :: _ =>
      let done := σ.kEnding unit
      let σ := σ.modCommand unit fun c =>
        if done then { c with lost := true } else kAbandon { c with active := true }
      let σ := { σ with agenda := σ.agenda.filter fun q => q.ev ≠ Instr.kettleLine unit }.postOnce (.kettleCommandComplete unit)
      ends (σ.structError (.kettle unit) c.tag 0x43
        { Strike.plain (0x80000000 + unit) with struct_ := 14, addr := BitVec.ofNat 64 c.block })
  | .l2Tlb cluster index =>
    let σ := { σ with l2 := SMap.set [] σ.l2 cluster ((SMap.get [] σ.l2 cluster).eraseIdx index) }
    let t := (clusterTiles cluster).headD 0
    .next (σ.quietError (.agent cluster) ((σ.partOfTile t).getD 0) [] (tileStrike t 5))
  | .dispenserEntry part index =>
    match (queueEntries (σ.part part))[index]? with
    | none => .next σ
    | some (_, q) =>
      let tag := (σ.queuedTag part q).getD 0
      let u := siteUnit σ e
      ends ((σ.unqueue part q).structError u tag 0x43 (tileStrike (unitLoc u) 12))
  | .faultEntry part index =>
    match (σ.part part).faultQ[index]? with
    | none => .next σ
    | some f =>
      let σ := σ.modPart part fun p => { p with faultQ := p.faultQ.eraseIdx index }
      let u : Unit_ := .agent (f.agent % 256)
      ends (σ.structError u (faultTag f) 0x43 (tileStrike (unitLoc u) 12))
  | .guestEntry home index =>
    match (σ.guestEntries home)[index]? with
    | none => .next σ
    | some g =>
      let σ := { σ with agenda := σ.agenda.filter fun q => q.ev ≠ Instr.atomicAtHome g }
      let (gs, qs) := σ.guestsAt home
      let σ := if gs.any (·.2 == g) then σ.endGuest g else σ.setGuests home gs (dropFirst (· == g) qs)
      ends (σ.structError (atHome home σ) g.tag 0x43 { Strike.plain (homeLoc home) with struct_ := 8, addr := BitVec.ofNat 64 index })
  | .unitEntry tile matrix index =>
    let q := if matrix then (σ.tile tile).mq else (σ.tile tile).vq
    match q[index]? with
    | none => .next σ
    | some u =>
      let σ := σ.modTile tile fun t =>
        let t := if matrix then { t with mq := t.mq.eraseIdx index } else { t with vq := t.vq.eraseIdx index }
        t.setRing u.ring .cancelled false
      let σ := σ.postOnce (if matrix then .matrixCompletion tile else .vectorCompletion tile)
      ends ((σ.resident tile).foldl (fun s x => s.structError (siteUnit s e) x 0x43 (tileStrike tile 4)) σ)
  | .tagOf site =>
    let tags := σ.wideDomain site
    let unit := siteUnit σ site
    let at_ := BitVec.ofNat 64 (σ.siteAddr site)
    let seq := σ.siteSeq site
    let part := (σ.partOfTile ((unitTile unit).getD 0)).getD 0
    let (σ, n, last) := (σ.loseTag site).countEvent unit
    let k := { Strike.plain (unitLoc unit) with struct_ := siteStruct site, addr := at_, seq := seq, wide := true, count := n, last := last }
    -- a retirement that no context hears of is on record (R275)
    let σ := if last && tags.isEmpty then σ.record (mkTag 0 part 0) 0x45 false k else σ
    ends (tags.foldl (fun s t => s.contain t (if last then 0x45 else 0x42) k) σ)

/-- A correctable error of a link: past the link's threshold, which adapts (assumption 144), the link retrains
(R326). -/
def State.linkError (s : State) (l : Nat) : State :=
  let n := SMap.get 0 s.floor.linkErrs l + 1
  let past := n > Config.linkThreshold s.frees
  let s := { (s.modFloor fun f => { f with linkErrs := SMap.set 0 f.linkErrs l (if past then 0 else n) }) with frees := s.frees + 1 }
  if past then s.post (.linkRetrain l) else s

/-- A correctable error at a word already corrected within the window is an event of its structure (R274); one of a
link counts toward the link's threshold (R326). -/
def execCorrectableError (u : Unit_) (σ : State) : Host.Outcome State Fault Refusal :=
  match u with
  | .link l => .next (σ.linkError l)
  | u =>
  let t := (unitTile u).getD 0
  let tags := match u with
    | .bank b => σ.bankHolders b
    | .core b | .vectorUnit b | .matrixUnit b => σ.resident b
    | _ => []
  let loc := match u with
    | .kettle k => 0x80000000 + k
    | _ => t
  ends (σ.quietError u ((σ.partOfTile t).getD 0) tags (Strike.plain loc))

/-- The window of a structure lapses: it counts as holding no event (R274). -/
def execFaultWindowLapse (u : Unit_) (σ : State) : Host.Outcome State Fault Refusal :=
  let c := σ.counter u
  if c.count ≠ 0 && σ.unitTc u - c.start ≥ 2 ^ 30 then
    .next { σ with counts := SMap.set EventCount.zero σ.counts (unitKey u) EventCount.zero }
  else .next σ

/-- The scrubber reads a line of its bank (R154). Granules without protection are skipped; elsewhere a correctable
error is put right, which leaves the data as they read, and a word found uncorrectable is marked poisoned, its tag
that of the line: errors themselves come as events of their own. -/
def execScrubLine (tile : Nat) (line : Nat) (σ : State) : Host.Outcome State Fault Refusal :=
  let c := bankCell tile (line % 2 ^ 22 / 256 * 256)
  if SMap.get 0 σ.gmode (c / 4096) = 2 then .next σ
  else
    let bad := (List.range 32).map (fun i => c + 8 * i) |>.filter fun x => SMap.get false σ.pois (x / 8)
    .next (bad.foldl State.poisonWord σ)

end Sys2Proof.Machine
end

