-- ==== Sys2Proof/Machine/Roles.lean ====
section
/-! DEFINITION. Roles of the dies: the checks and the five steps of a role change, partition holds, and the
retirements that take effect in them (R15 to R19, R23 to R37, R275, R276, R387, R445). -/

namespace Sys2Proof.Machine

/-! ### The rules of a configuration (R16, R17) -/

/-- The clock ceiling in MHz and the rated power of a compute die, for N compute dies in the cube (R17). -/
def ceilingFor (n : Nat) : Nat × Nat :=
  if n ≤ 8 then (2500, 448)
  else
    match n with
    | 9 => (2300, 399)
    | 10 => (2150, 358)
    | 11 => (2000, 325)
    | _ => (1900, 298)

/-- The dies of a role word that compute. -/
def compDies (role : BitVec 16) : List Nat := (List.range 16).filter fun z => role.getLsbD z

/-- The four rules of R16 on a role word, for the partitions as lists of layers. -/
def rolesOk (parts : List (List Nat)) (role : BitVec 16) : Bool :=
  let n := (compDies role).length
  let w := (ceilingFor n).2
  let heat (z : Nat) : Nat := if role.getLsbD z then w else 45
  parts.all (fun ls => ls.any fun z => role.getLsbD z) && n ≤ 12 && n * w ≤ 3600 &&
  (List.range 8).all fun i => heat (2 * i) + heat (2 * i + 1) ≤ 900

/-- The layers of every valid partition. -/
def State.partLayers (s : State) : List (List Nat) := ((List.range 8).map s.layers).filter fun l => !l.isEmpty

/-! ### Status (R27, R29, R30) -/

def roleStat (f : Floor) : Word :=
  BitVec.ofNat 64 (f.roleStep % 8 + (if f.roleBusy then 2 ^ 3 else 0) + f.roleCode % 16 * 2 ^ 4 +
    f.roleAffect.toNat * 2 ^ 8 + (if f.rolePoison then 2 ^ 24 else 0) + (if f.roleStop then 2 ^ 25 else 0))

/-- The status record of a step transition: ROLESTAT and the partition's retired instructions (R30). -/
def State.roleRecord (s : State) : State :=
  let at_ := bits s.floor.rolerec 50 4 * 16
  if at_ = 0 then s
  else
    let n := ((s.tilesOf s.floor.seqPart).map fun t => (s.tile t).retired).sum
    (s.write64 0 at_ (roleStat s.floor)).write64 0 (at_ + 8) (BitVec.ofNat 64 n)

def State.setStep (s : State) (k : Nat) : State := (s.modFloor fun f => { f with roleStep := k }).roleRecord

/-- Whether the running sequence changes a layer (R30). -/
def State.changed (s : State) (z : Nat) : Bool := (s.floor.seqRole ^^^ s.floor.role).getLsbD z

/-- The affected set of a change from one role word to another, within the layers of a partition (R30): the
changed dies, and the compute dies whose face partner or gap neighbour changes. -/
def affectedSet (layers : List Nat) (old new_ : BitVec 16) : List Nat :=
  let ch (z : Nat) : Bool := layers.contains z && (old ^^^ new_).getLsbD z
  layers.filter fun z => ch z || (old.getLsbD z && (ch (z + 1) || (z ≥ 1 && ch (z - 1))))

/-- Tiles on layers of the affected set. -/
def State.affected (s : State) (t : Nat) : Bool := t < 4096 && s.floor.roleAffect.getLsbD (tileZ t)

/-- A home on a changed die. -/
def State.homeChanges (s : State) (h : Home) : Bool :=
  match h with
  | .bank t => s.changed (tileZ t)
  | _ => false

/-- Ticket windows that must close before the drain ends. -/
def State.roleWindows (s : State) : List TicketWindow := s.windows.filter fun w => w.homes.any s.homeChanges

/-- Tiles of the affected set that hold a task. -/
def State.roleTasks (s : State) : List (Nat × Task) :=
  (s.tiles.filter fun e => s.affected e.1).filterMap fun e => e.2.task.map fun k => (e.1, k)

/-! ### GO, the drain and ABORT (R28, R30, R33) -/

/-- Work that a dispenser takes back from a tile's queue: what was prefetched for it is released. -/
def State.takeBack (s : State) (n tile : Nat) (w : WorkEntry) : State :=
  let s := s.modTile tile (·.takeEntry w)
  if w.fetched then (((s.unpin w.task.pins).revertCaps w.task.tag false).closeCtx w.task.tag).voidFaults n w.task.tag
  else s

/-- A copy of a die pair queued in the affected set goes to the tile of its column with the fewest entries outside it, or to
another such tile where the column has none (R30). Where nothing of the pair has begun, the node is queued anew instead. -/
def State.requeueCopy (s : State) (n tile : Nat) (w : WorkEntry) : State :=
  let begun : Bool := ((s.part n).pairs.find? fun d => d.node == w.task.node).any fun d =>
    d.exited.any id || d.tags.any fun t => t ≠ 0 && (s.tileOfCtx t).isSome
  if begun then
    let open_ := (s.liveTiles n).filter fun t => !s.affected t && (s.tile t).workQ.length < 16
    let near := open_.filter fun t => t % 256 == tile % 256
    match leastBy s.tileUse (if near.isEmpty then open_ else near) with
    | some t =>
      let k := if w.fetched then { w.task with tag := 0, pins := [], phase := .fetching } else w.task
      (s.takeBack n tile w).pushWork t { w with fetched := false, task := k }
    | none => s
  else
    let all := s.tiles.flatMap fun e => (e.2.workQ.filter fun x => x.task.node == w.task.node && x.task.copy ≠ 0).map fun x =>
      (e.1, x)
    ((all.foldl (fun s x => s.takeBack n x.1 x.2) s).dropPair n w.task.node).enqueueNode n w.task.node

/-- Step 1 begins: dispatch to the affected set stops, its queued nodes are queued by column, threads in WAITWORK
are recalled. -/
def State.beginDrain (s : State) : State :=
  let n := s.floor.seqPart
  let at_ := s.now + s.floor.roleDrain
  let s := ((s.modFloor fun f => { f with roleDrain := at_ }).setStep 1).postAt at_ .drainLimitExpiry
  let here := s.tiles.filter fun e => s.affected e.1
  let s := here.foldl (fun s e =>
    (e.2.workQ.filter fun w => !w.deliv && !w.spawned && w.task.copy == 0).foldl (fun s w =>
      (s.takeBack n e.1 w).enqueueNode n w.task.node) (s.callBack e.1)) s
  let copies := here.flatMap fun e => (e.2.workQ.filter fun w => w.task.copy ≠ 0).map fun w => (e.1, w)
  let s := copies.foldl (fun s x => if (s.tile x.1).workQ.contains x.2 then s.requeueCopy n x.1 x.2 else s) s
  (s.postOnce .roleFlush).kick n

/-- A GO (R28): refused with code 3 or 2, or the sequence begins; in deterministic mode step 1 waits for a
boundary (R33). -/
def State.roleGo (s : State) : State :=
  let f := s.floor
  let n := f.rolePart.toNat
  let ls := s.layers n
  let bad : Bool := ls.isEmpty ||
    ((List.range 16).any fun z => !ls.contains z && (f.newRole ^^^ f.role).getLsbD z) ||
    !rolesOk s.partLayers f.newRole || f.roleDlim.toNat < 16 || 30 < f.roleDlim.toNat
  if f.roleBusy && !f.roleStop then s.modFloor fun f => { f with roleCode := 3 }
  else if bad then s.modFloor fun f => { f with roleCode := 2 }
  else
    let set := affectedSet ls f.role f.newRole
    let s := s.modFloor fun f =>
      { f with
        roleBusy := true
        roleStop := false
        roleCode := 1
        roleStep := 0
        roleAffect := BitVec.ofNat 16 ((set.map fun z => 2 ^ z).sum)
        roleDrain := 2 ^ f.roleDlim.toNat
        seqRole := f.newRole
        seqPart := n
        seqDiscard := f.roleDiscard
        seqForce := f.roleForce }
    if (s.part n).mode = 1 then s else s.beginDrain

/-- An ABORT (R33): it ends a sequence still in step 1. Where the floor die has no place for its notice it waits
(R251). -/
def State.roleAbort (s : State) : State :=
  let f := s.floor
  if !f.roleBusy || 1 < f.roleStep then s
  else if !s.noticeRoom f.seqPart then s.postOnce .roleChangeAbort
  else
    let s := (s.modFloor fun f => { f with roleCode := 6, roleBusy := false, roleStop := false }).setStep 0
    let s := { s with agenda := s.agenda.filter fun q => q.ev ≠ Instr.roleFlush && q.ev ≠ Instr.drainLimitExpiry }
    ((s.notify f.seqPart 5 0 (roleStat s.floor)).kick f.seqPart).holdRetired f.seqPart

def execRoleChangeGo (σ : State) : Host.Outcome State Fault Refusal := ends σ.roleGo
def execRoleChangeAbort (σ : State) : Host.Outcome State Fault Refusal := ends σ.roleAbort

/-- The sequence stops in step 1: retirements that it would have taken along have their own hold. -/
def State.roleHalt (s : State) (code : Nat) : State :=
  (s.modFloor fun f => { f with roleStop := true, roleCode := code }).holdRetired s.floor.seqPart

/-- The compute tile outside the affected set that a task left at the drain limit moves to. -/
def State.refuge (s : State) (n : Nat) (k : Task) : Option Nat :=
  leastBy (fun u => s.colLoad n (u % 256))
    ((s.liveTiles n).filter fun u => !s.affected u && s.idle n u && s.roomAt u k.pins)

/-- What the drain limit does with the tasks left: they leave, some after the tick of `next`, or one has nowhere to
go. -/
inductive Left where
  | moved (s : State) (next : Option Nat)
  | stuck (s : State)
  deriving DecidableEq, Repr

/-- A node whose footprint is still being fetched into a tile's slot 0 goes back to its queue. -/
def State.takeBackSlot (s : State) (n t : Nat) (k : Task) : State :=
  let s := (((s.unpin k.pins).revertCaps k.tag false).closeCtx k.tag).voidFaults n k.tag
  (s.modTile t fun x => { x with task := none }).enqueueNode n k.node

/-- The tasks left are moved one after another (R30). One that finds no forwarding entry free waits for it (R95), and so
does what is just being fetched for a SPAWN or a copy of a die pair, or streams into the affected set. A task parked in
WAITWORK is recalled once more, never moved so (R440), and one that an Avalanche takes away is as good as drained (R33). -/
def State.moveTasks (n : Nat) : List (Nat × Task) → Option Nat → State → Left
  | [], next, s => .moved s next
  | (t, k) :: rest, next, s =>
    let later (at_ : Nat) : Option Nat := some (Nat.min at_ (next.getD at_))
    if (s.ctx k.tag).dying then State.moveTasks n rest (later (s.now + 1)) s
    else match k.phase with
    | .running =>
      if s.waitsWork t then State.moveTasks n rest (later (s.now + 1)) (s.callBack t)
      else if !s.mayCross t k then .stuck s
      else if s.fwdFull t then State.moveTasks n rest (later (s.now + s.fwdFree t)) s
      else
        match s.refuge n k with
        | none => .stuck s
        | some u => State.moveTasks n rest next (s.startCross t u)
    | .fetching =>
      if k.node ≠ 0 && k.copy = 0 then State.moveTasks n rest next (s.takeBackSlot n t k)
      else State.moveTasks n rest (later (s.now + 1)) s
    | .streaming => State.moveTasks n rest (later (s.now + 1)) s
    | _ => State.moveTasks n rest next s

/-- The drain limit: what is left in the affected set moves away or the sequence stops with code 4; windows still
open are abandoned under FORCE, or it stops with code 5. -/
def execDrainLimitExpiry (σ : State) : Host.Outcome State Fault Refusal :=
  let f := σ.floor
  if !f.roleBusy || f.roleStep ≠ 1 || f.roleStop || σ.now < f.roleDrain then .next σ
  else
    match State.moveTasks f.seqPart σ.roleTasks none σ with
    | .stuck σ => .next (σ.roleHalt 4)
    | .moved σ (some at_) => .next (σ.postAt at_ .drainLimitExpiry)
    | .moved σ none =>
      if σ.roleWindows.isEmpty then .next σ
      else if f.seqForce then ends (σ.roleWindows.foldl State.abandonWindow σ)
      else .next (σ.roleHalt 5)

/-! ### Flush (R30, R32) -/

/-- Whether step 2 may begin: nothing of the affected set is left to drain. -/
def State.roleDrained (s : State) : Bool :=
  let f := s.floor
  f.roleBusy && f.roleStep == 1 && !f.roleStop && s.roleTasks.isEmpty && s.roleWindows.isEmpty

/-- The first cell of a die's banks, whose 256 banks of 4 MiB lie one after another. -/
def dieCell (z : Nat) : Nat := bankCell (256 * z) 0
def dieBytes : Nat := 2 ^ 30

/-- Entries with keys from `lo` on, `n` of them, go. -/
def cutRange {α : Type} (m : SMap α) (lo n : Nat) : SMap α := m.filter fun e => !(lo ≤ e.1 && e.1 < lo + n)

/-- The keys from `lo` on, `n` of them, all read true. -/
def markRange (m : SMap Bool) (lo n : Nat) : SMap Bool :=
  (m.filter fun e => e.1 < lo) ++ ((List.range n).map fun i => (lo + i, true)) ++ m.filter fun e => lo + n ≤ e.1

/-- Entries from `lo` on replace those from `hi` on; `n` keys. -/
def copyRange {α : Type} (m : SMap α) (lo hi n : Nat) : SMap α :=
  (m.filter fun e => lo ≤ e.1 && e.1 < lo + n).foldl (fun m e => SMap.put m (hi + (e.1 - lo)) e.2) (cutRange m hi n)

/-- Every granule of a die's banks is marked vacated. -/
def State.vacateDie (s : State) (z : Nat) : State :=
  { s with vacated := markRange s.vacated (dieCell z / 4096) (dieBytes / 4096) }

/-- The banks of a die lose their full/empty bits, which a flush does not keep (R168): the waiters of a word that was
full are woken (R169). -/
def State.emptyDie (s : State) (z : Nat) : State :=
  let s := s.wakeIf fun _ p => match p with
    | .fullEmpty c => dieCell z ≤ c && c < dieCell z + dieBytes && SMap.get false s.fe (c / 8)
    | _ => false
  { s with fe := cutRange s.fe (dieCell z / 8) (dieBytes / 8) }

/-- The banks of a die are zeroed, with valid check bits. -/
def State.zeroDie (s : State) (z : Nat) : State :=
  let c := dieCell z
  { s.emptyDie z with
    mem := cutRange (cutRange s.mem c dieBytes) (sideCell (256 * z) 0) (2 ^ 28)
    pois := cutRange s.pois (c / 8) (dieBytes / 8)
    poisTag := cutRange s.poisTag (c / 256) (dieBytes / 256)
    lineTag := cutRange s.lineTag (c / 256) (dieBytes / 256)
    gmode := cutRange s.gmode (c / 4096) (dieBytes / 4096) }

/-- A die's banks are written to a flush area, poison with them: the owners of poisoned lines receive a containment
fault. -/
def State.flushDie (s : State) (z area : Nat) : State :=
  let c := dieCell z
  let bad := ((s.pois.filter fun e => c / 8 ≤ e.1 && e.1 < c / 8 + dieBytes / 8).map fun e => e.1 / 32).eraseDups
  let s := { (s.touch (area + dieBytes - 1)) with
    mem := copyRange s.mem c area dieBytes
    pois := copyRange s.pois (c / 8) (area / 8) (dieBytes / 8) }
  let armed := (s.allThreads.flatMap fun t => (s.thread t).mons.map (·.line)).filter fun l =>
    area / 256 ≤ l && l < (area + dieBytes) / 256
  let s := if armed.isEmpty then s else s.hitMonitors armed
  let s := if bad.isEmpty then s else s.modFloor fun f => { f with rolePoison := true }
  bad.foldl (fun s l => s.contain (BitVec.ofNat 24 (s.poisonTag l)) 0x43
    { s.strikeCell (l * 256) with count := Nat.max 1 (s.eventsHeld (.bank (cellBank (l * 256)))) }) s

/-- The changed dies that leave the bank role, in ascending layer order; and those that gain it. -/
def State.leavingBank (s : State) : List Nat := (List.range 16).filter fun z => s.changed z && s.floor.seqRole.getLsbD z
def State.gainingBank (s : State) : List Nat := (List.range 16).filter fun z => s.changed z && !s.floor.seqRole.getLsbD z

/-- Whether an access is still under way at a bank that leaves the bank role: the flush begins when the last has landed, so
that none completes in step 2 (R30; assumption 122). -/
def State.landing (s : State) : Bool :=
  let hit (c : Nat) : Bool := isBankCell c && s.leavingBank.contains (tileZ (cellBank c))
  (s.flight.any fun q => (accessesOf q.2).any fun a => a.2.2.any hit) ||
  (s.unitAccesses.any fun a => a.2.2.any hit) ||
  s.tiles.any fun e => e.2.engQ.any fun c => c.chunks.any fun ch => ch.1.any hit || ch.2.any hit

/-- Step 2. -/
def execRoleFlush (σ : State) : Host.Outcome State Fault Refusal :=
  if !σ.roleDrained then .next σ
  else
    let σ := { σ with agenda := σ.agenda.filter fun q => q.ev ≠ Instr.drainLimitExpiry }
    let σ := σ.setStep 2
    let dies := σ.leavingBank
    let base := bits σ.floor.roleflb 50 30 * 2 ^ 30
    let out (s : State) (zi : Nat × Nat) : State :=
      let s := s.vacateDie zi.1
      if s.floor.seqDiscard then s.zeroDie zi.1 else (s.flushDie zi.1 (base + zi.2 * dieBytes)).emptyDie zi.1
    let σ := dies.zipIdx.foldl out σ
    let tc := if dies.isEmpty then 0 else if σ.floor.seqDiscard then 16384 else 104858
    ends (σ.postIn tc .roleRetire)

/-! ### Retire (R30, R387) -/

/-- Monitor entries whose home `f` accepts are dropped; their bits are reported by the next MONWAIT (R387). -/
def State.dropMonitors (s : State) (f : Home → Bool) : State :=
  s.allThreads.foldl (fun s t =>
    let hit (m : Monitor) : Bool := !m.gone && ((s.homeOf (m.line * 256)).any f)
    if (s.thread t).mons.any hit then
      let s := s.modThread t fun th =>
        { th with mons := th.mons.map fun m => if hit m then { m with hit := true, gone := true } else m }
      if (s.thread t).st = .parked .monitor then s.wake t else s
    else s) s

/-- Step 3: translations of the changed dies' banks leave every TLB, their granules are vacated, their records
revert to the launch roots, and the dies that gain the bank role start zeroed. -/
def execRoleRetire (σ : State) : Host.Outcome State Fault Refusal :=
  if !σ.floor.roleBusy || σ.floor.roleStep ≠ 2 then .next σ
  else
    let σ := σ.setStep 3
    let ch (t : Nat) : Bool := σ.changed (tileZ t)
    let σ := σ.dropTlb (σ.tilesOf σ.floor.seqPart) [σ.floor.seqPart]
      (fun e => leafHome e.leaf == 1 && ch (bits e.leaf 33 22)) (fun l => isBankCell (l.fill.line * 256) && ch (cellBank (l.fill.line * 256)))
    let σ := (σ.gainingBank.foldl State.zeroDie σ)
    let σ := (σ.leavingBank ++ σ.gainingBank).foldl State.vacateDie σ
    let σ := (σ.bankCap.filter fun e => ch (cellBank (e.1 * 4096))).foldl (fun s e =>
      s.setCap e.1 (mkCap (mkTag (tagOwner (capHolder e.2)) (tagPart (capHolder e.2)) (capRoot e.2)) 0 false
        (capRoot e.2))) σ
    let σ := σ.dropMonitors fun h => match h with
      | .bank t => ch t && !σ.computes (tileZ t)
      | _ => false
    ends (σ.post .roleReenumerate)

/-- Whether step 4 may begin: the forwarding entries of changed dies have expired; where quanta run, at a
boundary. -/
def State.roleRetired (s : State) : Bool :=
  !s.tiles.any fun e => e.1 < 4096 && s.changed (tileZ e.1) && !e.2.fwd.isEmpty

/-- Step 4: the hold is taken. -/
def execRoleReenumerate (σ : State) : Host.Outcome State Fault Refusal :=
  if !σ.floor.roleBusy || σ.floor.roleStep ≠ 3 then .next σ
  else ends ((σ.setStep 4).takeHold σ.floor.seqPart .roleChange)

/-- Step 5: dispatch resumes, and the sequence has ended. -/
def execRoleReadmit (σ : State) : Host.Outcome State Fault Refusal :=
  if !σ.floor.roleBusy || σ.floor.roleStep ≠ 4 then .next σ
  else
    let n := σ.floor.seqPart
    let σ := σ.setStep 5
    let σ := (σ.modFloor fun f => { f with roleCode := 0, roleBusy := false }).setStep 0
    ends (((σ.notify n 5 0 (roleStat σ.floor)).kick n).holdRetired n)

/-! ### Retirements (R35 to R37, R275, R276) -/

def addNew (l : List Nat) (xs : List Nat) : List Nat := l ++ xs.filter fun x => !l.contains x

def State.retireCores (s : State) (ts : List Nat) : State :=
  let s := s.modFloor fun f => { f with coreRet := addNew f.coreRet ts }
  let here (h : Home) : Bool := match h with
    | .bank t => ts.contains t
    | _ => false
  ((s.windows.filter fun w => w.homes.any here).foldl State.breakWindow s).dropMonitors here

/-- The boxes of the routers of a tile's partition. -/
def State.boxesAt (s : State) (t : Nat) : List (Nat × Nat) :=
  s.floor.boxes.filter fun b => s.partOfTile b.1 == s.partOfTile t

/-- Whether a tile is the agent site of its cluster (R58). -/
def agentSite (t : Nat) : Bool := tileX t % 4 = 0 && tileY t % 4 = 0

/-- A router's tile leaves the torus: it is boxed, and where that would be a ninth box, or at the agent site, its whole
cluster is (R36, R59). The cluster's box takes the place of the boxes inside it. Where the table is full and holds none
inside it, the manual does not say which box makes room for the cluster's: the model holds nine (assumption 75). -/
def State.retireRouter (s : State) (t : Nat) : State :=
  if (s.boxesAt t).length < 8 && !agentSite t then
    (s.modFloor fun f => { f with routRet := addNew f.routRet [t], boxes := f.boxes ++ [(t, t)] }).retireCores [t]
  else
    let c := clusterTiles (clusterOf t)
    (s.modFloor fun f =>
      { f with
        routRet := addNew f.routRet c
        agentRet := addNew f.agentRet [clusterOf t]
        boxes := (f.boxes.filter fun b => !(c.contains b.1 && c.contains b.2)) ++ [(c.headD t, c.getLastD t)] }).retireCores c

/-- A Kettle unit goes: windows homed on it break, its commands end with every MAP bit set, its monitors are
dropped, and another unit serves its addresses (R276). -/
def State.retireKettle (s : State) (u : Nat) : State :=
  let s := s.dropMonitors (· == .kettle u)
  let s := (s.windows.filter fun w => w.homes.contains (.kettle u)).foldl State.breakWindow s
  let s := ((s.kettle u).queue.filter fun c => !c.killed).foldl (fun s c =>
    s.write64 c.tag (c.block + 16) (BitVec.ofNat 64 (kStatus { c with lost := true, map := BitVec.allOnes 16 }))) s
  s.modKettle u fun k => { k with dead := true, queue := [] }

def State.retireUnit (s : State) (u : Unit_) : State :=
  match u with
  | .bank t | .core t | .vectorUnit t | .matrixUnit t => s.retireCores [t]
  | .router t => s.retireRouter t
  | .agent c => (s.modFloor fun f => { f with agentRet := addNew f.agentRet [c] }).retireCores (clusterTiles c)
  | .kettle k => s.retireKettle k
  | .link _ => s
  | .die z => s.retireCores ((List.range 256).map (256 * z + ·))

/-- The logical map: the compute layers with a live tile, in ascending order (R22, R23). -/
def State.remap (s : State) (n : Nat) : State :=
  let live (z : Nat) : Bool := s.computes z && (List.range 256).any fun i => !s.retiredTile (256 * z + i)
  s.modPart n fun p => { p with zmap := (s.layers n).filter live }

/-- The stand-in of a tile: the next live tile of its layer (R23). -/
def State.standIn (s : State) (n t : Nat) : Option Nat :=
  ((List.range 256).map fun i => (t + i) % 256 + t / 256 * 256).find? fun u => s.computeTile n u

/-- Work queued for a tile that has become absent moves to its stand-in (R37); where its layer is gone, nodes are
queued anew, and what is bound to a position goes to its column on the lowest layer. -/
def State.moveWork (s : State) (n t : Nat) : State :=
  ((s.tile t).workQ).foldl (fun s w =>
    let s := s.takeBack n t w
    let w' : WorkEntry := { w with
      fetched := false
      task := { w.task with tag := mkTag (tagOwner w.task.tag) n 0, pins := [], phase := .fetching } }
    match s.standIn n t with
    | some u => s.pushWork u w'
    | none =>
      if w.spawned || w.task.copy ≠ 0 then
        match s.atLogical n (tileX t) (tileY t) 0 with
        | some u => s.pushWork u w'
        | none => s
      else s.enqueueNode n w.task.node) s
def State.moveAbsent (s : State) (n : Nat) : State :=
  ((s.tiles.filter fun e => s.partOfTile e.1 == some n && !e.2.workQ.isEmpty && !s.computeTile n e.1).map (·.1)).foldl
    (fun s t => s.moveWork n t) s

/-- Packets bound for a tile whose router is gone go to its stand-in. -/
def State.redirectPackets (s : State) : State :=
  let goal (t : Nat) : Nat := match s.partOfTile t with
    | some n => (s.standIn n t).getD t
    | none => t
  let ev (d : Nat) (e : Instr) : Instr := match e with
    | .messageArrival m => .messageArrival { m with dst := d }
    | .spawnArrival m => .spawnArrival { m with dst := d }
    | e => e
  let go (p : Packet) : Packet :=
    if s.floor.routRet.contains p.dst then { p with dst := goal p.dst, ev := ev (goal p.dst) p.ev } else p
  { s with packets := s.packets.map go }

/-! ### Partition holds (R31, R37) -/

/-- Whether the running role change waits for the hold of a partition. -/
def State.roleHolds (s : State) (n : Nat) : Bool := s.floor.roleBusy && s.floor.roleStep == 4 && s.floor.seqPart == n

/-- The roles, NCOMP and the clock ceiling of a role change. The TLBs of the agents of a die that becomes a bank, and of its
dark cores, are empty (R58). -/
def State.applyRoles (s : State) : State :=
  let n := s.floor.seqPart
  let role := s.floor.seqRole
  let dark (z : Nat) : Bool := s.changed z && !role.getLsbD z
  let s := { s with l2 := s.l2.filter fun e => !dark (e.1 / 16) }
  let s := s.mapTiles fun t x => if t < 4096 && dark (tileZ t) then { x with itlb := [], dtlb := [], roc := [] } else x
  let ncomp := ((s.layers n).filter fun z => role.getLsbD z).length
  s.modFloor fun f =>
    { f with
      role := role
      pdescs := f.pdescs.set (n % 8) (setBits (s.pdesc n) 10 7 ncomp) (Nat.mod_lt _ (by decide))
      mhz := (ceilingFor (compDies role).length).1 }

/-- The changes of a hold: a role change, the retirements decided, the logical map. -/
def State.applyHold (s : State) (n : Nat) : State :=
  let s := if s.roleHolds n then s.applyRoles else s
  let us := s.floor.retireQ.filter fun u => (s.retireParts u).contains n
  let s := us.foldl State.retireUnit (s.modFloor fun f => { f with retireQ := f.retireQ.filter fun u => !us.contains u })
  ((s.remap n).moveAbsent n).redirectPackets

/-- A tile has stopped and arrives on the hold wire; 40 tc after the last one the hold begins. -/
def execHoldWireArrival (tile : Nat) (σ : State) : Host.Outcome State Fault Refusal :=
  let n := (σ.partOfTile tile).getD 0
  match (σ.part n).hold with
  | none => .next σ
  | some h =>
    let σ := σ.modTile tile fun t => { t with holdArr := true }
    .next (if !h.begun && (σ.liveTiles n).all (fun t => (σ.tile t).holdArr) &&
        !σ.agenda.any (fun q => q.ev == .holdBegin n) then σ.postIn 40 (.holdBegin n)
      else σ)

/-- The hold begins, and the floor die makes its changes. -/
def execHoldBegin (part : Nat) (σ : State) : Host.Outcome State Fault Refusal :=
  let why : HoldFor := if σ.roleHolds part then .roleChange else .retire
  let h : Hold := match (σ.part part).hold with
    | some h => { h with begun := true, why := why }
    | none => { why := why, begun := true, since := σ.now, lags := σ.lags, wakes := [] }
  let σ := σ.modPart part fun p => { p with hold := some h }
  ends ((σ.applyHold part).postIn 4096 (.holdRelease part))

/-- Whether a wait of a tile's thread counts: not while its task streams or lies in a spill slot (R92, R94). -/
def State.countsHere (s : State) (tile : Nat) : Bool :=
  tile < 4096 && (match (s.tile tile).task with
    | some k => k.phase != .streaming
    | none => true)

/-- Counts that stood still from the hold's notice to its release go on: waits, grace timers and the lives of
forwarding entries. Of these deterministic mode counts only the last in tc (R112). -/
def State.extendCounts (s : State) (n : Nat) (h : Hold) : State :=
  let d (t : Nat) : Nat := s.sinceNotice t h
  let s := s.mapTiles fun t x =>
    let d := d t
    let w := if (s.part n).mode = 1 || !s.countsHere t then 0 else d
    if s.partOfTile t = some n then
      { x with
        holdArr := false
        slots := x.slots.map fun (e : Nat × Thread) => (e.1, { e.2 with expiry := e.2.expiry.map (· + w) })
        twins := x.twins.map fun (e : Nat × Twin) => (e.1, { e.2 with limit := e.2.limit.map (· + d) })
        fwd := x.fwd.map fun f => if f.acked then { f with expiry := f.expiry + d, limit := f.limit + d } else f }
    else x
  if (s.part n).mode = 1 then s
  else
    let s := s.modPart n fun p => { p with graceAt := p.graceAt.map fun g => { g with at_ := g.at_ + d (s.leadTile n g.lead) } }
    (s.part n).graceAt.foldl (fun s g => s.postAt g.at_ (.graceExpiry n g.lead)) s

/-- The release: issue resumes, kept wakes are applied, and barriers count the tiles that are left. A role change whose
step 4 met a hold already begun takes its own hold next. -/
def execHoldRelease (part : Nat) (σ : State) : Host.Outcome State Fault Refusal :=
  match (σ.part part).hold with
  | none => .next σ
  | some h =>
    let σ := σ.modPart part fun p => { p with hold := none }
    let σ := σ.extendCounts part h
    let σ := h.wakes.foldl State.wake σ
    let σ := (σ.liveTiles part).foldl (fun s t =>
      [BarKind.x, .y, .z, .plane, .part].foldl (fun s k => (s.barCheck t k true).barCheck t k false) s) σ
    let σ := (σ.kick part).graceCheck part
    ends (if h.why = .roleChange then (σ.post .roleReadmit).holdRetired part
      else if σ.roleHolds part then σ.takeHold part .roleChange else σ.holdRetired part)

end Sys2Proof.Machine
end

