-- ==== Sys2Proof/Machine/Platform.lean ====
section
/-! DEFINITION. The platform: sensors and clocks, links that retrain, images and boot, identity and attestation (R34,
R323 to R333). -/

namespace Sys2Proof.Machine

/-! ### Power and temperature (R323 to R327) -/

/-- The latest reading of a die's sensors and of its pair's gap, and the clock that the loop has chosen for it. -/
def State.sensor (s : State) (z : Nat) : SensorReading := SMap.get SensorReading.zero s.floor.sensors z

/-- The clock of a die: at or below the ceiling, halved from 105 °C until below 95 °C (R324). -/
def State.clockOf (s : State) (z : Nat) : Nat :=
  let c := Nat.min s.floor.mhz (s.sensor z).mhz
  if s.floor.half.contains z then c / 2 else c

/-- The hottest sensor of a die. -/
def hottest (r : SensorReading) : Nat := r.temps.toList.foldl Nat.max 0

/-- Whether a reading breaks its gap's flow or inlet limit. -/
def gapBad (r : GapReading) : Bool := r.flowMl < 6000 || r.inlet > 30

/-- The watts of a list of dies, as last read. -/
def Floor.watts (f : Floor) (zs : List Nat) : Nat :=
  (zs.map fun z => (SMap.get SensorReading.zero f.sensors z).watts).sum

/-- Whether the loop works to lower a die's clock: the die at 95 °C or more, its pair below a gap that breaks a limit, the
compute dies together above 3.6 kW where it is one, or its pair above its gap's 900 W (R324). -/
def Floor.lowers (f : Floor) (z : Nat) : Bool :=
  95 ≤ hottest (SMap.get SensorReading.zero f.sensors z) || gapBad (SMap.get GapReading.zero f.gaps (z / 2)) ||
  (f.role.getLsbD z && 3600 < f.watts ((List.range 16).filter fun y => f.role.getLsbD y)) ||
  900 < f.watts [2 * (z / 2), 2 * (z / 2) + 1]

/-- One reading of a die taken by the floor die. -/
def Floor.sense (f : Floor) (r : SensorReading) : Floor :=
  let half := if hottest r ≥ 105 then addNew f.half [r.die]
    else if hottest r < 95 then f.half.filter (· ≠ r.die) else f.half
  { f with sensors := SMap.set SensorReading.zero f.sensors r.die r, half := half }

/-- The loop of a die that had clock `was` before the readings: the clock it settles on stands, below the old one while it
works to lower it (assumption 145 for how far). -/
def Floor.loop (f : Floor) (was : Floor) (z : Nat) : Floor :=
  let old := (SMap.get SensorReading.zero was.sensors z).mhz
  let r := SMap.get SensorReading.zero f.sensors z
  if f.lowers z then { f with sensors := SMap.set SensorReading.zero f.sensors z { r with mhz := Nat.min r.mhz (Nat.min f.mhz old - 1) } } else f

/-- The floor die reads every sensor, every 2^16 cycles, and the loops act on what it read (R323, R324). -/
def execSensorSample (σ : State) : Host.Outcome State Fault Refusal :=
  let was := σ.floor
  let σ := σ.modFloor fun f => f.sensorIn.foldl Floor.sense f
  let σ := σ.modFloor fun f =>
    { f with gaps := f.gapIn.foldl (fun m g => SMap.set GapReading.zero m g.gap g) f.gaps }
  let σ := σ.modFloor fun f => (List.range 16).foldl (fun f z => f.loop was z) { f with cool := f.gaps.any fun e => gapBad e.2 }
  .next (σ.postIn (2 ^ 16) .sensorSample)

/-- A stretched cycle counts as one tc: no count, timeout or state changes (R325). -/
def execDroopStretch (σ : State) : Host.Outcome State Fault Refusal := .next σ

/-- PWRSTAT of a die (R327). -/
def State.pwrstat (s : State) (z : Nat) : Word :=
  let t := hottest (s.sensor z)
  BitVec.ofNat 64 (s.clockOf z % 2 ^ 12 + t % 2 ^ 8 * 2 ^ 12 + (if t ≥ 95 then 2 ^ 20 else 0) +
    (if s.floor.half.contains z then 2 ^ 21 else 0) + (if s.floor.cool then 2 ^ 22 else 0))

/-! ### Links (R326) -/

/-- A link retrains: traffic waits, and no flit is lost. Whether it succeeds is open. -/
def execLinkRetrain (link : Nat) (σ : State) : Host.Outcome State Fault Refusal :=
  if σ.floor.retrain.contains link then .next σ
  else
    let (v, σ) := σ.free
    let tc := if link < opticalLink then 4096 else 2 ^ 20
    .next ((σ.modFloor fun f => { f with retrain := f.retrain ++ [link] }).postIn tc
      (.linkRetrainDone link (bitAt v 0)))

/-- The retraining ends; one that fails is an event of its router. -/
def execLinkRetrainDone (link : Nat) (ok : Bool) (σ : State) : Host.Outcome State Fault Refusal :=
  let σ := σ.modFloor fun f => { f with retrain := f.retrain.filter (· ≠ link) }
  if ok then .next σ
  else
    let t := linkTile link
    let k : Strike := { Strike.plain t with struct_ := 9 }
    ends (σ.quietError (.router t) ((σ.partOfTile t).getD 0) [] k)

/-! ### Images (R329) -/

/-- Whether the header of an image is well formed and says what the image is. Bits 31:16 of its first dword, which the
table does not list, are to be zero (assumption 140). -/
def headerOk (i : Image) : Bool :=
  let f (o n : Nat) : Nat := natOfBytes ((i.bytes.drop o).take n)
  i.bytes.length ≥ 64 && f 0 2 == i.kind && f 2 2 == 0 && f 4 4 == i.bytes.length - 64 && f 8 8 == i.seq &&
  f 16 32 == i.signer.toNat && f 48 16 == 0

/-- A valid partition of a configuration body. -/
def partOk (p : Nat × Nat) : Bool := p.1 ≤ p.2 && p.2 ≤ 7
def partLayersOf (p : Nat × Nat) : List Nat :=
  if partOk p then (List.range 16).filter fun z => p.1 ≤ z / 2 && z / 2 ≤ p.2 else []

/-- The rules of R16 and R19 on a configuration body. -/
def cfgOk (c : CfgBody) : Bool :=
  let ls := c.parts.map partLayersOf
  let all := ls.flatten
  c.parts.length ≤ 8 && all.eraseDups.length == all.length &&
  (compDies c.roles).all all.contains && rolesOk (ls.filter fun l => !l.isEmpty) c.roles

/-- Whether a firmware image verifies (R330 step 2). -/
def State.fwOk (s : State) (i : Image) : Bool :=
  i.kind == 1 && headerOk i && i.seq ≥ s.floor.fwSeq &&
  sm2VerifyBy Config.rootKeyDigest i.bytes i.sig

/-- Whether a configuration image verifies (R330 step 3): under the steward key, or under its own signer where none
is enrolled. -/
def State.cfOk (s : State) (i : Image) : Bool :=
  i.kind == 2 && headerOk i && i.seq ≥ s.floor.cfSeq && cfgOk i.cfg &&
  (match s.floor.steward with
    | some k => i.signer == k
    | none => true) &&
  sm2VerifyBy i.signer i.bytes i.sig

/-- The slot that boots, of two: the valid one with the higher SEQ. -/
def pickSlot (a b : Image) (oka okb : Bool) : Option Bool :=
  match oka, okb with
  | true, true => some (b.seq > a.seq)
  | true, false => some false
  | false, true => some true
  | false, false => none

/-- A write of an image to a slot: refused where the image now running lies there or the image does not
verify (R331). -/
def execImageSlotWrite (slot : Nat) (img : Image) (σ : State) : Host.Outcome State Fault Refusal :=
  let f := σ.floor
  let i := slot % 4
  let running : Bool := (f.fwUp && i == (if f.fws then 1 else 0)) || (!f.recovery && i == (if f.cfs then 3 else 2))
  let good := if i < 2 then σ.fwOk img else σ.cfOk img
  if running || !good then .next σ
  else .next (σ.modFloor fun f => { f with flash := f.flash.set i img (Nat.mod_lt _ (by decide)) })

/-! ### Boot (R330, R331) -/

/-- The power-on state: nothing survives but the flash and its replay-protected store, and the model's counters. -/
def State.powerOn (s : State) : State :=
  { State.reset with
    choices := s.choices
    frees := s.frees
    nextId := s.nextId
    agenda := [{ id := s.nextId, due := 2 ^ 16, ev := .sensorSample }]
    parts := Vector.replicate 8 Partition.zero
    floor := { Floor.reset with
      role := 0
      fwUp := false
      pdescs := Vector.replicate 8 0
      flash := s.floor.flash
      fwSeq := s.floor.fwSeq
      cfSeq := s.floor.cfSeq
      steward := s.floor.steward
      recovery := true } }

/-- Partition descriptor n of a configuration body (R26). -/
def cfgDesc (c : CfgBody) (n : Nat) : Word :=
  match c.parts[n]? with
  | none => 0
  | some p =>
    if partOk p then
      let comp := ((partLayersOf p).filter fun z => c.roles.getLsbD z).length
      BitVec.ofNat 64 (1 + p.1 * 2 + p.2 * 2 ^ 4 + comp * 2 ^ 7)
    else 0

/-- The roles, partitions, retirements, queues and routes of a configuration body take effect. -/
def State.configure (s : State) (c : CfgBody) : State :=
  let s := s.modFloor fun f =>
    { f with
      role := c.roles
      pdescs := Vector.ofFn fun (i : Fin 8) => cfgDesc c i
      mhz := (ceilingFor (compDies c.roles).length).1
      routes := c.routes
      device := c.device
      recovery := false
      coreRet := c.retired
      lift := Vector.ofFn fun (i : Fin 9) =>
        { LiftQueue.zero with owner := c.liftOwn.getD i 0, proxy := c.liftCtx.getD i 0 } }
  -- every link is trained: a lasting link fault retires its tile (R330 step 5)
  let faulty := (List.range 4096).filter (Config.linkFault s.frees)
  let s := (c.boxed ++ faulty).foldl State.retireRouter { s with frees := s.frees + 1 }
  (List.range 8).foldl State.remap s

/-- Power comes on: the images are verified, and the device starts, or enters recovery. -/
def State.boot (s : State) : State :=
  let f := s.floor
  let up := { s.powerOn with nextId := s.nextId + 1 }
  match pickSlot f.flash[0] f.flash[1] (s.fwOk f.flash[0]) (s.fwOk f.flash[1]),
      pickSlot f.flash[2] f.flash[3] (s.cfOk f.flash[2]) (s.cfOk f.flash[3]) with
  | some a, some b =>
    let fw := if a then f.flash[1] else f.flash[0]
    let cf := if b then f.flash[3] else f.flash[2]
    (up.modFloor fun g =>
      { g with
        fwUp := true
        fws := a
        cfs := b
        fwRun := fw
        cfRun := cf
        fwSeq := fw.seq
        cfSeq := cf.seq
        steward := some (f.steward.getD cf.signer)
        enrolled := f.steward.isNone }).configure cf.cfg
  -- in recovery the firmware that step 2 chose runs (R331)
  | some a, none => up.modFloor fun g => { g with fwUp := true, fws := a, fwRun := if a then f.flash[1] else f.flash[0] }
  | none, _ => up

def execPowerOnBoot (σ : State) : Host.Outcome State Fault Refusal := .next σ.boot

/-- BOOTSTAT (R331). -/
def State.bootstat (s : State) : Word :=
  BitVec.ofNat 64 ((if s.floor.fws then 1 else 0) + (if s.floor.cfs then 2 else 0) + (if s.floor.enrolled then 4 else 0))

/-! ### Identity and attestation (R332, R333) -/

/-- A dword of a digest. -/
def digestDword (d : BitVec 256) (i : Nat) : Word := BitVec.ofNat 64 (bits d (64 * i + 63) (64 * i))

/-- Dword n of the identity block. -/
def State.identity (s : State) (n : Nat) : Word :=
  let f := s.floor
  if n = 0 then 1
  else if n = 1 then Config.identity n
  else if n ≤ 9 then BitVec.ofNat 64 (natOfBytes ((pointBytes devicePublic).drop (8 * (n - 2)) |>.take 8))
  else if n ≤ 13 then digestDword (sm3 f.fwRun.bytes) (n - 10)
  else if n ≤ 17 then digestDword (sm3 f.cfRun.bytes) (n - 14)
  else if n ≤ 21 then digestDword (f.steward.getD 0) (n - 18)
  else if n = 22 then BitVec.ofNat 64 f.fwRun.seq
  else if n = 23 then BitVec.ofNat 64 f.cfRun.seq
  else if n ≤ 31 then Config.identity n
  else 0

/-- A GO of ATTCMD in a partition, by a requester of an owner. -/
def State.attGo (s : State) (n owner : Nat) : State :=
  let p := s.part n
  if p.attBusy then s.modPart n fun p => { p with attCode := 1 }
  else if bits p.attcmd 50 6 * 64 + 320 > hbmSize then s.modPart n fun p => { p with attCode := 2 }
  else (s.modPart n fun p => { p with attBusy := true, attCode := 0, attOwner := owner, attAt := bits p.attcmd 50 6 * 64 }).post .attestComplete

/-- The report of a partition, signed, is written; then BUSY clears. CODE keeps the 1 of a GO refused meanwhile
(assumption 141). -/
def State.attest (s : State) (n : Nat) : State :=
  let p := s.part n
  let at_ := p.attAt
  let s := s.modFloor fun f => { f with attCount := f.attCount + 1 }
  let w (s : State) (o : Nat) (v : Word) : State := s.write64 0 (at_ + o) v
  let s := (List.range 24).foldl (fun s i => w s (8 * i) (s.identity i)) s
  let s := w (w (w (w s 0xE0 (s.pdesc n)) 0xE8 (BitVec.ofNat 64 s.floor.role.toNat)) 0xF0
    (BitVec.ofNat 64 (p.attOwner % 256 + n % 8 * 256))) 0xF8 (BitVec.ofNat 64 s.floor.attCount)
  let sig := sm2Sign s.floor.attCount (sm3 (s.readBytes (cellsFrom at_ 256)))
  let s := s.writeN 0 (at_ + 0x100) 64 (natOfBytes sig)
  s.modPart n fun p => { p with attBusy := false }

def execAttestGo (σ : State) : Host.Outcome State Fault Refusal := .next (σ.attGo σ.myPart (tagOwner σ.myTag))
def execAttestComplete (σ : State) : Host.Outcome State Fault Refusal :=
  match (List.range 8).find? fun n => (σ.part n).attBusy with
  | none => .next σ
  | some n => ends (σ.attest n)

end Sys2Proof.Machine
end

