-- ==== Sys2Proof/Machine/RLog.lean ====
section
/-! DEFINITION. The record log: its records and their writing, its room, and the matching of outcomes against it in
replay (R114 to R118). -/

namespace Sys2Proof.Machine

/-! ### What an event writes (R115) -/

/-- The code of a park cause: its place in the table of R90. -/
def parkCode : Park → Nat
  | .fullEmpty _ => 0
  | .channel _ _ _ => 1
  | .monitor => 2
  | .barrierObject _ => 3
  | .pageFault => 4
  -- TKDRAIN and TKCLOSE park with the refused-ticket cause (R185)
  | .ticket _ | .drain _ => 5
  | .helperJoin _ => 6
  | .capability => 7
  | .work => 8
  | .wire _ _ => 9
  | .racing => 10

def dispatchValue (k : Task) : Word :=
  if k.node ≠ 0 then BitVec.ofNat 64 k.node
  else BitVec.ofNat 64 (k.callTile.toNat % 2 ^ 32 + k.rtag % 2 ^ 16 * 2 ^ 32 + 2 ^ 63)
def spawnValue (m : SpawnMsg) : Word := BitVec.ofNat 64 (m.srcId.toNat % 2 ^ 32 + m.seq % 2 ^ 32 * 2 ^ 32)
def messageValue (m : Message) : Word :=
  BitVec.ofNat 64 (m.srcId.toNat % 2 ^ 32 + m.tag % 2 ^ 16 * 2 ^ 32 + m.seq % 2 ^ 16 * 2 ^ 48)

/-- Whether a returning atomic acts on a region in atomic mode. -/
def State.atomicRaces (s : State) (r : GuestOp) : Bool :=
  r.ret && !isRemoteCell r.cell && capMode (s.cap (cellGranule r.cell)) == 1

/-- Whether a full/empty operation goes to a word homed at another tile. -/
def feFar (r : FeReq) : Bool := cellBank r.cell ≠ r.tid.tile

def State.isTask (s : State) (t : ThreadId) : Bool := t.tile < 2 ^ 20 && (s.thread t).priv == .task

/-- The kind, the thread and, where it is known before, the value of the outcome that an event brings (R115). -/
def State.outcomeOf (s : State) (e : Instr) : Option (Nat × ThreadId × Option Word) :=
  match e with
  | .taskStart t =>
    let n := (s.partOfTile t).getD 0
    if (s.tile t).task.isSome || s.drains t then none
    else ((s.callReserved n t).nextStart n t).map fun w => (2, { tile := t, slot := 0 }, some (dispatchValue w.task))
  | .stealAnswer t _ => if s.idle ((s.partOfTile t).getD 0) t then some (3, { tile := t, slot := 0 }, none) else none
  | .spawnArrival m => some (4, { tile := m.dst, slot := 0 }, some (spawnValue m))
  | .messageArrival m =>
    match s.bound m with
    | .here => some (5, { tile := m.dst, slot := 0 }, some (messageValue m))
    | _ => none
  | .atomicAtHome r => if s.atomicRaces r && s.isTask r.tid then some (6, r.tid, none) else none
  | .feAtHome r => if feFar r && s.isTask r.tid then some (7, r.tid, none) else none
  | .wakeArrival t =>
    match (s.thread t).st with
    | .parked _ => if s.isTask t then some (8, t, none) else none
    | _ => none
  | .waitTimeout t =>
    match (s.thread t).st with
    | .parked _ => if s.isTask t then some (9, t, none) else none
    | _ => none
  | _ => none

/-- Tasks that an event has sent away: their tiles with their targets. -/
def State.movesTo (s s' : State) (n : Nat) : List (Nat × Nat) :=
  (s'.tiles.filter fun e => e.1 < 4096 && s'.partOfTile e.1 == some n).filterMap fun e =>
    match e.2.task with
    | some k =>
      match k.dest, (s.tile e.1).task.bind (·.dest) with
      | some d, none => some (e.1, d)
      | _, _ => none
    | none => none

/-- VALUE of a move: the target's tile ID, or the spill slot, beside which bits 31:0 are 0 (R115; assumption 134). -/
def moveValue (s : State) (d : Nat) : Word :=
  if d < 4096 then BitVec.ofNat 64 ((s.tileId d).toNat % 2 ^ 32) else BitVec.ofNat 64 (d / 4096 % 2 ^ 8 * 2 ^ 32)

/-- The registers whose values vary with time: CYCLE, SLOTST, RETIRED. -/
def timeRegs : List Nat := [0x004, 0x003, 0x005]

/-- The records of an event of a partition that took the state from `s` to `s'`. A record that concerns no thread has
SLOT and CNT 0, and a role change's LID 0 (assumption 132). -/
def State.logOf (s s' : State) (n : Nat) (e : Instr) : List LogRec :=
  let here (t : Nat) : Bool := s.partOfTile t == some n
  let answer : Option Answer := match s'.agenda.getLast? with
    | some q => match q.ev with
      | .atomicAnswer _ _ _ a => some a
      | _ => none
    | none => none
  let both : List LogRec :=
    (match e with
      | .roleReadmit => if s.floor.seqPart = n && s.floor.roleStep = 4 then
          [{ kind := 0x0C, lid := 0, slot := 0, cnt := 0, value := BitVec.ofNat 64 s'.floor.role.toNat }] else []
      | .holdBegin _ =>
        ((s'.floor.coreRet.filter fun t => !s.floor.coreRet.contains t && here t).map fun t =>
          { kind := 0x0D, lid := s.logicalId n t, slot := 0, cnt := 0, value := BitVec.ofNat 64 (s.physId t) })
      | _ => [])
  let moves := match e with
    | .graceExpiry _ _ | .yield => (s.movesTo s' n).map fun m => s.logAt n { tile := m.1, slot := 0 } 0x0B (moveValue s m.2)
    | _ => []
  let ordinary : List LogRec :=
    match s.outcomeOf e with
    | none => moves
    | some (k, t, v) =>
      if !here t.tile then moves
      else
        let mk (v : Word) : List LogRec := [s.logAt n t k v]
        match e with
        | .taskStart x => if (s'.tile x).task.isSome then mk (v.getD 0) else []
        | .stealAnswer x victim =>
          if !s.idle n x then []
          else
            let node := match (s'.tile x).workQ.getLast? with
              | some w => w.task.node / 4096 * 4096
              | none => 0
            mk (BitVec.ofNat 64 (s.logicalId n victim % 2 ^ 12 + node))
        | .spawnArrival m => if (s'.tile m.dst).workQ.length > (s.tile m.dst).workQ.length then mk (v.getD 0) else []
        | .messageArrival m => if (s'.tile m.dst).store.length > (s.tile m.dst).store.length then mk (v.getD 0) else []
        | .atomicAtHome _ =>
          match answer with
          | some (.value x) => mk x
          | some (.pair lo hi) => mk lo ++ mk hi
          | _ => []
        | .feAtHome r =>
          match (s'.thread r.tid).st with
          | .parked _ => mk 1
          | _ => mk 0
        | .wakeArrival u =>
          match (s.thread u).st with
          | .parked p => mk (BitVec.ofNat 64 (parkCode p + (s.tileId (s.wakeSource u)).toNat % 2 ^ 32 * 2 ^ 8))
          | _ => []
        | .waitTimeout u => if (s'.thread u).expired then mk 0 else []
        | _ => []
  both ++ (if (s.part n).mode = 0 then ordinary else [])

/-! ### Replay (R117) -/

/-- A mismatch: RLOGDIV is filled by the first of a quantum (R117, R118). -/
def State.mismatch (s : State) (n i kind lid : Nat) : State :=
  let p := s.part n
  if p.rlogDiv then s
  else
    let w := (p.rlogHead + i) % 2 ^ 32 + kind % 256 * 2 ^ 32 + lid % 2 ^ 12 * 2 ^ 40
    s.modPart n fun p => { p with rlogDiv := true, rlogDivR := BitVec.ofNat 64 w }

/-- An outcome of replay takes its record. -/
def State.matchRec (s : State) (n : Nat) (r : LogRec) : State :=
  match (s.owed n).find? fun x => x.2.lid = r.lid && x.2.kind = r.kind && x.2.slot = r.slot with
  | none => s.mismatch n ((s.owed n).headD (0, r)).1 r.kind r.lid
  | some (i, x) =>
    let s := s.modPart n fun p => { p with rlogTaken := p.rlogTaken ++ [i] }
    if x.value = r.value then s else s.mismatch n i r.kind r.lid

/-- Whether a thread is parked. -/
def State.isParked (s : State) (t : ThreadId) : Bool :=
  match (s.thread t).st with
  | .parked _ => true
  | _ => false

/-- Whether what a record says can be imposed on an event now: a message finds the receivers parked that it is to
wake, a full/empty operation that completes its word as it needs it, a steal the entry that it is to get. -/
def State.imposable (s : State) (n : Nat) (e : Instr) (x : LogRec) (rest : List LogRec) : Bool :=
  match e with
  | .messageArrival m =>
    (rest.takeWhile fun y => y.kind = 8).all fun y => s.isParked { tile := m.dst, slot := y.slot }
  | .feAtHome r =>
    x.value ≠ 0 || (match r.op with
      | .take | .readf => s.feGo r.tid r.cell true
      | .fill => s.feGo r.tid r.cell false
      | _ => true)
  | .stealAnswer t v =>
    bits x.value 11 0 = s.logicalId n v && (bits x.value 50 12 = 0 ||
      (bestEntry (stealable t v) (s.tile v).workQ).any fun w => w.task.node / 4096 = bits x.value 50 12)
  | _ => true

/-- Whether an outcome of replay may take effect now: the next record of its tile is its own, its thread has come so
far, and what it says can be imposed. What has its record later waits for it; of what has none, a steal is not made, and
anything else happens and is a mismatch. A wake that a boundary applies waits for nothing. -/
def State.replayLets (s : State) (n : Nat) (e : Instr) : Bool :=
  match s.outcomeOf e with
  | none => true
  | some (k, t, v) =>
    let mine := s.owedAt n t.tile
    let isIt (r : LogRec) : Bool := r.kind == k && r.slot == t.slot && (v.isNone || v == some r.value)
    let lid := s.logicalId n t.tile
    let later : Bool := mine.any isIt || (k = 9 && mine.any fun r => r.kind = 8 && r.slot = t.slot) ||
      (k ≠ 6 && k ≠ 7 && s.logAhead n (fun r => r.lid = lid && isIt r) (rlogSize (s.part n)) 0)
    if k = 8 && (s.part n).boundary.isSome then true
    else
      match mine with
      | x :: rest =>
        if isIt x && x.cnt ≤ (s.thread t).count then s.imposable n e x rest else k ≠ 3 && !later
      | [] => k ≠ 3 && !later

/-- The record that is due at a thread: the next of its slot, whose count has come. -/
def State.replayDue (s : State) (n : Nat) (t : ThreadId) : Option LogRec :=
  ((s.owedAt n t.tile).find? fun x => x.slot = t.slot).filter fun x => x.cnt ≤ (s.thread t).count

/-- Whether a thread's next instruction is a YIELD. -/
def State.atYield (s : State) (t : ThreadId) : Bool := s.fetch t == .insn .yield

/-- Whether replay holds a thread: what is due at it comes from elsewhere, which its own next instruction would not
bring (R117). -/
def State.replayHolds (s : State) (n : Nat) (t : ThreadId) : Bool :=
  match s.replayDue n t with
  | some x => x.kind ≤ 5 || (x.kind = 0x0B && !s.atYield t)
  | none => false

/-! ### Recording -/

/-- The partitions whose log records or replays. -/
def State.logging (s : State) : List Nat := (List.range 8).filter fun n => (s.part n).rlogState ≠ 0 && (s.part n).quanta

/-- The records of what has happened are written, or matched in replay (R114, R117). -/
def State.logged (s s' : State) (e : Instr) : State :=
  s.logging.foldl (fun x n =>
    let rs := s.logOf s' n e
    if (s.part n).rlogState = 1 then rs.foldl (fun x r => x.putLog n r) x
    else if (s.part n).halted then x
    else rs.foldl (fun x r => x.matchRec n r) x) s'

/-- The same for the outcome of a step. -/
def logOutcome (s : State) (e : Instr) (o : Host.Outcome State Fault Refusal) : Host.Outcome State Fault Refusal :=
  if s.logging.isEmpty then o
  else
    match o with
    | .next s' => ends (s.logged s' e)
    | o => o

/-- The partition in which an event's outcome is recorded or matched, and the records that it may take (R115). -/
def State.logNeeds (s : State) (e : Instr) : Option (Nat × Nat) :=
  let on (n : Nat) (both : Bool) : Bool :=
    (s.part n).quanta && (s.part n).rlogState ≠ 0 && (both || (s.part n).mode = 0)
  match e with
  | .roleReadmit => if s.floor.roleStep = 4 && on s.floor.seqPart true then some (s.floor.seqPart, 1) else none
  | .holdBegin n =>
    let us := s.floor.retireQ.filter fun u => (s.retireParts u).contains n
    if us.isEmpty || !on n true then none
    else some (n, ((us.foldl State.retireUnit s).floor.coreRet.filter fun t =>
      !s.floor.coreRet.contains t && s.partOfTile t == some n).length)
  | .graceExpiry n _ => if on n false then some (n, 1) else none
  | _ =>
    (s.outcomeOf e).bind fun o => (s.partOfTile o.2.1.tile).bind fun n =>
      if on n false then
        some (n, match e with
          | .atomicAtHome r => if r.fn = .cas128 then 2 else 1
          | _ => 1)
      else none

/-- Whether the log lets an event happen: a place for its records in recording (R116), its turn in replay. -/
def State.logLets (s : State) (e : Instr) : Bool :=
  match s.logNeeds e with
  | none => true
  | some (n, k) =>
    let p := s.part n
    if p.rlogState = 1 then rlogTakes p k else p.halted || p.mode = 1 || s.replayLets n e

/-- Whether a thread's read of a time-varying register, or its YIELD, must wait: for a place in the log, or in replay
for its turn. -/
def State.logWaits (s : State) (t : ThreadId) (i : Instr) : Bool :=
  let n := (s.partOfTile t.tile).getD 0
  let p := s.part n
  let reads : Bool := match i with
    | .sysr _ n | .sysx _ _ n => timeRegs.contains n.toNat
    | _ => false
  (reads || i == .yield) && s.isTask t && p.quanta && p.mode = 0 &&
  (p.rlogState = 1 && !rlogTakes p 1 ||
    reads && s.replaying n && (match s.owedAt n t.tile with
      | x :: rest => !(x.kind = 0x0A && x.slot = t.slot) && rest.any fun y => y.kind = 0x0A && y.slot = t.slot
      | [] => false))

/-- Whether the log has no place for what a thread waits for, so that it counts as stopped (R109, R116). -/
def State.logBlocks (s : State) (t : ThreadId) : Bool :=
  let p := s.part ((s.partOfTile t.tile).getD 0)
  let wide (e : Instr) : Bool := match e with
    | .atomicAtHome r => r.tid == t && r.fn == .cas128
    | _ => false
  p.rlogState = 1 && p.mode = 0 && (!rlogTakes p 1 || (!rlogTakes p 2 && s.flight.any fun q => wide q.2))

/-- Events that come of themselves and bring a program nothing. -/
def background : Instr → Bool
  | .sensorSample | .faultWindowLapse _ | .forwardingExpiry _ _ | .frameRetransmit _ _ _ | .scrubLine _ _ => true
  | _ => false

/-- Whether nothing is left under way in a partition that replay waits for: no task-level thread can go on, and no event
may happen. What the log still owes then cannot be imposed (R117). -/
def State.replayQuiet (s : State) (n : Nat) : Bool :=
  s.replaying n && s.packets.isEmpty && ((s.part n).faultQ ++ (s.part n).faults).all (·.void) &&
  !(s.agenda.any fun q => !background q.ev && s.logLets q.ev) && !(s.guestOps.any fun q => s.logLets q.2) &&
  (s.allThreads.filter fun t => s.partOfTile t.tile == some n && s.isTask t).all fun t =>
    match (s.thread t).st with
    | .ready | .held =>
      (s.trails t && (s.twin (leadTwin t)).lvq.isEmpty) || (s.thread t).count ≥ 2 ^ (s.part n).qlog || s.replayHolds n t || (match s.fetch t with
        | .insn i => s.logWaits t i
        | _ => false)
    | _ => true

/-- The value that a thread reads from a time-varying register (R115 kind 0x0A): recorded, or as the record has it
in replay. -/
def State.readTimed (s : State) (t : ThreadId) (v : Word) : Word × State :=
  let n := (s.partOfTile t.tile).getD 0
  let p := s.part n
  if !s.isTask t || !p.quanta || p.mode ≠ 0 || p.halted then (v, s)
  else if p.rlogState = 1 then (v, s.putLog n (s.logAt n t 0x0A v))
  else if p.rlogState = 2 then
    let r := s.logAt n t 0x0A v
    match (s.owedAt n t.tile).find? fun x => x.kind = r.kind && x.slot = r.slot with
    | none => (v, s.matchRec n r)
    | some x => (x.value, s.matchRec n { r with value := x.value })
  else (v, s)

/-! ### The registers' effects (R116, R117) -/

/-- A write of RESUME ends a pause, unless the partition is halted or the log is still full. -/
def State.rlogResume (s : State) (n : Nat) : State :=
  let p := s.part n
  if p.halted || !p.rlogPaused || rlogFull p then s
  else (s.modPart n fun p => { p with rlogPaused := false }).postOnce (.boundaryService n)

/-- A write of 1 to DIV: with the log off the partition runs on, otherwise the halted boundary finds the mismatch
again. -/
def State.rlogDivClear (s : State) (n : Nat) : State :=
  let p := s.part n
  let s := s.modPart n fun p => { p with rlogDiv := false, halted := p.halted && p.rlogState ≠ 0 }
  if p.halted then s.postOnce (.boundaryService n) else s

def execRlogResume (σ : State) : Host.Outcome State Fault Refusal := .next (σ.rlogResume σ.myPart)
def execRlogDivClear (σ : State) : Host.Outcome State Fault Refusal := .next (σ.rlogDivClear σ.myPart)

/-- A write of RLOGT gives room to the events that wait for it: they happen when the schedule comes to them. -/
def execRlogtWrite (σ : State) : Host.Outcome State Fault Refusal := .next σ

end Sys2Proof.Machine
end

