-- ==== Sys2Proof/Machine/Quanta.lean ====
section
/-! DEFINITION. Quanta: when a tile arrives, and the four steps of a boundary (R109 to R113, R116, R117, R271, R444). -/

namespace Sys2Proof.Machine

/-! ### Quanta begin and end (R109) -/

/-- The state of a thread once a boundary is past: one held for it goes on. -/
def pastBoundary : SlotSt → SlotSt
  | .boundary => .ready
  | st => st

/-- The tiles of a partition, quanta counts cleared, and their threads past the boundary. -/
def State.clearCounts (s : State) (n : Nat) : State :=
  s.mapTiles fun t x =>
    if s.partOfTile t = some n then
      { x with
        arrived := false
        slots := x.slots.map fun (e : Nat × Thread) => (e.1, { e.2 with count := 0, st := pastBoundary e.2.st }) }
    else x

def State.quantaBegin (s : State) (n : Nat) : State :=
  (s.clearCounts n).modPart n fun p => { p with quanta := true, qnum := 0, boundary := none, rlogTaken := [] }

/-- Quanta run in deterministic mode and while the log records or replays. -/
def State.quantaCheck (s : State) (n : Nat) : State :=
  let p := s.part n
  let on := p.mode = 1 || p.rlogState ≠ 0
  if on && !p.quanta then s.quantaBegin n
  else if !on && p.quanta then
    -- a halted boundary stays until DIV is written
    if p.halted then s
    else
      -- wakes kept for a boundary that does not come are applied
      let s := (s.clearCounts n).modPart n fun p => { p with quanta := false, boundary := none, wakes := [] }
      (s.postAll (p.wakes.map Instr.wakeArrival)).kick n
  else s

def execQuantaBegin (σ : State) : Host.Outcome State Fault Refusal := .next (σ.quantaBegin σ.myPart)

/-! ### Arrival (R109) -/

/-- Whether a thread counts as stopped, or does not count. -/
def State.stopped (s : State) (n : Nat) (t : ThreadId) : Bool :=
  let th := s.thread t
  let p := s.part n
  let spent := th.count ≥ 2 ^ p.qlog && !s.matrixBusy t && !th.lateDue
  -- a trailing twin waits for its leading one (R46)
  let behind := s.trails t && (s.twin (leadTwin t)).lvq.isEmpty
  match th.st with
  | .free | .exited _ | .stopped | .parked _ | .boundary => true
  | .awaiting =>
    th.priv != .task || s.logBlocks t || (s.ctxs.any fun e => e.2.killer.any fun k => k.1 == t) || s.replayQuiet n
  | .ready => th.priv != .task || behind || spent || s.replayQuiet n
  | .held => th.priv != .task || behind || s.logBlocks t || spent || s.replayQuiet n

/-- Whether a tile may arrive at the boundary. In replay it first waits for the outcomes that the log still has for it in
this quantum, as long as anything can bring them (R117). -/
def State.mayArrive (s : State) (n t : Nat) : Bool :=
  (s.part n).quanta && (s.part n).boundary.isNone && !(s.tile t).arrived && s.computeTile n t &&
  ((List.range 11).all fun i => s.stopped n { tile := t, slot := i }) &&
  (!s.replaying n || (s.owedAt n t).isEmpty || s.replayQuiet n)

def execBoundaryArrival (tile : Nat) (σ : State) : Host.Outcome State Fault Refusal :=
  let n := (σ.partOfTile tile).getD 0
  .next (if σ.mayArrive n tile then σ.modTile tile fun t => { t with arrived := true } else σ)

/-! ### Gate (R110) -/

/-- Whether every page fault of a task-level thread has its wake. -/
def State.gateOpen (s : State) (n : Nat) : Bool :=
  ((s.part n).faultQ ++ (s.part n).faults).all fun f => f.void || (match f.who with
    | .thread t _ => !s.isTask t
    | _ => true)

/-- Whether the boundary of a partition may begin: every tile has arrived, and the gate is open. -/
def State.mayBegin (s : State) (n : Nat) : Bool :=
  let p := s.part n
  p.quanta && p.boundary.isNone && !p.halted && !p.rlogPaused && pdescValid (s.pdesc n) &&
  (s.tiles.all fun e => e.2.arrived || !s.computeTile n e.1) && s.gateOpen n

/-- The boundary begins 40 tc after the last arrival. -/
def execBoundaryBegin (part : Nat) (σ : State) : Host.Outcome State Fault Refusal :=
  if !σ.mayBegin part then .next σ
  else .next ((σ.modPart part fun p => { p with boundary := some 1 }).postIn 40 (.boundaryService part))

/-! ### Service (R110 to R112) -/

/-- The order of requests: logical id, slot, count at issue. -/
def racesBefore (a b : Racing) : Bool :=
  a.lid < b.lid || (a.lid == b.lid && (a.slot < b.slot || (a.slot == b.slot && a.cnt < b.cnt)))
def insertRacing (r : Racing) : List Racing → List Racing
  | [] => [r]
  | x :: xs => if racesBefore r x then r :: x :: xs else x :: insertRacing r xs
def sortRacing (rs : List Racing) : List Racing := rs.foldl (fun acc r => insertRacing r acc) []

def State.keepRacing (s : State) (n : Nat) (r : Racing) : State := s.modPart n fun p => { p with racing := p.racing ++ [r] }

/-- A message is served: at a tile that its task has left it follows the forwarding entries, all in the same service (R95,
R111); one that finds no room waits for the next boundary. -/
def State.serveMsg (n : Nat) (r : Racing) : Nat → Message → State → State
  | 0, m, s => s.keepRacing n { r with ev := .messageArrival m }
  | fuel + 1, m, s =>
    match s.bound m with
    | .moved f =>
      if f.acked then State.serveMsg n r fuel { m with dst := f.target, insn := 0 } (s.forwarded m.dst f m)
      else settle s (execMessageArrival m s)
    | _ =>
      if s.msgReady m && !s.packetBefore (.messageArrival m) then settle s (execMessageArrival m s)
      else s.keepRacing n { r with ev := .messageArrival m }

/-- One request is served; one that finds no room waits for the next boundary, and YIELD for the decide step. -/
def State.serve (s : State) (n : Nat) (r : Racing) : State :=
  let s := { s with cur := r.tid, src := r.tid.tile }
  match r.ev with
  | .yield => s.keepRacing n r
  | .task d g =>
    if (s.thread r.tid).st = .boundary then (s.modThread r.tid fun th => { th with st := .ready }).taskOp d g
    else s
  | .messageArrival m => State.serveMsg n r 16 m s
  | .spawnArrival m => if (s.tile m.dst).workQ.length < 16 && !s.packetBefore r.ev then settle s (execSpawnArrival m s) else s.keepRacing n r
  | .atomicAtHome g => settle s (execAtomicAtHome g s)
  | .feAtHome q => settle s (execFeAtHome q s)
  | e => s.post e

/-- Threads whose wait ends with this quantum (R112). -/
def State.expireWaits (s : State) (n : Nat) : State :=
  let q := (s.part n).qnum + 1
  (s.allThreads.filter fun t => s.partOfTile t.tile == some n).foldl (fun s t =>
    let th := s.thread t
    match th.st, th.expiry with
    | .parked _, some e => if e ≤ q then s.setThread t { th with st := .ready, expired := true } else s
    | _, _ => s) s

/-- Avalanches that waited for the boundary send their kill packets (R271). -/
def State.sendKills (s : State) (n : Nat) : State :=
  let waits (e : Nat × Ctx) : Bool :=
    let tag := BitVec.ofNat 24 e.1
    e.2.dying && tagPart tag == n && !e.2.sweeps.isEmpty && !s.agenda.any fun q => match q.ev with
      | .killPacketArrival t _ | .avalancheSweepEnd t _ | .avalancheConfirm t => t == tag
      | _ => false
  (s.ctxs.filter waits).foldl (fun s e => s.postAll (e.2.sweeps.map fun t => .killPacketArrival (BitVec.ofNat 24 e.1) t)) s

/-- The requests of the quantum are served, then every wake of a parked task-level thread is applied, then waits that
are over. -/
def State.serviceStep (s : State) (n : Nat) : State :=
  let rs := sortRacing (s.part n).racing
  let s := rs.foldl (fun s r => s.serve n r) (s.modPart n fun p => { p with racing := [] })
  let ws := (s.part n).wakes
  let s := ws.foldl State.applyWake (s.modPart n fun p => { p with wakes := [] })
  (s.expireWaits n).sendKills n

/-! ### Decide (R103 to R106, R110, R113, R444) -/

/-- YIELDs complete, in place or by a move. -/
def State.decideYields (s : State) (n : Nat) : State :=
  let mine (r : Racing) : Bool := r.ev == .yield
  let ys := (s.part n).racing.filter mine
  let s := s.modPart n fun p => { p with racing := p.racing.filter fun r => !mine r }
  ys.foldl (fun s r =>
    if (s.thread r.tid).st = .boundary then
      (s.modThread r.tid fun th => { th with st := .ready }).yieldOp r.tid
    else s) s

/-- Every head that can be placed is placed. -/
def State.placeAllHeads (n : Nat) : Nat → State → State
  | 0, s => s
  | fuel + 1, s =>
    match s.placeOne n with
    | some s' => State.placeAllHeads n fuel s'
    | none => s
def queuedEntries (p : Partition) : Nat := ((p.colQ ++ p.partQ).map fun e => e.2.length).sum

/-- Steals, in the order of the thieves: each has chosen its victim before the first is served. -/
def State.decideSteals (s : State) (n : Nat) (tiles : List Nat) : State :=
  let thieves := (tiles.filter (s.idle n)).filterMap fun t => (s.victimOf n t).map fun v => (t, v)
  thieves.foldl (fun s tv => (s.steal tv.1 tv.2).getD s) s

/-- A tile fills its free slot 0, or fetches ahead. -/
def State.decideStart (s : State) (t : Nat) : State :=
  if !(s.tile t).startable || s.drains t then s
  else if (s.tile t).task.isNone then settle s (execTaskStart t s)
  else settle s (execFootprintPrefetch t s)

/-- The timers that are over pre-empt, in ascending logical id of the tile to be filled (R110). -/
def State.decideExpired (n q : Nat) : Nat → State → State
  | 0, s => s
  | fuel + 1, s =>
    let due := (s.part n).graceAt.filter fun g => g.at_ ≤ q
    let key (g : GraceTimer) : Nat := ((s.graceVictim n g).map (s.logicalId n)).getD (2 ^ 12)
    match leastBy key due with
    | none => s
    | some g =>
      let s' := s.preempt n g
      -- one whose victim finds no forwarding entry free waits for the next boundary (R95)
      let s' := if (s.graceVictim n g).any fun t => s.fwdFull t && !s.waitsWork t then
          s'.modPart n fun p => { p with graceAt := p.graceAt ++ [{ g with at_ := q + 1 }] }
        else s'
      State.decideExpired n q fuel s'

/-- Grace periods, in quanta: those that are over pre-empt, and timers run for the leads with a blocked node. -/
def State.decideGrace (s : State) (n : Nat) : State :=
  let p := s.part n
  if !p.preen then s
  else
    let q := p.qnum + 1
    let len := Nat.max 1 ((p.grace + 2 ^ p.qlog - 1) / 2 ^ p.qlog)
    let s := s.runTimers n fun _ => q + len
    (State.decideExpired n q (s.part n).graceAt.length s).runTimers n fun _ => q + len

/-- The decide step: YIELDs, the drain of a role change, placements, steals, starts, pre-emptions. -/
def State.decideStep (s : State) (n : Nat) : State :=
  let s := s.decideYields n
  let f := s.floor
  let s := if f.roleBusy && f.roleStep = 0 && !f.roleStop && f.seqPart = n then s.beginDrain else s
  let s := State.placeAllHeads n (queuedEntries (s.part n)) s
  let tiles := s.liveTiles n
  let s := s.decideSteals n tiles
  let s := tiles.foldl State.decideStart s
  s.decideGrace n

/-! ### Resume, pause and halt (R110, R116, R117) -/

/-- The record of a partition as a whole, with LID, SLOT and CNT 0: no rule gives these (assumption 132). -/
def partRec (kind : Nat) (v : Word) : LogRec := { kind := kind, lid := 0, slot := 0, cnt := 0, value := v }

/-- A quantum ends: its marker is written, or passed in replay, and the next begins. -/
def State.resumeStep (s : State) (n : Nat) : State :=
  let p := s.part n
  let s := if p.rlogState = 1 then s.putLog n (partRec 0x01 (BitVec.ofNat 64 p.qnum)) else s
  let s :=
    if p.rlogState = 2 then
      let k := (s.quantumRecs n (rlogSize p) 0).length
      let k := if (s.getLog n (p.rlogHead + k)).1.kind = 1 then k + 1 else k
      s.modPart n fun p => { p with rlogHead := (p.rlogHead + k) % 2 ^ 32 }
    else s
  let s := (s.clearCounts n).modPart n fun p => { p with qnum := p.qnum + 1, boundary := none, rlogTaken := [] }
  ((s.quantaCheck n).kick n)

/-- The partition stays stopped at its boundary: the log is full. -/
def State.pauseStep (s : State) (n : Nat) : State :=
  let h := BitVec.ofNat 64 (s.part n).rlogHead
  ((s.putLog n (partRec 0x0E h)).modPart n fun p => { p with rlogPaused := true, boundary := some 3 }).notify n 2 0 h

/-- The partition halts: replay has found a mismatch. -/
def State.haltStep (s : State) (n : Nat) : State :=
  let first := !(s.part n).halted
  let s := match (s.owed n).head? with
    | some (i, r) => s.mismatch n i 0 r.lid
    | none => s
  let s := s.modPart n fun p => { p with rlogDiv := true, halted := true }
  if first then
    (s.notify n 3 0 (BitVec.ofNat 64 (s.part n).rlogHead)).record (mkTag 0 n 0) 0x4B false (Strike.plain 0)
  else s

/-- Whether the last step of a boundary may be taken: Avalanches confirmed, Crossovers complete, holds over, wakes
applied. What waits for a place in the log is not waited for. -/
def State.boundaryClear (s : State) (n : Nat) : Bool :=
  (s.part n).hold.isNone &&
  !(s.ctxs.any fun e => e.2.dying && tagPart (BitVec.ofNat 24 e.1) == n) &&
  !s.agenda.any fun q => (match q.ev with
    | .holdBegin m => m == n
    | .spillResume m _ => m == n
    | .crossoverStream t | .crossoverResume t _ | .crossoverAck t _ => s.partOfTile (t % 4096) == some n
    | .wakeArrival t => s.partOfTile t.tile == some n && s.isParked t
    | _ => false) && s.logLets q.ev

/-- Whether the last step sends a notice to the host: it pauses or halts the partition (R116, R117). -/
def State.boundaryTells (s : State) (n k : Nat) : Bool :=
  let p := s.part n
  !p.rlogPaused && (p.rlogState = 1 && rlogFull p && k = 2 ||
    p.rlogState = 2 && !p.halted && (p.rlogDiv || !(s.owed n).isEmpty))

def execBoundaryService (part : Nat) (σ : State) : Host.Outcome State Fault Refusal :=
  let p := σ.part part
  match p.boundary with
  | none => .next σ
  | some 1 =>
    -- in ordinary mode the wakes of page faults are applied one by one, and recorded (R148)
    let σ := if p.mode = 1 then (σ.serviceStep part).decideStep part
      else (σ.modPart part fun p => { p with wakes := [] }).postAll (p.wakes.map Instr.wakeArrival)
    ends ((σ.modPart part fun p => { p with boundary := some 2 }).postOnce (.boundaryService part))
  | some k =>
    if p.rlogPaused then .next σ
    else if p.rlogState = 1 && rlogFull p && k = 2 then ends (σ.pauseStep part)
    else if p.rlogState = 2 && (p.halted || p.rlogDiv || !(σ.owed part).isEmpty) then ends (σ.haltStep part)
    else ends (σ.resumeStep part)

end Sys2Proof.Machine
end

