-- ==== Sys2Proof/Machine/System.lean ====
section
/-! DEFINITION. The SYS group: traps by software, the system registers with their access rules and write effects,
ends of threads and contexts, the identity block, and the faults of fetch and decode (R25 to R28, R41, R108, R118, R121,
R132, R146, R152, R162, R194, R195, R220, R226, R233, R246, R252 to R257, R261, R269, R270, R272, R281, R295 to R298,
R307, R327, R331 to R334, R366, R373, R411, R412, R422). -/

namespace Sys2Proof.Machine

/-! ### Levels and traps -/

def privNum (p : Priv) : Nat :=
  match p with
  | .task => 0
  | .supervisor => 1
  | .steward => 2

def privOf (n : Nat) : Priv :=
  match n with
  | 0 => .task
  | 1 => .supervisor
  | _ => .steward

/-- The trap value of a whole instruction (R257). -/
def insnValue (i : Instr) : Word := BitVec.ofNat 64 (encodeWord i)

def execTrap (n : BitVec 10) (σ : State) : Host.Outcome State Fault Refusal :=
  ends (σ.takeTrap σ.cur true cTrap (n.zeroExtend 64) false)

def execEret (σ : State) : Host.Outcome State Fault Refusal :=
  if σ.me.priv == .task then ends (σ.trap cPrivilege 0) else .next σ.eret

/-- A word without a meaning (R307). -/
def execIllegalInstruction (w : InsnWord) (σ : State) : Host.Outcome State Fault Refusal :=
  ends (if w = 0 then σ.trap cZeroWord 0 else σ.trap cIllegal (w.zeroExtend 64))

/-- A fetch that reaches no instruction (R298): a trap, a walk, or a park on a page fault. -/
def execFetchFault (b : FetchBad) (σ : State) : Host.Outcome State Fault Refusal :=
  -- a window whose other end refused the fetch
  let σ := match b, σ.translate σ.cur .fetch σ.me.pc.toNat with
    | .trap c _, .ok (.remote w _) => if c = cRemoteLost then σ.refusedBy σ.myPart w else σ
    | _, _ => σ
  ends (σ.stop 0 .fetch (match b with
    | .trap c v => .trap c v
    | .miss va => .miss va
    | .pageFault va q l p => .pageFault va q l p))

/-! ### Access (R25, R108, R132, R146, R152, R162, R194, R220, R226, R233, R246, R253, R295, R296, R327, R331 to R334) -/

/-- What a write of a system register does: it is permitted from a level on, ignored at every level, or permitted at
none. -/
inductive WriteRule where
  | level (l : Nat)
  | ignored
  | never
  deriving DecidableEq, Repr

/-- The lowest level that may read a register, and the rule of its writes; none for a number that is not
assigned. -/
def sysAccess (n : Nat) : Option (Nat × WriteRule) :=
  if n ≤ 0x005 then some (0, .ignored)
  else if [0x010, 0x011, 0x012, 0x3DB].contains n then some (0, .level 0)
  else if [0x380, 0x381, 0x382, 0x383, 0x384, 0x385, 0x386, 0x387, 0x388, 0x38B, 0x38D].contains n then some (1, .level 2)
  else if [0x389, 0x38A, 0x38C, 0x3A8, 0x3E4, 0x3E5].contains n then some (2, .level 2)
  else if [0x391, 0x3A0, 0x3A4, 0x3B1, 0x3C0, 0x3C4].contains n then some (0, .level 1)
  else if [0x390, 0x392, 0x393, 0x394, 0x395, 0x396, 0x397, 0x398, 0x399, 0x39A].contains n then some (1, .level 1)
  else if [0x3A1, 0x3A2, 0x3A3, 0x3B0, 0x3C1, 0x3C2, 0x3C3].contains n then some (1, .level 1)
  else if [0x3D0, 0x3D1, 0x3D2, 0x3D3, 0x3D4, 0x3D5, 0x3D7, 0x3DC, 0x3DE, 0x3DF, 0x3E2, 0x3E3].contains n then
    some (1, .level 1)
  else if [0x3D6, 0x3E1].contains n then some (1, .ignored)
  else if [0x3D8, 0x3DD].contains n then some (1, .never)
  else if [0x3D9, 0x3DA, 0x3E0].contains n then some (0, .ignored)
  else none

/-- Whether the executing level may read a register: the supervisor reads the descriptor of its own partition alone. -/
def State.mayRead (s : State) (n : Nat) : Bool :=
  match sysAccess n with
  | some (l, _) =>
    l ≤ privNum s.me.priv && (s.me.priv != .supervisor || n < 0x381 || 0x388 < n || n - 0x381 == s.myPart)
  | none => false

def State.mayWrite (s : State) (n : Nat) : Bool :=
  match sysAccess n with
  | some (_, .level l) => l ≤ privNum s.me.priv
  | some (_, .ignored) => true
  | _ => false

/-- Whether a write has an effect at all. -/
def sysWrites (n : Nat) : Bool :=
  match sysAccess n with
  | some (_, .level _) => true
  | _ => false

/-! ### Reading -/

def flag (b : Bool) (i : Nat) : Nat := if b then 2 ^ i else 0
/-- The low bits of a word up to `hi`, from `lo`, in place. -/
def field (v : Word) (hi lo : Nat) : Word := BitVec.ofNat 64 (bits v hi lo * 2 ^ lo)
def nat64 (n : Nat) : Word := BitVec.ofNat 64 n

/-- SLOT (R41). -/
def State.slotReg (s : State) : Word :=
  let sl := s.unitSlot s.cur
  let kind := if sl = 0 then 0 else if sl ≤ 10 then 1 else 2
  let rdm := match s.myTile.task with
    | some k => k.rdm == 1
    | none => false
  nat64 (sl + kind * 2 ^ 4 + flag rdm 6)

/-- The state of a slot as SLOTST has it (R41): a stopped thread shows parked (R267), and so does a helper that awaits its
join, for which no rule names a state (assumption 127). -/
def slotCode : SlotSt → Nat
  | .free => 0
  | .ready => 1
  | .held => 2
  | .awaiting => 2
  | .boundary => 2
  | .parked _ => 3
  | .exited _ => 3
  | .stopped => 3

/-- The state of a trailing twin: it parks on its leading twin's condition, where it waits for nothing else (R92). -/
def State.trailCode (s : State) (t : ThreadId) : Nat :=
  match (s.thread (leadTwin t)).st with
  | .parked _ => if (s.twin (leadTwin t)).lvq.isEmpty then 3 else slotCode (s.thread t).st
  | _ => slotCode (s.thread t).st

/-- The state of one slot: the reading thread issues, and a slot from 11 on holds a guest that runs its sequence (R38,
R40). -/
def State.slotNow (s : State) (sl : Nat) : Nat :=
  let t : ThreadId := { tile := s.cur.tile, slot := sl }
  if sl = s.cur.slot then 1
  else if 11 ≤ sl then (if s.myTile.guests.any (·.1 == sl) then 1 else 0)
  else if s.trails t then s.trailCode t
  else slotCode (s.thread t).st

def State.slotst (s : State) : Word :=
  nat64 ((List.range 16).map fun i => s.slotNow i * 2 ^ (2 * i)).sum

def State.taskid (s : State) : Word :=
  match s.myTile.task with
  | some k => nat64 k.node
  | none => 0

/-- The ring entry that RINGSEL of the executing level selects (R261). -/
def State.ringent (s : State) : Word :=
  let sel := (s.me.bank s.me.priv).ringsel
  let e := SMap.get RingEntry.zero s.myTile.ring sel.toNat
  let st := match e.st with
    | .queued => 0
    | .done => 1
    | .faulted => 2
    | .cancelled => 3
  nat64 (e.pc.toNat + e.slot % 16 * 2 ^ 51 + st * 2 ^ 55 + flag e.matrix 57)

/-- The registers of a thread and of its task (R41, R220, R253, R296). -/
def State.readThreadReg (s : State) (n : Nat) : Word :=
  let b := s.me.bank s.me.priv
  let tag := s.myTag
  match n with
  | 0x000 => s.tileId s.cur.tile
  | 0x001 => s.taskid
  | 0x002 => s.slotReg
  | 0x003 => s.slotst
  | 0x004 => nat64 (s.tc s.cur.tile)
  | 0x005 => s.me.retired
  | 0x010 => s.me.fstat.zeroExtend 64
  | 0x011 => s.me.rm.zeroExtend 64
  | 0x012 => s.me.seed
  | 0x3B1 => nat64 ((s.ctx tag).logCount + flag (s.ctx tag).logOvf 4 + flag (s.ctx tag).halt.isSome 5)
  | 0x3D0 => s.trapBase s.cur s.me.priv
  | 0x3D1 => b.epc.zeroExtend 64
  | 0x3D2 => nat64 (b.code.toNat + flag b.late 7)
  | 0x3D3 => b.tval
  | 0x3D4 => nat64 (privNum b.ppriv + flag b.nest 2 + flag b.pend 3)
  | 0x3D5 => b.tscratch
  | 0x3D6 => nat64 (b.seq.toNat + flag b.seqV 6)
  | 0x3D7 => b.ringsel.zeroExtend 64
  | 0x3D8 => s.ringent
  | 0x3D9 => tag.zeroExtend 64
  | 0x3DA => nat64 (tagOwner tag)
  | _ => boolWord (s.ctx tag).surv

/-- BKECC: the fields of the last write, with the mode that the granule has now (R152). -/
def State.bkeccReg (s : State) : Word :=
  let v := s.myTile.bkecc.toNat
  match s.bkGranule v with
  | some g => nat64 (v % 2 ^ 10 + SMap.get 0 s.gmode g % 4 * 2 ^ 10 + v / 2 ^ 12 % 4 * 2 ^ 12)
  | none => nat64 v

/-- The registers of a partition and of an owner in it. -/
def State.readPartReg (s : State) (k : Nat) : Word :=
  let n := s.myPart
  let p := s.part n
  match k with
  | 0x390 => nat64 (p.mode + p.qlog * 2 ^ 2 + p.thr * 2 ^ 7 + p.grace * 2 ^ 15 + flag p.preen 35)
  | 0x391 => nat64 (p.qnum % 2 ^ 48 + p.qlog * 2 ^ 48 + flag (p.mode == 1) 53)
  | 0x392 => p.rlogb
  | 0x393 => nat64 (p.rlogState + flag p.rlogPaused 2 + flag p.rlogDiv 3)
  | 0x394 => nat64 p.rlogHead
  | 0x395 => nat64 p.rlogTail
  | 0x396 => p.rlogDivR
  | 0x397 => p.spillb
  | 0x398 => p.grqb
  | 0x399 => nat64 p.grqHead
  | 0x39A => nat64 p.grqTail
  | 0x3A0 => (s.owner s.myTag).ptroot
  | 0x3A1 => p.fltb
  | 0x3A2 => nat64 p.fltHead
  | 0x3A3 => nat64 p.fltSent
  | 0x3A4 => s.bkeccReg
  | 0x3B0 => (s.owner s.myTag).flogb
  | 0x3C0 => p.pistecfg
  | 0x3C1 => p.winb
  | 0x3C2 => p.expb
  | 0x3C3 => nat64 (p.wincmd.toNat + flag p.winBusy 16)
  | 0x3C4 => p.barctl.zeroExtend 64
  | 0x3DC => p.ctnb
  | 0x3DD => nat64 p.ctnHead
  | 0x3DE => nat64 (s.ctnOldest n)
  | 0x3DF => p.rdncfg
  | 0x3E2 => p.attcmd
  | _ => nat64 (flag p.attBusy 0 + p.attCode % 4 * 2)

/-- The registers of the floor die (R26, R27, R162, R327, R331, R334). -/
def State.readFloorReg (s : State) (k : Nat) : Word :=
  let f := s.floor
  match k with
  | 0x380 => f.role.zeroExtend 64
  | 0x389 => nat64 (f.newRole.toNat + f.rolePart.toNat * 2 ^ 16 + flag f.roleDiscard 19 + flag f.roleForce 20 +
      f.roleDlim.toNat * 2 ^ 24)
  | 0x38A => f.roleflb
  | 0x38B => roleStat f
  | 0x38C => f.rolerec
  | 0x38D => nat64 f.mhz
  | 0x3A8 => f.captb
  | 0x3E0 => s.pwrstat (tileZ s.cur.tile)
  | 0x3E1 => s.bootstat
  | 0x3E4 => nat64 (f.keycmd.toNat + flag f.keyBusy 22 + f.keyCode % 4 * 2 ^ 23)
  | 0x3E5 => f.keyaddr
  | _ => s.pdesc (k - 0x381)

/-- The registers that belong to a thread, its task or its context. -/
def threadRegs (n : Nat) : Bool := n ≤ 0x012 || n = 0x3B1 || (0x3D0 ≤ n && n ≤ 0x3DB)
def floorRegs (n : Nat) : Bool :=
  (0x380 ≤ n && n ≤ 0x38D) || n = 0x3A8 || n = 0x3E0 || n = 0x3E1 || n = 0x3E4 || n = 0x3E5

/-- The value of an assigned system register. -/
def State.sysRead (s : State) (n : Nat) : Word :=
  if threadRegs n then s.readThreadReg n else if floorRegs n then s.readFloorReg n else s.readPartReg n

/-! ### Writing: threads and contexts -/

/-- A write of FLOG.COUNT := 0 empties the log and ends the halt (R195). -/
def State.flogClear (s : State) : State := s.modCtx s.myTag fun c => { c with logCount := 0, halt := none }
def execFlogClear (σ : State) : Host.Outcome State Fault Refusal := .next σ.flogClear

/-- TSTAT (R253): PPRIV keeps its value on 3 and on a level above the executing one. -/
def writeTstat (b : TrapBank) (l : Priv) (v : Word) : TrapBank :=
  let q := bits v 1 0
  { b with
    ppriv := if q ≤ privNum l then privOf q else b.ppriv
    nest := bitAt v 2 }

def State.modBank (s : State) (f : TrapBank → TrapBank) : State :=
  s.modMe fun th => th.setBank th.priv (f (th.bank th.priv))

def State.writeThreadReg (s : State) (n : Nat) (v : Word) : State :=
  match n with
  | 0x010 => s.modMe fun th => { th with fstat := th.fstat &&& ~~~(v.truncate 5) }
  | 0x011 =>
    let r := bits v 2 0
    if r = 4 || r = 6 || r = 7 then s else s.modMe fun th => { th with rm := BitVec.ofNat 3 r }
  | 0x012 => s.modMe fun th => { th with seed := field v 31 0 }
  | 0x3B1 =>
    let s := if bits v 3 0 = 0 then s.flogClear else s
    if bitAt v 4 then s.modCtx s.myTag fun c => { c with logOvf := false } else s
  | 0x3D0 =>
    let x := field v 50 2 ||| field v 0 0
    if s.me.priv == .steward then s.modFloor fun f => { f with trapbase := x }
    else s.modOwner s.myTag fun o => { o with trapbase := x }
  | 0x3D1 => s.modBank fun b => { b with epc := BitVec.ofNat 51 (bits v 50 2 * 4) }
  | 0x3D2 => s.modBank fun b => { b with code := BitVec.ofNat 7 v.toNat, late := bitAt v 7 }
  | 0x3D3 => s.modBank fun b => { b with tval := v }
  | 0x3D4 => s.modBank fun b => writeTstat b s.me.priv v
  | 0x3D5 => s.modBank fun b => { b with tscratch := v }
  | 0x3D7 => s.modBank fun b => { b with ringsel := BitVec.ofNat 6 v.toNat }
  | 0x3DB => s.modCtx s.myTag fun c => { c with surv := bitAt v 0 }
  | _ => s

/-! ### Writing: partitions -/

/-- Whether a launch of a partition is live. -/
def State.launched (s : State) (n : Nat) : Bool := !(s.part n).launches.isEmpty

/-- DSPCFG (R108): MODE and QLOG keep their values while a launch is live and on reserved ones. -/
def State.writeDspcfg (s : State) (n : Nat) (v : Word) : State :=
  let live := s.launched n
  let s := s.modPart n fun p =>
    { p with
      mode := if live || 2 ≤ bits v 1 0 then p.mode else bits v 1 0
      qlog := if live || bits v 6 2 < 12 || 20 < bits v 6 2 then p.qlog else bits v 6 2
      thr := bits v 14 7
      grace := bits v 34 15
      preen := bitAt v 35 }
  ((s.quantaCheck n).kick n).graceCheck n

/-- RLOGCTL (R114, R116 to R118). Recording and replay start at the oldest record that the ring holds. -/
def State.writeRlogctl (s : State) (n : Nat) (v : Word) : State :=
  let p := s.part n
  let q := bits v 1 0
  let s :=
    if q = 3 || q = p.rlogState || (s.launched n && !p.halted) then s
    else
      (s.modPart n fun p =>
        { p with rlogState := q, rlogHead := if q = 0 then p.rlogHead else p.rlogTail }).quantaCheck n
  let s := if bitAt v 3 then s.rlogDivClear n else s
  if bitAt v 4 then s.rlogResume n else s

/-- PISTECFG (R226): a field written with 6 or 7 keeps its value. -/
def pisteWrite (old v : Word) : Word :=
  nat64 (((List.range 8).map fun q =>
    let x := bits v (3 * q + 2) (3 * q)
    (if x < 6 then x else bits old (3 * q + 2) (3 * q)) * 2 ^ (3 * q)).sum)

/-- Every phase state of a partition is 0, and threads parked at its wires complete as timed out (R233). -/
def State.barReset (s : State) (n : Nat) : State :=
  let here (t : Nat) : Bool := s.partOfTile t == some n
  let s := s.mapTiles fun t x => if here t then { x with barA := 0, barD := 0 } else x
  let s := { s with agenda := s.agenda.filter fun q => match q.ev with
    | .barrierCompletion t _ => !here t
    | _ => true }
  (s.allThreads.filter fun t => here t.tile).foldl (fun s t =>
    match (s.thread t).st with
    | .parked (.wire _ _) => (s.modThread t fun th => { th with expired := true, outcome := some 1 }).wake t
    | _ => s) s

def execBarctlWrite (σ : State) : Host.Outcome State Fault Refusal := .next (σ.barReset σ.myPart)

/-- RDNCFG (R281): PLIM keeps its value outside 16 to 30. -/
def rdnWrite (old v : Word) : Word :=
  let lim := bits v 60 56
  field v 50 24 ||| field v 55 51 ||| (if 16 ≤ lim && lim ≤ 30 then field v 60 56 else field old 60 56)

/-- CTNDONE (R270). -/
def State.writeCtndone (s : State) (n : Nat) (v : Word) : State :=
  match bits v 33 32 with
  | 0 => s.ctnContinue n (bits v 31 0)
  | 1 => s.ctnRerun n (bits v 31 0)
  | 2 => s.ctnKill n (bits v 31 0)
  | _ => (s.answerRecord n (bits v 31 0)).1

/-- BKECC (R152): a write that names MODE 3 or BANK 0 is ignored. -/
def State.writeBkecc (s : State) (v : Word) : State :=
  if bits v 11 10 = 3 || bits v 13 12 = 0 then s
  else (s.modMyTile fun t => { t with bkecc := BitVec.ofNat 14 v.toNat }).bkeccEffect

/-- What stops a write of BKECC: an absent bank, a granule that another owner's task pins, the granule of the dirty
log. -/
def State.bkeccStop (s : State) (v : Word) : Option (Nat × Word) :=
  let bank := bits v 13 12
  let gran := bits v 9 0
  if bits v 11 10 = 3 || bank = 0 then none
  else
    match s.bkGranule (bits v 13 0) with
    | none => some (cBankAbsent, mkPtr bank (gran * 4096))
    | some g =>
      if s.pinnedByOther g (tagOwner s.myTag) || (bank = 1 && gran = 1023) then some (cPrivilege, 0x3A4) else none

def State.writePartReg (s : State) (k : Nat) (v : Word) : State :=
  let n := s.myPart
  match k with
  | 0x390 => s.writeDspcfg n v
  | 0x392 => s.modPart n fun p => { p with rlogb := field v 63 12 }
  | 0x393 => s.writeRlogctl n v
  | 0x395 => s.modPart n fun p => { p with rlogTail := bits v 31 0 }
  | 0x397 => (s.modPart n fun p => { p with spillb := field v 50 24 ||| field v 63 56 }).kick n
  | 0x398 => s.modPart n fun p => { p with grqb := field v 55 12 }
  | 0x39A =>
    let s := s.modPart n fun p => { p with grqTail := bits v 31 0 }
    if (s.part n).reports.isEmpty then s else s.postOnce (.graphReportWrite n)
  | 0x3A0 => s.modOwner s.myTag fun o => { o with ptroot := field v 50 0 }
  | 0x3A1 => s.modPart n fun p => { p with fltb := field v 55 12 }
  | 0x3A3 => if bits v 33 32 ≤ 1 then s.serveFault n (bits v 31 0) (bits v 33 32 == 1) else s
  | 0x3A4 => s.writeBkecc v
  | 0x3B0 => s.modOwner s.myTag fun o => { o with flogb := field v 50 21 }
  | 0x3C0 => if s.launched n then s else s.modPart n fun p => { p with pistecfg := pisteWrite p.pistecfg v }
  | 0x3C1 => s.modPart n fun p => { p with winb := field v 50 17 }
  | 0x3C2 => s.modPart n fun p => { p with expb := field v 50 17 }
  | 0x3C3 =>
    let s := s.modPart n fun p => { p with wincmd := field v 14 0 }
    if bitAt v 15 && !(s.part n).winBusy then s.winGo n else s
  | 0x3C4 => (s.modPart n fun p => { p with barctl := BitVec.ofNat 14 v.toNat }).barReset n
  | 0x3DC => s.modPart n fun p => { p with ctnb := field v 55 12 }
  | 0x3DE => s.writeCtndone n v
  | 0x3DF => if s.launched n then s else s.modPart n fun p => { p with rdncfg := rdnWrite p.rdncfg v }
  | 0x3E2 =>
    let s := s.modPart n fun p => { p with attcmd := field v 50 6 }
    if bitAt v 0 then s.attGo n (tagOwner s.myTag) else s
  | _ => s

/-! ### Writing: the floor die -/

/-- ROLECMD (R27): the fields, then ABORT, then GO. -/
def State.writeRolecmd (s : State) (v : Word) : State :=
  let s := s.modFloor fun f =>
    { f with
      newRole := BitVec.ofNat 16 v.toNat
      rolePart := BitVec.ofNat 3 (bits v 18 16)
      roleDiscard := bitAt v 19
      roleForce := bitAt v 20
      roleDlim := BitVec.ofNat 5 (bits v 28 24) }
  let s := if bitAt v 21 then s.roleAbort else s
  if bitAt v 22 then s.roleGo else s

def State.writeFloorReg (s : State) (k : Nat) (v : Word) : State :=
  match k with
  | 0x389 => s.writeRolecmd v
  | 0x38A => s.modFloor fun f => { f with roleflb := field v 50 30 }
  | 0x38B => if bitAt v 24 then s.modFloor fun f => { f with rolePoison := false } else s
  | 0x38C => s.modFloor fun f => { f with rolerec := field v 50 4 }
  | 0x3A8 => s.modFloor fun f => { f with captb := field v 50 30 }
  | 0x3E4 =>
    let s := s.modFloor fun f => { f with keycmd := field v 20 0 }
    if bitAt v 21 then s.keyGo else s
  | 0x3E5 => s.modFloor fun f => { f with keyaddr := field v 50 6 }
  | _ => s

/-- A permitted write: a register whose writes are ignored, and one whose fields are all read-only, stay as they are. -/
def State.sysWrite (s : State) (n : Nat) (v : Word) : State :=
  if !sysWrites n then s
  else if threadRegs n then s.writeThreadReg n v
  else if floorRegs n then s.writeFloorReg n v
  else s.writePartReg n v

/-- What stops a permitted write. -/
def State.writeStop (s : State) (n : Nat) (v : Word) : Option (Nat × Word) :=
  if n = 0x3A4 then s.bkeccStop v else none

/-! ### SYSR, SYSW, SYSX (R297, R411) -/

/-- The value that a read gives, recorded or replayed where it varies with time. -/
def State.sysValue (s : State) (n : Nat) : Word × State :=
  let v := s.sysRead n
  if timeRegs.contains n then s.readTimed s.cur v else (v, s)

def execSysr (d : GReg) (n : BitVec 10) (σ : State) : Host.Outcome State Fault Refusal :=
  match sysAccess n.toNat with
  | none => ends (σ.trap cIllegal (insnValue (.sysr d n)))
  | some _ =>
    if !σ.mayRead n.toNat then ends (σ.trap cPrivilege (n.zeroExtend 64))
    else
      let (v, σ) := σ.sysValue n.toNat
      ends (σ.setG d v).retire

/-- Whether a register is written by SYSW or SYSX: its number is assigned, the level suffices, and nothing stops the
write. It gives the trap otherwise. -/
def State.sysTrap (s : State) (i : Instr) (n : Nat) (reads : Bool) (v : Word) : Option (Nat × Word) :=
  match sysAccess n with
  | none => some (cIllegal, insnValue i)
  | some _ =>
    if (reads && !s.mayRead n) || !s.mayWrite n then some (cPrivilege, nat64 n) else s.writeStop n v

def execSysw (r : GReg) (n : BitVec 10) (σ : State) : Host.Outcome State Fault Refusal :=
  match σ.sysTrap (.sysw r n) n.toNat false (σ.g r) with
  | some (c, v) => ends (σ.trap c v)
  | none => ends (σ.sysWrite n.toNat (σ.g r)).retire

def execSysx (d r : GReg) (n : BitVec 10) (σ : State) : Host.Outcome State Fault Refusal :=
  match σ.sysTrap (.sysx d r n) n.toNat true (σ.g r) with
  | some (c, v) => ends (σ.trap c v)
  | none =>
    let (old, σ) := σ.sysValue n.toNat
    ends ((σ.sysWrite n.toNat (σ.g r)).setG d old).retire

/-! ### Ends of threads and contexts (R272, R314, R366, R373) -/

/-- HALT: the executing thread ends and its slot is free; in slot 0 alone its context is killed. -/
def execHalt (σ : State) : Host.Outcome State Fault Refusal :=
  if σ.me.priv != .steward then ends (σ.trap cPrivilege (insnValue .halt))
  else if !σ.isControl then
    let σ := ((σ.setThread σ.cur Thread.zero).modMyTile (·.detach σ.cur.slot)).retireLast
    ends (σ.wakeIf fun u (p : Park) => u.tile == σ.cur.tile &&
      (p == .helperJoin σ.cur.slot || p == .helperJoin 0))
  else if σ.myTile.anyLive then ends (σ.trap cContextMisuse 2)
  else ends (σ.await.avalancheAll σ.myTag 0x44)

def execKill (d r : GReg) (σ : State) : Host.Outcome State Fault Refusal :=
  let v := σ.g r
  let tag : Tag := v.truncate 24
  let other : Bool := tagOwner tag != tagOwner σ.myTag || tagPart tag != tagPart σ.myTag
  if σ.me.priv == .task then ends (σ.trap cPrivilege (insnValue (.kill d r)))
  else if σ.me.priv == .supervisor && other then ends (σ.trap cPrivilege (insnValue (.kill d r)))
  else if tagCtx tag = 0 || v.toNat / 2 ^ 24 ≠ 0 then ends (σ.trap cInvalidOperand v)
  else if !(σ.ctx tag).live then .next (σ.setG d 1).retire
  else
    let σ := σ.await.avalancheAll tag 0x44
    ends (σ.modCtx tag fun c => { c with killer := c.killer ++ [(σ.cur, d)] })

/-- SIGRD reads a dword of the identity block (R332). -/
def execSigrd (d : GReg) (n : BitVec 10) (σ : State) : Host.Outcome State Fault Refusal :=
  if σ.me.priv == .task then ends (σ.trap cPrivilege (insnValue (.sigrd d n)))
  else if n.toNat > 63 then ends (σ.trap cInvalidOperand (n.zeroExtend 64))
  else .next (σ.setG d (σ.identity n.toNat)).retire

end Sys2Proof.Machine
end

