-- ==== Sys2Proof/Machine/Sched.lean ====
section
/-! DEFINITION. Which thing happens next: the barrel's order (R43), what keeps a thread from issuing (R31, R42, R109,
R195), which events may happen and the order of those that must follow one another (R30, R31, R94, R109, R110, R158,
R225). -/

namespace Sys2Proof.Machine

/-! ### Which threads may issue -/

/-- A thread that no hold, quantum, halt or freeze keeps from issuing (R42), on a compute die (R14); in a freeze one that is
held at a FENCE, a DLOGH or a TLBINV still completes it (R365). A task-level thread that is woken, or a task
that starts, at a tile that has already arrived is kept until the boundary: R109 does not say so for a log that records
or replays in ordinary mode, where the model chooses it (assumption 119). -/
def State.mayIssue (s : State) (t : ThreadId) : Bool :=
  let th := s.thread t
  let ti := s.tile t.tile
  let n := (s.partOfTile t.tile).getD 0
  let p := s.part n
  let free := match th.st with
    | .ready => true
    | .held => true
    | _ => false
  let lingers : Bool := match ti.task with
    | some k => k.phase == .freezing && s.lingers t
    | none => false
  (free || lingers) && s.computes (tileZ t.tile) && !(s.trails t && (s.twin (leadTwin t)).lvq.isEmpty) && p.hold.isNone && !s.floor.recovery &&
  (match ti.task with
    | some k =>
      (k.phase == .running || lingers) &&
      (match (s.ctx k.tag).halt with
        | some h => h == t || (s.trails t && h == (leadTwin t))
        | none => true)
    | none => false) &&
  !(th.priv == .task && p.quanta && !lingers &&
    (th.count ≥ 2 ^ p.qlog || p.halted || p.rlogPaused || ti.arrived || p.boundary.isSome ||
      (p.rlogState == 2 && s.replayHolds n t)))

/-! ### Which events may happen -/

/-- Whether two guest operations at one home share a location: the home performs them in arrival order (R190). -/
def sameGuestCell : Instr → Instr → Bool
  | .atomicAtHome x, .atomicAtHome y =>
    x.home == y.home && (cellsFrom x.cell x.bytes).any (cellsFrom y.cell y.bytes).contains
  | _, _ => false

/-- Whether event `a`, posted before `b`, is performed before it: two accesses of one thread with a
location in common on one path, or two REDs with a location in common (R158, R399); guest operations on one location (R190);
notices that one tile sends about
one move, and messages that one tile returns to another (R225). -/
def mustPrecede (a b : Instr) : Bool :=
  match a, b with
  | .boundaryBegin x, .boundaryService y => x == y
  | .redirectNotice x _ old _, .redirectNotice y _ old' _ => x == y && old == old'
  | .undeliverableReturn m, .undeliverableReturn m' => m.src == m'.src && m.dst == m'.dst
  | _, _ =>
    sameGuestCell a b || isRed a == isRed b && (accessesOf a).any fun x => (accessesOf b).any fun y =>
      x.1.any y.1.contains && (isRed a || x.2.1 == y.2.1) && x.2.2.any y.2.2.contains

/-- Whether an atomic that its home has accepted before a window's install request is still to be performed there
(R178). -/
def State.installWaits (s : State) (p : Pending) : Bool :=
  match p.ev with
  | .windowInstall h _ => s.flight.any fun q => q.1 < p.id && (match q.2 with
      | .atomicAtHome x => x.home == h
      | _ => false)
  | _ => false

/-- A thread of a frozen task whose late fault is delivered before the stream (R94, R262). -/
def State.lateOwed (s : State) (tile : Nat) : Option ThreadId :=
  match (s.tile tile).task with
  | some k =>
    if k.phase == .freezing then
      ((s.tile tile).slots.find? fun e => e.2.lateDue).map fun e => { tile := tile, slot := e.1 }
    else none
  | none => none

/-- Whether a partition stands at a boundary where a hold and a role change's steps may happen (R31, R33); where no
quanta run they may happen at once. -/
def State.atBoundary (s : State) (n : Nat) : Bool :=
  let p := s.part n
  !p.quanta || p.halted || p.rlogPaused || (match p.boundary with
    | some k => 2 ≤ k
    | none => false)

/-- Whether a tile's own Crossovers let it stop for a hold (R31). -/
def State.crosses (s : State) (tile : Nat) : Bool :=
  s.agenda.any fun q => match q.ev with
    | .crossoverResume a b => a == tile || b == tile
    | _ => false

/-- Whether a task of the affected set is on its way elsewhere (R30). -/
def State.roleCrosses (s : State) : Bool :=
  s.agenda.any fun q => match q.ev with
    | .crossoverStream a => s.affected a
    | .crossoverResume a b => s.affected a || s.affected b
    | _ => false

/-- Whether what an event waits for besides its time has come about. -/
def State.conditionMet (s : State) (e : Instr) : Bool :=
  let held (t : Nat) : Bool := match s.partOfTile (t % 4096) with
    | some n => (s.part n).hold.isSome
    | none => false
  match e with
  | .pageWalk r => s.walkReady r && !(s.lateAtPoints r.tid && s.matrixBusy r.tid)
  | .feAtHome r => !(s.lateAtPoints r.tid && s.matrixBusy r.tid)
  | .ticketUpdateArrival r => !(s.lateAtPoints r.tid && s.matrixBusy r.tid)
  | .torusPacketHop id => s.packetFirst id
  | .roleReadmit | .roleChangeAbort => s.noticeRoom s.floor.seqPart
  | .frameRetransmit port owner seq =>
    let k := s.port port owner.toNat
    k.lost || SMap.get 0 k.tries seq < 3 || s.noticeRoom 8
  | .revokeComplete n i => !((s.part n).faultQ ++ (s.part n).faults).any (asksExport n i) && !s.agenda.any fun q =>
      match q.ev with
      | .remoteRequest r => r.part == n && r.exp == i
      | _ => false
  | .vectorCompletion t => s.vectorReady t
  | .messageArrival m => s.msgReady m
  | .spawnArrival m => (s.tile m.dst).workQ.length < 16
  | .delivNodeDelivery t _ => (s.tile t).workQ.length < 16
  | .crossoverStream t =>
    !held t && (s.lateOwed t).isNone && (match (s.tile t).task with
      | some k => k.phase != .freezing || s.drained t k
      | none => true)
  | .streamTileDelivery id =>
    match s.deliveries.find? fun d => d.id = id with
    | some d => !((s.tile d.tile).sub d.sub).on || d.n ≤ ((s.tile d.tile).sub d.sub).arrived
    | none => true
  | .waitTimeout t => !held t.tile && s.countsHere t.tile
  | .graceExpiry n _ => (s.part n).hold.isNone
  | .forwardingExpiry t _ => !held t
  | .holdWireArrival t => !s.crosses t
  | .holdBegin n => s.atBoundary n
  | .drainLimitExpiry => (s.part s.floor.seqPart).mode ≠ 1 || s.atBoundary s.floor.seqPart
  | .roleFlush => s.roleDrained && !s.roleCrosses && !s.landing
  | .roleReenumerate => s.roleRetired && s.atBoundary s.floor.seqPart
  | .boundaryService n =>
    match (s.part n).boundary with
    | some k => k < 2 || (s.boundaryClear n && (s.noticeRoom n || !s.boundaryTells n k))
    | none => true
  | _ => true

/-- Whether a pending event may happen now: it is due, no earlier event must precede it, what it waits for has come
about, and the log has a place for it. -/
def State.eventReady (s : State) (p : Pending) : Bool :=
  p.due ≤ s.clock p.ev && !(s.agenda.any fun q => q.id < p.id && mustPrecede q.ev p.ev) &&
  !(s.guestOps.any fun q => q.1 < p.id && q.2 != p.ev && mustPrecede q.2 p.ev) && !s.packetBefore p.ev &&
  !s.installWaits p && !s.stalled p &&
  s.conditionMet p.ev && s.logLets p.ev

/-- A guest at a home as an event. -/
def guestEvent (r : GuestOp) : Pending := { id := r.ord, due := 0, ev := .atomicAtHome r }

/-- The guest in a slot of a tile. -/
def State.guestIn (s : State) (t : ThreadId) : Option GuestOp := ((s.tile t.tile).guests.find? (·.1 == t.slot)).map (·.2)

/-- Whether the core of a tile runs: on a compute die, and not retired. -/
def State.coreRuns (s : State) (t : Nat) : Bool := s.computes (tileZ t) && !s.retiredTile t

/-- Whether a slot may issue: its thread, or in slots 11 to 15 its guest (R38, R43). -/
def State.slotMay (s : State) (t : ThreadId) : Bool :=
  if 11 ≤ t.slot then s.coreRuns t.tile && (s.guestIn t).any fun r => s.eventReady (guestEvent r) else s.mayIssue t

/-- The slot a tile's barrel tries next (R43): the first that may issue after the last that did, other than those found
held since; where all of them were, the round begins anew. -/
def State.barrel (s : State) (tile : Nat) : Option Nat :=
  let ti := s.tile tile
  let slots := ((List.range 16).map fun i => (ti.last + 1 + i) % 16).filter fun sl => s.slotMay { tile := tile, slot := sl }
  match slots.find? fun sl => !ti.tried.contains sl with
  | some sl => some sl
  | none => slots.head?

/-- The guests of a tile whose core does not run, in its bank controller's slots (R190). -/
def State.bankGuests (s : State) (e : Nat × Tile) : List Pending :=
  if s.coreRuns e.1 then [] else (e.2.guests.map fun g => guestEvent g.2).filter s.eventReady

/-- What may happen next: an event, or a thread's issue. -/
inductive Choice where
  | event (p : Pending)
  | thread (t : ThreadId)
  deriving DecidableEq, Repr

/-- A task-level thread whose count has reached Q, with a late fault that is delivered there (R260). -/
def State.lateAtQ (s : State) (t : ThreadId) : Bool :=
  let th := s.thread t
  s.lateAtPoints t && th.lateDue && th.priv == .task && th.count ≥ 2 ^ (s.part ((s.partOfTile t.tile).getD 0)).qlog &&
  !s.matrixBusy t && (th.st == .ready || th.st == .held)

/-- The moves and steals that replay imposes (R117): of a move the tile's next record is the first sign, and of a steal
that its dispenser makes. -/
def State.imposed (s : State) (n : Nat) : List Instr :=
  if !s.replaying n then []
  else
    ((List.range 16).filter fun lead => match s.moveDue n lead with
      | some (t, d) => !s.atYield { tile := t, slot := 0 } && (s.imposeMove n t d true).isSome
      | none => false).map (Instr.graceExpiry n) ++
    (s.liveTiles n).filterMap fun t =>
      match s.stealOwed n t with
      | some (v, _) => if s.idle n t && s.logLets (.stealAnswer t v) then some (.stealAnswer t v) else none
      | none => none

/-- Events that no one posts: a tile's arrival at a boundary, a boundary's beginning (R109, R110), the late faults that
a freeze or the end of a quantum delivers (R94, R260), the divergence of twins (R277), and what replay imposes (R117). -/
def State.derived (s : State) : List Instr :=
  (s.tiles.filterMap fun e =>
    match s.partOfTile e.1 with
    | some n => if s.mayArrive n e.1 then some (.boundaryArrival e.1) else none
    | none => none) ++
  (((List.range 8).filter s.mayBegin).map Instr.boundaryBegin) ++
  (s.tiles.filterMap fun e => (s.lateOwed e.1).map Instr.lateFaultDelivery) ++
  (s.tiles.flatMap fun e =>
    if (e.2.task.any fun k => k.rdm == 1 && !(s.ctx k.tag).dying) &&
        e.2.twins.any fun w => w.2.bad || w.2.limit.any (· ≤ s.tc e.1) then
      [.twinTimeout { tile := e.1, slot := 0 }]
    else []) ++
  ((s.allThreads.filter s.lateAtQ).map Instr.lateFaultDelivery) ++ (List.range 8).flatMap s.imposed

def State.choicesNow (s : State) : List Choice :=
  ((s.agenda.filter s.eventReady).map Choice.event) ++
  (s.derived.map fun e => Choice.event { id := s.nextId, due := s.clock e, ev := e }) ++
  ((s.tiles.flatMap s.bankGuests).map Choice.event) ++
  (s.tiles.filterMap fun e => (s.barrel e.1).map fun sl => Choice.thread { tile := e.1, slot := sl })

/-- The choice made: the only one, or the one that the schedule names (assumption 1). -/
def State.choose (s : State) : Option Choice :=
  match s.choicesNow with
  | [] => none
  | [c] => some c
  | c :: cs => (c :: cs)[Config.schedule s.choices % (cs.length + 1)]?

/-- Time passes, for each die by its own clock, which may run slower than the floor die's (R4; assumption 2), and the
requests that are over are counted out (R246). -/
def State.tick (s0 : State) : State :=
  let s := s0.countOver
  let d := 1 + Config.elapsed s.now
  { s with
    now := s.now + d
    lags := (List.range 16).foldl (fun m z =>
      SMap.set 0 m z (SMap.get 0 m z + Config.behind s.now z % (d + 1))) s.lags
    choices := s.choices + 1 }

/-- The agenda without an event that now happens. -/
def State.takeEvent (s : State) (p : Pending) : State :=
  { s with agenda := s.agenda.filter fun q => q.id ≠ p.id }

/-- A thread's turn: it is the executing thread, and what happens comes from its tile. -/
def State.turn (s : State) (t : ThreadId) : State := { s with cur := t, src := t.tile }

/-- Slots found held are looked at again: something has happened since that may have made them ready (R43). -/
def State.retried (s : State) : State := s.mapTiles fun _ t => { t with tried := [] }

/-- After an attempt of a thread: a slot that has issued is the last to have done so, one found held leaves it (R43). -/
def State.issued (s : State) (t : ThreadId) : State :=
  if (s.thread t).st = .held then
    s.modTile t.tile fun ti => { ti with tried := if ti.tried.contains t.slot then [t.slot] else t.slot :: ti.tried }
  else s.retried.modTile t.tile fun ti => { ti with last := t.slot }

/-- The tile from which an event comes, where one sent it. -/
def eventTile : Instr → Option Nat
  | .storeAtHome r => some r.tid.tile
  | .feAtHome r => some r.tid.tile
  | .atomicAtHome r => some r.tid.tile
  | .ticketUpdateArrival r => some r.tid.tile
  | .messageArrival m => some m.src
  | .spawnArrival m => some m.src
  | .barrierCompletion t _ | .acopyChunkLand t | .delivNodeDelivery t _ | .boundaryArrival t => some t
  | _ => none

/-! ### Before an issue (R42, R260) -/

/-- Whether a late fault of a thread is taken before its next issue: at once in ordinary mode with the log off; otherwise
only after the return from the handler that kept it pending (R260, R262). -/
def State.lateNow (s : State) (t : ThreadId) : Bool :=
  let th := s.thread t
  th.lateDue && (!s.lateAtPoints t || th.owed)

/-- The instructions that are delivery points of R260 wherever they stand. -/
def isPoint : Instr → Bool
  | .fence _ _ | .hexit _ | .texit | .yield | .migrate _ _ => true
  | .sysr _ n | .sysx _ _ n | .sysw _ n => n == 0x010
  | _ => false

/-- Whether the registers that an instruction names, the address and predicate registers among them, are equal in the twins
of a pair, and both stand at the instruction (R46). -/
def State.twinsAgree (s : State) (t : ThreadId) (i : Instr) : Bool :=
  let a := s.thread t
  let b := s.thread (trailTwin t)
  a.pc == b.pc && a.priv == b.priv && a.a == b.a && a.p == b.p && ((gNamed i).all fun r => a.getG r == b.getG r) &&
  ((vNamed i).all fun r => a.getV r == b.getV r) && (kNamed i).all fun r => a.getK r == b.getK r

/-- Whether the leading twin of a pair waits: the load-value queue is full, or the store comparator holds the instruction
until the trailing twin has come to it, with the same operation (R42, R46). -/
def State.twinHolds (s : State) (t : ThreadId) (i : Instr) : Bool :=
  s.paired t.tile && t.slot ≤ 4 && !twinOwn i &&
  ((s.twin t).full || (twinOnce i && (!(s.twin t).lvq.isEmpty || s.mustWait (trailTwin t) i || !s.twinsAgree t i)))

/-- What comes before an instruction's meaning: a wait for a result or for the matrix unit, or a late fault
at a delivery point; none where it runs. -/
inductive Before where
  | run
  | wait
  | late
  deriving DecidableEq, Repr

def State.before (s : State) (t : ThreadId) (i : Instr) : Before :=
  let th := s.thread t
  let point := s.lateAtPoints t && (isPoint i || (gReads i).any th.mres.contains)
  if s.mustWait t i || s.logWaits t i || s.twinHolds t i then .wait
  else if point && s.matrixBusy t then .wait
  else if point && th.lateDue then .late
  else .run

end Sys2Proof.Machine
end

