-- ==== Sys2Proof/Machine/Placing.lean ====
section
/-! DEFINITION. Placing one instruction so that the very next step runs it (assumption 10). A program comes to
run from reset only by a launch over the Lift link: the host's launch descriptor names node records, and
a dispenser starts a task at the node's entry. Placing stands for that: tile 0 holds a steward-level
task whose control thread is ready, its ITLB maps the page at the pc, and the words lie in that page. -/

namespace Sys2Proof.Machine

/-- The tag of the placed task: owner 0, partition 0, context 1. -/
def placedTag : Tag := mkTag 0 0 1

/-- The virtual page of the placed word. -/
def placedPc : Nat := 0x400000
/-- The physical page of the placed word. -/
def placedPa : Nat := 0x10000000

/-- The control task of a placed instruction. -/
def placedTask : Task :=
  { tag := placedTag, root := 1, launch := 0, priv := .steward, prio := 0, node := 0, pk := 0, rdm := 0
    copy := 0, entry := BitVec.ofNat 51 placedPc, args := [], fps := [], pins := [], caller := 0
    callTile := 0, rtag := 0, recalled := false, called := false, deliv := 0, phase := .running, unserved := false, dest := none, started := 0 }

/-- The ITLB entry of the placed page: a 4 KiB HBM page with RD, WR, EX and US. -/
def placedEntry : TlbEntry :=
  { tag := placedTag, vbase := placedPc, log := 12
    leaf := BitVec.ofNat 64 (placedPa + 1 + 2 + 4 + 8 + 16 + 1024), pte := 0, level := 0, dt := true
    dev := 0 }

/-- The state with the word placed and nothing else able to happen before it. -/
def State.placeWord (s : State) (nbits w : Nat) : State :=
  let v := w % 2 ^ nbits
  let bytes := bytesOfNat 8 v
  let s := { s with agenda := s.agenda.filter (fun q => q.due > s.clock q.ev), cur := { tile := 0, slot := 0 }
                    tiles := [] }
  let th := { Thread.zero with st := .ready, pc := BitVec.ofNat 51 placedPc, priv := .steward }
  let s := s.setTile 0
    { Tile.zero with task := some placedTask, slots := SMap.set Thread.zero [] 0 th, itlb := [placedEntry] }
  let s := s.modCtx placedTag fun c => { c with live := true, root := 1, priv := .steward }
  ((cellsFrom placedPa 8).zip bytes).foldl (fun s cb => s.setByte cb.1 cb.2) s

end Sys2Proof.Machine
end

