-- ==== Sys2Proof/Machine/Dispatch.lean ====
section
/-! DEFINITION. The dispatch: one arm per constructor of Instr, each one direct call of the meaning of that
instruction or event. -/

namespace Sys2Proof.Machine

def exec (i : Instr) (s : State) : Host.Outcome State Fault Refusal :=
  match i with
  | .add d rs t w => Sys2Proof.Machine.execAdd d rs t w s
  | .sub d rs t w => Sys2Proof.Machine.execSub d rs t w s
  | .mul d rs t w => Sys2Proof.Machine.execMul d rs t w s
  | .mulh d rs t m => Sys2Proof.Machine.execMulh d rs t m s
  | .div d rs t u => Sys2Proof.Machine.execDiv d rs t u s
  | .rem d rs t u => Sys2Proof.Machine.execRem d rs t u s
  | .and d rs t => Sys2Proof.Machine.execAnd d rs t s
  | .or d rs t => Sys2Proof.Machine.execOr d rs t s
  | .xor d rs t => Sys2Proof.Machine.execXor d rs t s
  | .shl d rs t w => Sys2Proof.Machine.execShl d rs t w s
  | .shr d rs t w => Sys2Proof.Machine.execShr d rs t w s
  | .sar d rs t w => Sys2Proof.Machine.execSar d rs t w s
  | .min d rs t u => Sys2Proof.Machine.execMin d rs t u s
  | .max d rs t u => Sys2Proof.Machine.execMax d rs t u s
  | .clz d rs => Sys2Proof.Machine.execClz d rs s
  | .popc d rs => Sys2Proof.Machine.execPopc d rs s
  | .sel d p rs t => Sys2Proof.Machine.execSel d p rs t s
  | .mov d rs => Sys2Proof.Machine.execMov d rs s
  | .addi d rs imm => Sys2Proof.Machine.execAddi d rs imm s
  | .andi d rs imm => Sys2Proof.Machine.execAndi d rs imm s
  | .ori d rs imm => Sys2Proof.Machine.execOri d rs imm s
  | .xori d rs imm => Sys2Proof.Machine.execXori d rs imm s
  | .shli d rs w n => Sys2Proof.Machine.execShli d rs w n s
  | .shri d rs w n => Sys2Proof.Machine.execShri d rs w n s
  | .sari d rs w n => Sys2Proof.Machine.execSari d rs w n s
  | .lim d imm => Sys2Proof.Machine.execLim d imm s
  | .limh d rs imm => Sys2Proof.Machine.execLimh d rs imm s
  | .cmp p c rs t => Sys2Proof.Machine.execCmp p c rs t s
  | .cmpi p c rs imm => Sys2Proof.Machine.execCmpi p c rs imm s
  | .plog d a b tt => Sys2Proof.Machine.execPlog d a b tt s
  | .ext imm w2 => Sys2Proof.Machine.execExt imm w2 s
  | .br p n off => Sys2Proof.Machine.execBr p n off s
  | .jal d off => Sys2Proof.Machine.execJal d off s
  | .jr d rs imm => Sys2Proof.Machine.execJr d rs imm s
  | .amk d rs t => Sys2Proof.Machine.execAmk d rs t s
  | .aadd d rs t => Sys2Proof.Machine.execAadd d rs t s
  | .aaddb d rs t => Sys2Proof.Machine.execAaddb d rs t s
  | .asub t d rs => Sys2Proof.Machine.execAsub t d rs s
  | .afld t rs => Sys2Proof.Machine.execAfld t rs s
  | .atag d rs t => Sys2Proof.Machine.execAtag d rs t s
  | .movag t rs => Sys2Proof.Machine.execMovag t rs s
  | .movga d t => Sys2Proof.Machine.execMovga d t s
  | .aaddi d rs imm => Sys2Proof.Machine.execAaddi d rs imm s
  | .ld d a sz off => Sys2Proof.Machine.execLd d a sz off s
  | .st rs a sz off => Sys2Proof.Machine.execSt rs a sz off s
  | .lde d a f off => Sys2Proof.Machine.execLde d a f off s
  | .ste rs a f off => Sys2Proof.Machine.execSte rs a f off s
  | .ldv d a f off => Sys2Proof.Machine.execLdv d a f off s
  | .stv rs a f off => Sys2Proof.Machine.execStv rs a f off s
  | .ldvx d a f b k => Sys2Proof.Machine.execLdvx d a f b k s
  | .stvx rs a f b k => Sys2Proof.Machine.execStvx rs a f b k s
  | .take d a off => Sys2Proof.Machine.execTake d a off s
  | .fill rs a off => Sys2Proof.Machine.execFill rs a off s
  | .readf d a off => Sys2Proof.Machine.execReadf d a off s
  | .feempty a off => Sys2Proof.Machine.execFeempty a off s
  | .fefull a off => Sys2Proof.Machine.execFefull a off s
  | .feprobe d a off => Sys2Proof.Machine.execFeprobe d a off s
  | .acopy d rs h b exp => Sys2Proof.Machine.execAcopy d rs h b exp s
  | .boinit rs a off => Sys2Proof.Machine.execBoinit rs a off s
  | .boexpect rs a off => Sys2Proof.Machine.execBoexpect rs a off s
  | .boarrive a off => Sys2Proof.Machine.execBoarrive a off s
  | .bowait d a off => Sys2Proof.Machine.execBowait d a off s
  | .botest d a off => Sys2Proof.Machine.execBotest d a off s
  | .bostat d a off => Sys2Proof.Machine.execBostat d a off s
  | .send rs t => Sys2Proof.Machine.execSend rs t s
  | .sendv rs t v => Sys2Proof.Machine.execSendv rs t v s
  | .recv d t => Sys2Proof.Machine.execRecv d t s
  | .recvv v t => Sys2Proof.Machine.execRecvv v t s
  | .recvt d t rs => Sys2Proof.Machine.execRecvt d t rs s
  | .probe d t => Sys2Proof.Machine.execProbe d t s
  | .reply rs t => Sys2Proof.Machine.execReply rs t s
  | .spawn rs t d => Sys2Proof.Machine.execSpawn rs t d s
  | .waitwork d => Sys2Proof.Machine.execWaitwork d s
  | .start d rs t => Sys2Proof.Machine.execStart d rs t s
  | .hjoin d rs => Sys2Proof.Machine.execHjoin d rs s
  | .hexit rs => Sys2Proof.Machine.execHexit rs s
  | .task d rs => Sys2Proof.Machine.execTask d rs s
  | .migrate d rs => Sys2Proof.Machine.execMigrate d rs s
  | .fence scope mask => Sys2Proof.Machine.execFence scope mask s
  | .monarm d rs => Sys2Proof.Machine.execMonarm d rs s
  | .monwait d rs => Sys2Proof.Machine.execMonwait d rs s
  | .barw kind rs => Sys2Proof.Machine.execBarw kind rs s
  | .barwt kind d rs t => Sys2Proof.Machine.execBarwt kind d rs t s
  | .cbsync rs => Sys2Proof.Machine.execCbsync rs s
  | .amo op w32 sc d a t => Sys2Proof.Machine.execAmo op w32 sc d a t s
  | .cas w32 sc d a t => Sys2Proof.Machine.execCas w32 sc d a t s
  | .cas128 sc d a t => Sys2Proof.Machine.execCas128 sc d a t s
  | .tfadd f d a v k => Sys2Proof.Machine.execTfadd f d a v k s
  | .tfmin f d a v k => Sys2Proof.Machine.execTfmin f d a v k s
  | .tfmax f d a v k => Sys2Proof.Machine.execTfmax f d a v k s
  | .tkopen w8 d a t => Sys2Proof.Machine.execTkopen w8 d a t s
  | .tkclose ab d a => Sys2Proof.Machine.execTkclose ab d a s
  | .tkskip d a t => Sys2Proof.Machine.execTkskip d a t s
  | .tkdrain d a => Sys2Proof.Machine.execTkdrain d a s
  | .tkstat d a => Sys2Proof.Machine.execTkstat d a s
  | .red op w32 a t => Sys2Proof.Machine.execRed op w32 a t s
  | .capgive d a t => Sys2Proof.Machine.execCapgive d a t s
  | .captake a t => Sys2Proof.Machine.execCaptake a t s
  | .capq d a => Sys2Proof.Machine.execCapq d a s
  | .capmode atomic a t => Sys2Proof.Machine.execCapmode atomic a t s
  | .vadd f d a b m => Sys2Proof.Machine.execVadd f d a b m s
  | .vsub f d a b m => Sys2Proof.Machine.execVsub f d a b m s
  | .vmul f d a b m => Sys2Proof.Machine.execVmul f d a b m s
  | .vfma f d a b m => Sys2Proof.Machine.execVfma f d a b m s
  | .vmin f d a b m => Sys2Proof.Machine.execVmin f d a b m s
  | .vmax f d a b m => Sys2Proof.Machine.execVmax f d a b m s
  | .vabs f d a m => Sys2Proof.Machine.execVabs f d a m s
  | .vneg f d a m => Sys2Proof.Machine.execVneg f d a m s
  | .vexp2 f d a m => Sys2Proof.Machine.execVexp2 f d a m s
  | .vrcp f d a m => Sys2Proof.Machine.execVrcp f d a m s
  | .vrsq f d a m => Sys2Proof.Machine.execVrsq f d a m s
  | .vlog2 f d a m => Sys2Proof.Machine.execVlog2 f d a m s
  | .vred op f d a m => Sys2Proof.Machine.execVred op f d a m s
  | .vscan op f d a m => Sys2Proof.Machine.execVscan op f d a m s
  | .vcmp c f k a b m => Sys2Proof.Machine.execVcmp c f k a b m s
  | .viadd f d a b m => Sys2Proof.Machine.execViadd f d a b m s
  | .visub f d a b m => Sys2Proof.Machine.execVisub f d a b m s
  | .vimul f d a b m => Sys2Proof.Machine.execVimul f d a b m s
  | .vand f d a b m => Sys2Proof.Machine.execVand f d a b m s
  | .vor f d a b m => Sys2Proof.Machine.execVor f d a b m s
  | .vxor f d a b m => Sys2Proof.Machine.execVxor f d a b m s
  | .vshl f d a b m => Sys2Proof.Machine.execVshl f d a b m s
  | .vshr f d a b m => Sys2Proof.Machine.execVshr f d a b m s
  | .vsar f d a b m => Sys2Proof.Machine.execVsar f d a b m s
  | .vimin f d a b m => Sys2Proof.Machine.execVimin f d a b m s
  | .vimax f d a b m => Sys2Proof.Machine.execVimax f d a b m s
  | .vsel f d a b m => Sys2Proof.Machine.execVsel f d a b m s
  | .vshuf f d a b m => Sys2Proof.Machine.execVshuf f d a b m s
  | .vbcast f d rs m => Sys2Proof.Machine.execVbcast f d rs m s
  | .vmovg f d a ri => Sys2Proof.Machine.execVmovg f d a ri s
  | .vlane f d rs ri => Sys2Proof.Machine.execVlane f d rs ri s
  | .vmask f k a => Sys2Proof.Machine.execVmask f k a s
  | .vargx f d a isMax m => Sys2Proof.Machine.execVargx f d a isMax m s
  | .vrng d b rs m => Sys2Proof.Machine.execVrng d b rs m s
  | .vcvt decode f d a n rm => Sys2Proof.Machine.execVcvt decode f d a n rm s
  | .vquant f d a n m => Sys2Proof.Machine.execVquant f d a n m s
  | .vdeq f d a n m => Sys2Proof.Machine.execVdeq f d a n m s
  | .mzero fp32 z => Sys2Proof.Machine.execMzero fp32 z s
  | .mma z l a => Sys2Proof.Machine.execMma z l a s
  | .mldb l a => Sys2Proof.Machine.execMldb l a s
  | .mrot l x => Sys2Proof.Machine.execMrot l x s
  | .mstz z a => Sys2Proof.Machine.execMstz z a s
  | .mldz z a => Sys2Proof.Machine.execMldz z a s
  | .msub x a g w => Sys2Proof.Machine.execMsub x a g w s
  | .mpost a g => Sys2Proof.Machine.execMpost a g s
  | .munsub x => Sys2Proof.Machine.execMunsub x s
  | .mpois g z l => Sys2Proof.Machine.execMpois g z l s
  | .mwait x g => Sys2Proof.Machine.execMwait x g s
  | .coll a => Sys2Proof.Machine.execColl a s
  | .collwait d a => Sys2Proof.Machine.execCollwait d a s
  | .kcmd d a t => Sys2Proof.Machine.execKcmd d a t s
  | .kstat d a => Sys2Proof.Machine.execKstat d a s
  | .trap n => Sys2Proof.Machine.execTrap n s
  | .sysr d n => Sys2Proof.Machine.execSysr d n s
  | .sysw rs n => Sys2Proof.Machine.execSysw rs n s
  | .sysx d rs n => Sys2Proof.Machine.execSysx d rs n s
  | .tlbinv rs kind scope => Sys2Proof.Machine.execTlbinv rs kind scope s
  | .kill d rs => Sys2Proof.Machine.execKill d rs s
  | .sigrd d n => Sys2Proof.Machine.execSigrd d n s
  | .holdWireArrival tile => Sys2Proof.Machine.execHoldWireArrival tile s
  | .holdBegin part => Sys2Proof.Machine.execHoldBegin part s
  | .holdRelease part => Sys2Proof.Machine.execHoldRelease part s
  | .torusPacketHop id => Sys2Proof.Machine.execTorusPacketHop id s
  | .scrubLine tile line => Sys2Proof.Machine.execScrubLine tile line s
  | .vectorCompletion tile => Sys2Proof.Machine.execVectorCompletion tile s
  | .matrixCompletion tile => Sys2Proof.Machine.execMatrixCompletion tile s
  | .lateFaultDelivery t => Sys2Proof.Machine.execLateFaultDelivery t s
  | .wakeArrival t => Sys2Proof.Machine.execWakeArrival t s
  | .waitTimeout t => Sys2Proof.Machine.execWaitTimeout t s
  | .guestAdmit tile => Sys2Proof.Machine.execGuestAdmit tile s
  | .nodePlacement part => Sys2Proof.Machine.execNodePlacement part s
  | .taskStart tile => Sys2Proof.Machine.execTaskStart tile s
  | .footprintResident tile => Sys2Proof.Machine.execFootprintResident tile s
  | .footprintPrefetch tile => Sys2Proof.Machine.execFootprintPrefetch tile s
  | .predicateCheck part node => Sys2Proof.Machine.execPredicateCheck part node s
  | .successorRelease part node => Sys2Proof.Machine.execSuccessorRelease part node s
  | .graphReportWrite part => Sys2Proof.Machine.execGraphReportWrite part s
  | .delivNodeDelivery tile node => Sys2Proof.Machine.execDelivNodeDelivery tile node s
  | .spawnArrival m => Sys2Proof.Machine.execSpawnArrival m s
  | .messageArrival m => Sys2Proof.Machine.execMessageArrival m s
  | .undeliverableReturn m => Sys2Proof.Machine.execUndeliverableReturn m s
  | .redirectNotice tile tag old new_ => Sys2Proof.Machine.execRedirectNotice tile tag old new_ s
  | .crossoverStream tile => Sys2Proof.Machine.execCrossoverStream tile s
  | .crossoverResume tile target => Sys2Proof.Machine.execCrossoverResume tile target s
  | .crossoverAck tile target => Sys2Proof.Machine.execCrossoverAck tile target s
  | .forwardingExpiry tile tag => Sys2Proof.Machine.execForwardingExpiry tile tag s
  | .stealRequest tile victim => Sys2Proof.Machine.execStealRequest tile victim s
  | .stealAnswer tile victim => Sys2Proof.Machine.execStealAnswer tile victim s
  | .stealRetry tile => Sys2Proof.Machine.execStealRetry tile s
  | .graceExpiry part lead => Sys2Proof.Machine.execGraceExpiry part lead s
  | .spillResume part tag => Sys2Proof.Machine.execSpillResume part tag s
  | .boundaryArrival tile => Sys2Proof.Machine.execBoundaryArrival tile s
  | .boundaryBegin part => Sys2Proof.Machine.execBoundaryBegin part s
  | .boundaryService part => Sys2Proof.Machine.execBoundaryService part s
  | .launchDescriptor queue d => Sys2Proof.Machine.execLaunchDescriptor queue d s
  | .liftDoorbell queue tail => Sys2Proof.Machine.execLiftDoorbell queue tail s
  | .liftNoticeWrite queue => Sys2Proof.Machine.execLiftNoticeWrite queue s
  | .pageWalk r => Sys2Proof.Machine.execPageWalk r s
  | .faultRingCopy part => Sys2Proof.Machine.execFaultRingCopy part s
  | .fltdoneRetry part idx => Sys2Proof.Machine.execFltdoneRetry part idx s
  | .fltdoneFail part idx => Sys2Proof.Machine.execFltdoneFail part idx s
  | .dirtyLogMerge tile => Sys2Proof.Machine.execDirtyLogMerge tile s
  | .wcLineDrain tile => Sys2Proof.Machine.execWcLineDrain tile s
  | .remoteDeviceLost dev => Sys2Proof.Machine.execRemoteDeviceLost dev s
  | .loadResponse r => Sys2Proof.Machine.execLoadResponse r s
  | .storeAtHome r => Sys2Proof.Machine.execStoreAtHome r s
  | .feAtHome r => Sys2Proof.Machine.execFeAtHome r s
  | .atomicAtHome r => Sys2Proof.Machine.execAtomicAtHome r s
  | .atomicAnswer t dest ret a => Sys2Proof.Machine.execAtomicAnswer t dest ret a s
  | .ticketUpdateArrival r => Sys2Proof.Machine.execTicketUpdateArrival r s
  | .windowInstall home window => Sys2Proof.Machine.execWindowInstall home window s
  | .acopyStart tile => Sys2Proof.Machine.execAcopyStart tile s
  | .acopyChunkLand tile => Sys2Proof.Machine.execAcopyChunkLand tile s
  | .collCompletion id => Sys2Proof.Machine.execCollCompletion id s
  | .barrierCompletion tile kind => Sys2Proof.Machine.execBarrierCompletion tile kind s
  | .infuserPostAdmit tile => Sys2Proof.Machine.execInfuserPostAdmit tile s
  | .streamTileDelivery id => Sys2Proof.Machine.execStreamTileDelivery id s
  | .mrotExchange tile => Sys2Proof.Machine.execMrotExchange tile s
  | .rotationLost tile => Sys2Proof.Machine.execRotationLost tile s
  | .frameIngress f => Sys2Proof.Machine.execFrameIngress f s
  | .frameRetransmit port owner seq => Sys2Proof.Machine.execFrameRetransmit port owner seq s
  | .revokeComplete part exp => Sys2Proof.Machine.execRevokeComplete part exp s
  | .revokedNotice part window => Sys2Proof.Machine.execRevokedNotice part window s
  | .remoteRequest r => Sys2Proof.Machine.execRemoteRequest r s
  | .uncorrectableError e => Sys2Proof.Machine.execUncorrectableError e s
  | .correctableError u => Sys2Proof.Machine.execCorrectableError u s
  | .faultWindowLapse u => Sys2Proof.Machine.execFaultWindowLapse u s
  | .ctndoneContinue idx => Sys2Proof.Machine.execCtndoneContinue idx s
  | .ctndoneRerun idx => Sys2Proof.Machine.execCtndoneRerun idx s
  | .ctndoneKill idx => Sys2Proof.Machine.execCtndoneKill idx s
  | .killPacketArrival tag tile => Sys2Proof.Machine.execKillPacketArrival tag tile s
  | .avalancheSweepEnd tag tile => Sys2Proof.Machine.execAvalancheSweepEnd tag tile s
  | .avalancheConfirm tag => Sys2Proof.Machine.execAvalancheConfirm tag s
  | .twinTimeout t => Sys2Proof.Machine.execTwinTimeout t s
  | .digestCompare part node => Sys2Proof.Machine.execDigestCompare part node s
  | .partnerWaitExpiry part node => Sys2Proof.Machine.execPartnerWaitExpiry part node s
  | .kettleCommandStart unit => Sys2Proof.Machine.execKettleCommandStart unit s
  | .kettleLine unit => Sys2Proof.Machine.execKettleLine unit s
  | .kettleCommandComplete unit => Sys2Proof.Machine.execKettleCommandComplete unit s
  | .linkRetrain link => Sys2Proof.Machine.execLinkRetrain link s
  | .linkRetrainDone link ok => Sys2Proof.Machine.execLinkRetrainDone link ok s
  | .illegalInstruction w => Sys2Proof.Machine.execIllegalInstruction w s
  | .fetchFault b => Sys2Proof.Machine.execFetchFault b s
  | .hostHbmAccess a => Sys2Proof.Machine.execHostHbmAccess a s
  | .imageSlotWrite slot img => Sys2Proof.Machine.execImageSlotWrite slot img s
  | .texit => Sys2Proof.Machine.execTexit s
  | .yield => Sys2Proof.Machine.execYield s
  | .monclr => Sys2Proof.Machine.execMonclr s
  | .kfence => Sys2Proof.Machine.execKfence s
  | .eret => Sys2Proof.Machine.execEret s
  | .halt => Sys2Proof.Machine.execHalt s
  | .dlogh => Sys2Proof.Machine.execDlogh s
  | .roleChangeGo => Sys2Proof.Machine.execRoleChangeGo s
  | .roleChangeAbort => Sys2Proof.Machine.execRoleChangeAbort s
  | .drainLimitExpiry => Sys2Proof.Machine.execDrainLimitExpiry s
  | .roleFlush => Sys2Proof.Machine.execRoleFlush s
  | .roleRetire => Sys2Proof.Machine.execRoleRetire s
  | .roleReenumerate => Sys2Proof.Machine.execRoleReenumerate s
  | .roleReadmit => Sys2Proof.Machine.execRoleReadmit s
  | .grqtWrite => Sys2Proof.Machine.execGrqtWrite s
  | .rlogResume => Sys2Proof.Machine.execRlogResume s
  | .rlogDivClear => Sys2Proof.Machine.execRlogDivClear s
  | .bkeccWrite => Sys2Proof.Machine.execBkeccWrite s
  | .winOpenImport => Sys2Proof.Machine.execWinOpenImport s
  | .winCloseImport => Sys2Proof.Machine.execWinCloseImport s
  | .winOpenExport => Sys2Proof.Machine.execWinOpenExport s
  | .winRevokeExport => Sys2Proof.Machine.execWinRevokeExport s
  | .barctlWrite => Sys2Proof.Machine.execBarctlWrite s
  | .containmentRecordWrite => Sys2Proof.Machine.execContainmentRecordWrite s
  | .flogClear => Sys2Proof.Machine.execFlogClear s
  | .sensorSample => Sys2Proof.Machine.execSensorSample s
  | .droopStretch => Sys2Proof.Machine.execDroopStretch s
  | .powerOnBoot => Sys2Proof.Machine.execPowerOnBoot s
  | .attestGo => Sys2Proof.Machine.execAttestGo s
  | .attestComplete => Sys2Proof.Machine.execAttestComplete s
  | .keyExchange => Sys2Proof.Machine.execKeyExchange s
  | .keySwitch => Sys2Proof.Machine.execKeySwitch s
  | .keySetV => Sys2Proof.Machine.execKeySetV s
  | .keyClear => Sys2Proof.Machine.execKeyClear s
  | .rlogtWrite => Sys2Proof.Machine.execRlogtWrite s
  | .quantaBegin => Sys2Proof.Machine.execQuantaBegin s

end Sys2Proof.Machine
end

