-- ==== Sys2Proof/Machine/Twins.lean ====
section
/-! DEFINITION. The trailing twins of thread-redundant tasks: what the leading twin hands on, and how the trailing one
goes on (R46, R47, R277). -/

namespace Sys2Proof.Machine

/-! ### What the leading twin hands on (R46) -/

/-- What a thread's registers hold after a step that they did not before it. -/
def regWrites (a b : Thread) : List RegWrite :=
  ((List.finRange 64).filterMap fun r => if a.g[r] = b.g[r] then none else some (.g r b.g[r])) ++
  ((List.finRange 16).filterMap fun r => if a.a[r] = b.a[r] then none else some (.a r b.a[r])) ++
  (if a.p = b.p then [] else [.p b.p]) ++
  ((List.finRange 8).filterMap fun r => if a.k[r] = b.k[r] then none else some (.k r b.k[r])) ++
  ((List.finRange 32).filterMap fun r => if a.v[r] = b.v[r] then none else some (.v r b.v[r])) ++
  (if b.fstat &&& ~~~a.fstat = 0 then [] else [.fstat (b.fstat &&& ~~~a.fstat)])

def Thread.write (th : Thread) : RegWrite → Thread
  | .g r x => th.setG r x
  | .a r x => th.setA r x
  | .p x => { th with p := x }
  | .k r x => th.setK r x
  | .v r x => th.setV r x
  | .fstat x => th.raise x

/-- The level whose handler a step entered in a thread, where it took a trap: one that retires nothing. -/
def tookTrap (a b : Thread) : Option Priv :=
  if a.retired ≠ b.retired then none
  else if b.stw.nest && !a.stw.nest then some .steward
  else if b.sup.nest && !a.sup.nest then some .supervisor
  else none

/-- The instruction that a leading twin executed in a step and that each twin executes for itself. -/
def State.ownNow (s : State) (c : Option Choice) (t : ThreadId) : Option Instr :=
  match c with
  | some (.thread u) =>
    if u = t then
      match s.fetch t with
      | .insn i => if twinOwn i then some i else none
      | _ => none
    else none
  | _ => none

/-- What the step from `s` to `u`, in which `c` was chosen, hands to the trailing twin of a leading slot: nothing where the leading twin neither
retired an instruction nor took a trap. -/
def State.handsOn (s : State) (c : Option Choice) (u : State) (t : ThreadId) : Option TwinEntry :=
  let a := s.thread t
  let b := u.thread t
  match tookTrap a b with
  | some l => some (.trap l (b.bank l) b.pc)
  | none =>
    if a.retired = b.retired then none
    else
      match s.ownNow c t with
      | some i => some (.own i)
      | none => some (.value (regWrites a b) b.pc)

/-- One pair after a step: a trailing twin starts with its leading one and ends with it; what the leading twin has passed
is handed on; one that waits for its trailing twin does so for 2^16 tc, and where both stand at one instruction and
disagree they diverge (R79, R277). -/
def State.feedPair (s : State) (c : Option Choice) (u : State) (t : ThreadId) : State :=
  let a := s.thread t
  let b := u.thread t
  let w := u.thread (trailTwin t)
  if !helperLive b.st then
    if w.st = .free then u
    else ((u.setThread (trailTwin t) Thread.zero).modTile t.tile (·.detach (trailTwin t).slot)).modTwin t fun _ => Twin.zero
  else if !helperLive a.st then
    if w.st = .free then (u.setThread (trailTwin t) b).modTwin t fun _ => Twin.zero else u
  else
    let u := match s.handsOn c u t with
      | some e => u.modTwin t fun q => { q with lvq := q.lvq ++ [e] }
      | none => u
    let waits := b.st == .held && !(u.twin t).lvq.isEmpty
    let parts := b.st == .held && (u.twin t).lvq.isEmpty && (match u.fetch t with
      | .insn i => twinOnce i && !u.mustWait t i && !u.mustWait (trailTwin t) i && !u.twinsAgree t i
      | _ => false)
    u.modTwin t fun q =>
      { q with
        limit := if waits then some (q.limit.getD (u.tc t.tile + 2 ^ 16)) else none
        bad := q.bad || parts }

/-! ### The matrix unit (R47) -/

/-- A tile with the matrix registers of the twins exchanged: z0, z1 and l0 with z2, z3 and l1. -/
def Tile.swapTwins (t : Tile) : Tile :=
  { t with z := #v[t.z[2], t.z[3], t.z[0], t.z[1]], l := #v[t.l[1], t.l[0]] }

/-- The matrix registers of the trailing twins after an event: an instruction of the unit acts on those of both, and a latch
that arrives is both twins' (R413). -/
def State.feedMatrix (s u : State) (tile : Nat) (e : Instr) : State :=
  if e = .matrixCompletion tile then
    match exec e (s.tick.modTile tile Tile.swapTwins) with
    | .next v =>
      let o := v.tile tile
      u.modTile tile fun t => { t with z := #v[t.z[0], t.z[1], o.z[0], o.z[1]], l := #v[t.l[0], o.l[0]] }
    | _ => u
  else if (u.tile tile).l[0] = (s.tile tile).l[0] then u
  else u.modTile tile fun t => { t with l := #v[t.l[0], t.l[0]] }

/-- The trailing twins' share of an event of the matrix unit: what it writes to a g register or FSTAT both twins receive. -/
def State.feedUnit (s : State) (c : Option Choice) (u : State) (tile : Nat) : State :=
  match c with
  | some (.event p) =>
    if p.ev = .vectorCompletion tile then u
    else
      (List.range 5).foldl (fun u i =>
        let t : ThreadId := { tile := tile, slot := i }
        let a := s.thread t
        let b := u.thread t
        if helperLive a.st && helperLive b.st && a.retired = b.retired && (tookTrap a b).isNone then
          u.modThread (trailTwin t) fun th => (regWrites a b).foldl Thread.write th
        else u) (s.feedMatrix u tile p.ev)
  | _ => u

/-- What a step from `s` that made the choice `c` and came to `u` leaves for the trailing twins of the tasks that run thread-redundant. -/
def State.feedTwins (s : State) (c : Option Choice) (u : State) : State :=
  (u.tiles.filter fun e => u.paired e.1).foldl (fun v e =>
    (List.range 5).foldl (fun v i => s.feedPair c v { tile := e.1, slot := i }) (s.feedUnit c v e.1)) u

/-! ### The trailing twin's issue (R46, R277) -/

/-- A trailing twin whose instruction or trap is not its leading twin's: the pair diverges. -/
def State.parted (s : State) (t : ThreadId) : State := s.modTwin (leadTwin t) fun q => { q with bad := true }

/-- Whether the trailing twin's own execution of the instruction at its pc would take a trap with another CAUSE or TVAL
than its leading twin's (R277). -/
def State.trapsApart (s : State) (t : ThreadId) (l : Priv) (b : TrapBank) : Bool :=
  match s.fetch t with
  | .insn i =>
    match exec i s with
    | .next u =>
      (tookTrap (s.thread t) (u.thread t)).isSome &&
      (((u.thread t).bank l).code ≠ b.code || ((u.thread t).bank l).tval ≠ b.tval)
    | _ => false
  | _ => false

/-- A trailing twin goes on by one entry: it executes an instruction of its own, takes the results of one from the
load-value queue, or takes the leading twin's trap at the pc where it was taken. Nothing of it leaves the tile. -/
def trail (s : State) (t : ThreadId) : Host.Outcome State Fault Refusal :=
  let q := s.twin (leadTwin t)
  match q.lvq with
  | [] => .next s.held
  | e :: rest =>
    let s' := s.modTwin (leadTwin t) fun q => { q with lvq := rest }
    match e with
    | .own i =>
      if s.mustWait t i then .next s.held
      else
        match exec i s' with
        | .next u =>
          if (u.thread t).retired ≠ (s.thread t).retired then .next u
          else if (u.thread t).st = .held then .next s.held
          else .next (s'.parted t)
        | _ => .next (s'.parted t)
    | .value ws pc => .next ((s'.modThread t fun th => ws.foldl Thread.write th).retireTo t pc)
    | .trap l b pc =>
      if b.epc ≠ alignPc (s.thread t).pc || (!b.late && s.trapsApart t l b) then .next (s'.parted t)
      else .next (s'.modThread t fun th => { th.setBank l b with priv := l, pc := pc, st := .ready })

end Sys2Proof.Machine
end

