-- ==== Sys2Proof/Machine/Step.lean ====
section
/-! DEFINITION. One step of the device: the next event of the agenda, or the next instruction of a thread,
and the placing of an instruction where the next step fetches it. -/

namespace Sys2Proof.Machine

/-- An instruction or an event happens, and its outcome is recorded or matched where the log is on (R114). -/
def happen (e : Instr) (s : State) : Host.Outcome State Fault Refusal := logOutcome s e (exec e s)

/-- A thread issues: a late fault is taken first, an instruction that names a result not yet written is
held, and any other runs (R42, R260). A guest in slots 11 to 15 runs its operation (R40), and a trailing twin follows its
leading one (R46). -/
def attempt (s : State) (t : ThreadId) : Host.Outcome State Fault Refusal :=
  if 11 ≤ t.slot then
    match s.guestIn t with
    | some r => happen (.atomicAtHome r) { s with src := r.tid.tile }
    | none => .next s
  else if s.trails t then trail s t
  else if s.lateNow t then happen (.lateFaultDelivery t) s
  else
    match s.fetchSends t with
    | none => .next s.held
    | some s =>
    match s.fetch t with
    | .stray pa => .fault (.noSuchStorage pa)
    | .bad b => happen (.fetchFault b) s
    | .illegal w => happen (.illegalInstruction w) s
    | .insn i =>
      match s.before t i with
      | .wait => .next s.held
      | .late => happen (.lateFaultDelivery t) s
      | .run => happen i s

/-- A thread's turn in the barrel's rotation (R43). -/
def issue (s : State) (t : ThreadId) : Host.Outcome State Fault Refusal :=
  match attempt (s.turn t) t with
  | .next s' => .next (s'.issued t)
  | o => o

/-- What the choice made does, when time has passed; where nothing can happen, only time passes. -/
def chosen (s : State) : Host.Outcome State Fault Refusal :=
  match s.choose with
  | none => .next s.tick
  | some (.event p) =>
    match s.sends p with
    | some s' => .next s'.tick
    | none =>
    let s := { (s.takeEvent p).tick.retried with src := (eventTile p.ev).getD s.src }
    match s.floorDrops p.ev with
    | some s' => .next s'
    | none => happen p.ev s
  | some (.thread t) => issue s.tick t

/-- One step, after which trailing twins have what their leading ones hand on (R46): a step that meets storage that does
not exist ends in the fault, whatever met it. -/
def step (s : State) : Host.Outcome State Fault Refusal :=
  match chosen s with
  | .next t => ends (s.feedTwins s.choose t)
  | o => o

/-- `s` with an instruction's bits where the next step fetches (see `Placing.lean`). -/
def State.withFetchWord (s : State) (nbits w : Nat) : State := s.placeWord nbits w

end Sys2Proof.Machine
end

