-- ==== Sys2Proof/Safety.lean ====
section
/-! DEFINITION. What a safe run is: one that never meets storage that does not exist and never meets an
instruction without a meaning, the only two ways the machine stops. And the words in which the claims say what an
instruction leaves unchanged. -/

namespace Sys2Proof

/-- A step of the machine goes on. -/
def goesOn (s : Machine.State) : Prop := ∃ t, Machine.step s = .next t

/-- The first `k` steps from a state all go on. -/
def SafeFor : Nat → Machine.State → Prop
  | 0, _ => True
  | k + 1, s => ∃ t, Machine.step s = .next t ∧ SafeFor k t

/-- Every step of every length from a state goes on. -/
def Safe (s : Machine.State) : Prop := ∀ k, SafeFor k s

end Sys2Proof

namespace Sys2Proof.Claim

open Sys2Proof.Machine

/-- `t` is `s` but for thread `x`, its slot and its tile's count of retired instructions: every other thread,
every other tile, every unit of the tile, every byte and everything else is as before. -/
structure OnlyThread (s t : State) (x : ThreadId) : Prop where
  rest   : t = { s with tiles := t.tiles }
  bytes  : ∀ c, t.byte c = s.byte c
  others : ∀ y, y ≠ x → t.thread y = s.thread y
  tiles  : ∀ n, n ≠ x.tile → t.tile n = s.tile n
  tile   : t.tile x.tile =
    { s.tile x.tile with slots := (t.tile x.tile).slots, retired := (t.tile x.tile).retired }

/-- The executing instruction has retired: `th` is the executing thread with the results written, and nothing
but that thread and its tile's count of retired instructions has changed. The thread is ready at `pc`, and its
retired instructions are one more (R296); every register that `th` does not change is as before. -/
structure Retires (s t : State) (th : Thread) (pc : Pc) : Prop where
  only  : OnlyThread s t s.cur
  me    : t.me = th.retireTo pc (s.counts? s.cur)
  count : t.myTile.retired = s.myTile.retired + 1

/-- The executing thread has entered the handler of level `h` with a cause and a TVAL (R254), and nothing else
has changed. -/
structure Enters (s t : State) (h : Priv) (cause : Nat) (tval : Word) : Prop where
  only  : OnlyThread s t s.cur
  me    : t.me = s.me.enter h (s.trapBase s.cur h) cause tval false
  count : t.myTile.retired = s.myTile.retired

/-- The level that an exact trap of the executing thread goes to, TRAP apart (R252). -/
def target (s : State) : Priv :=
  match s.me.priv with
  | .steward => .steward
  | _ => .supervisor

/-- The handler of that level can take a trap: TRAPBASE.V is 1 and TSTAT.NEST is 0 (R254). -/
def CanTrap (s : State) : Prop := s.trapReady s.cur (target s) = true

/-- The pc of the next word, and of the word after a pair. -/
def next4 (s : State) : Pc := s.me.pc + 4#51

end Sys2Proof.Claim
end

