-- ==== Sys2Proof/Certificates/Slice0/Obligations.lean ====
section
/-! DEFINITION. The statements for the provers, and the words they are written in (`Sys2Proof.Claim`). -/

open Sys2Proof Sys2Proof.Machine

open Sys2Proof.Claim

namespace Sys2Proof.Claim
/-- Bits 31:0 sign-extended (R302). -/
def low32 (v : Word) : Word := (v.truncate 32).signExtend 64

/-- The 64-bit or the 32-bit form of a result. -/
def form (w : Bool) (v : Word) : Word := if w then low32 v else v

/-- The destination and the result that the rules of the register and immediate forms of the scalar instructions
give (R302, R309, R341, R359, R379, R392 to R394). -/
def scalarResult (th : Thread) : Instr → Option (GReg × Word)
  | .add d s t w => some (d, form w (th.getG s + th.getG t))
  | .sub d s t w => some (d, form w (th.getG s - th.getG t))
  | .mul d s t w => some (d, form w (th.getG s * th.getG t))
  | .and d s t => some (d, th.getG s &&& th.getG t)
  | .or d s t => some (d, th.getG s ||| th.getG t)
  | .xor d s t => some (d, th.getG s ^^^ th.getG t)
  | .shl d s t w => some (d, form w (th.getG s <<< ((th.getG t).toNat % (if w then 32 else 64))))
  | .shr d s t w => some (d,
      if w then (((th.getG s).truncate 32 : BitVec 32) >>> ((th.getG t).toNat % 32)).signExtend 64
      else th.getG s >>> ((th.getG t).toNat % 64))
  | .sar d s t w => some (d, (form w (th.getG s)).sshiftRight ((th.getG t).toNat % (if w then 32 else 64)))
  | .min d s t u => some (d,
      if (if u then (th.getG s).toNat ≤ (th.getG t).toNat else (th.getG s).toInt ≤ (th.getG t).toInt)
      then th.getG s else th.getG t)
  | .max d s t u => some (d,
      if (if u then (th.getG t).toNat ≤ (th.getG s).toNat else (th.getG t).toInt ≤ (th.getG s).toInt)
      then th.getG s else th.getG t)
  | .clz d s => some (d,
      BitVec.ofNat 64 ((List.range 64).takeWhile fun i => !(th.getG s).getLsbD (63 - i)).length)
  | .popc d s => some (d, BitVec.ofNat 64 ((List.range 64).map fun i => ((th.getG s).getLsbD i).toNat).sum)
  | .sel d p s t => some (d, if th.getP p then th.getG s else th.getG t)
  | .mov d s => some (d, th.getG s)
  | .addi d s i => some (d, th.getG s + i.signExtend 64)
  | .andi d s i => some (d, th.getG s &&& i.signExtend 64)
  | .ori d s i => some (d, th.getG s ||| i.signExtend 64)
  | .xori d s i => some (d, th.getG s ^^^ i.signExtend 64)
  | .shli d s w n => some (d, form w (th.getG s <<< n.toNat))
  | .shri d s w n => some (d,
      if w then (((th.getG s).truncate 32 : BitVec 32) >>> n.toNat).signExtend 64 else th.getG s >>> n.toNat)
  | .sari d s w n => some (d, (form w (th.getG s)).sshiftRight n.toNat)
  | .lim d i => some (d, i.signExtend 64)
  | .limh d s i => some (d, ((i.signExtend 64 : Word) <<< 40) ||| (th.getG s &&& 0xFFFFFFFFFF#64))
  | .asub t d s => some (t, BitVec.ofInt 64 (((th.getA d).toNat % 2 ^ 51 : Int) - ((th.getA s).toNat % 2 ^ 51 : Int)))
  | .afld t s => some (t, th.getA s >>> 51)
  | .movag t s => some (t, th.getA s)
  | _ => none

end Sys2Proof.Claim

/-- For ADD, SUB, MUL, AND, OR, XOR, SHL, SHR, SAR, MIN, MAX, CLZ, POPC, SEL, MOV, ADDI, ANDI, ORI, XORI, SHLI,
SHRI, SARI, LIM, LIMH, ASUB, AFLD and MOVAG, in every form, state and well-formed operands: the instruction
completes; its destination holds the result that the rules give, computed from the registers as they were (g0
keeps reading 0); PC is 4 more; no other register, flag, special register, unit or byte changes. (R302, R309,
R341, R359, R379, R392, R393, R394, R337.) -/
def Obligations.ScalarResults : Prop :=
    ∀ (i : Instr) (s : State) (d : GReg) (v : Word), i.wf = true → scalarResult s.me i = some (d, v) →
    ∃ t, exec i s = .next t ∧ Retires s t (s.me.setG d v) (next4 s)

/-- MULH completes and its destination holds the high half of the exact product: high half times 2^64 plus the low
half (what MUL gives) is the product of the operands read signed (MULH), unsigned (MULH.u), or signed times
unsigned (MULH.su). Nothing but the destination, PC and the counts of retired instructions changes. (R359.) -/
def Obligations.MulhHighHalf : Prop :=
    ∀ (s : State) (d a b : GReg) (m : MulhMode), ∃ (t : State) (r : Word),
    exec (.mulh d a b m) s = .next t ∧ Retires s t (s.me.setG d r) (next4 s) ∧
    (match m with
      | .ss => r.toInt * 2 ^ 64 + ((s.g a * s.g b).toNat : Int) = (s.g a).toInt * (s.g b).toInt
      | .uu => r.toNat * 2 ^ 64 + (s.g a * s.g b).toNat = (s.g a).toNat * (s.g b).toNat
      | .su => r.toInt * 2 ^ 64 + ((s.g a * s.g b).toNat : Int) = (s.g a).toInt * ((s.g b).toNat : Int))

namespace Sys2Proof.Claim
/-- Whether a condition of CMP and CMPI holds (R353). -/
def holds (c : Cond) (x y : Word) : Bool :=
  match c with
  | .eq => decide (x = y)
  | .ne => decide (x ≠ y)
  | .lt => decide (x.toInt < y.toInt)
  | .ge => decide (y.toInt ≤ x.toInt)
  | .ltu => decide (x.toNat < y.toNat)
  | .geu => decide (y.toNat ≤ x.toNat)

end Sys2Proof.Claim

/-- With a divisor that is not 0, DIV writes the quotient rounded toward zero (signed or unsigned; −2^63 ÷ −1 gives
−2^63) and REM the remainder with the dividend's sign, and nothing else changes. With a divisor of 0 and a
handler that can take the trap, both enter the handler with integer-divide-by-zero (0x0C) and TVAL = the
dividend, and no other register changes. CMP and CMPI set pd to whether their condition holds between gs and gt,
or gs and the sign-extended immediate; PLOG sets pd to bit (2 × pa + pb) of its table. A write to p0 is
discarded, and p0 reads 1. Every other predicate and register keeps its value, no byte changes, and PC is 4
more. (R302, R359, R257, R353, R395, R294.) -/
def Obligations.DivisionAndPredicates : Prop :=
    (∀ (s : State) (d a b : GReg), s.g b ≠ 0 →
      (∃ t, exec (.div d a b true) s = .next t ∧
        Retires s t (s.me.setG d (BitVec.ofNat 64 ((s.g a).toNat / (s.g b).toNat))) (next4 s)) ∧
      (∃ t, exec (.rem d a b true) s = .next t ∧
        Retires s t (s.me.setG d (BitVec.ofNat 64 ((s.g a).toNat % (s.g b).toNat))) (next4 s)) ∧
      (∃ t, exec (.div d a b false) s = .next t ∧
        Retires s t (s.me.setG d (BitVec.ofInt 64 ((s.g a).toInt.tdiv (s.g b).toInt))) (next4 s)) ∧
      (∃ t, exec (.rem d a b false) s = .next t ∧
        Retires s t (s.me.setG d (BitVec.ofInt 64 ((s.g a).toInt.tmod (s.g b).toInt))) (next4 s))) ∧
    (∀ (s : State) (d a b : GReg) (u : Bool), s.g b = 0 → CanTrap s →
      (∃ t, exec (.div d a b u) s = .next t ∧ Enters s t (target s) 0x0C (s.g a)) ∧
      (∃ t, exec (.rem d a b u) s = .next t ∧ Enters s t (target s) 0x0C (s.g a))) ∧
    (∀ (s : State) (p : PReg) (c : Cond) (a b : GReg), ∃ t, exec (.cmp p c a b) s = .next t ∧
      Retires s t (s.me.setP p (holds c (s.g a) (s.g b))) (next4 s)) ∧
    (∀ (s : State) (p : PReg) (c : Cond) (a : GReg) (i : BitVec 14), ∃ t, exec (.cmpi p c a i) s = .next t ∧
      Retires s t (s.me.setP p (holds c (s.g a) (i.signExtend 64))) (next4 s)) ∧
    (∀ (s : State) (d a b : PReg) (tt : BitVec 4), ∃ t, exec (.plog d a b tt) s = .next t ∧
      Retires s t (s.me.setP d (tt.getLsbD (2 * (s.me.getP a).toNat + (s.me.getP b).toNat))) (next4 s)) ∧
    (∀ (th : Thread) (p q : PReg) (v : Bool),
      (th.setP p v).getP q = if q = 0 then true else if q = p then v else th.getP q)

/-- When the word after EXT is ADDI, ANDI, ORI, XORI, LIM, LIMH or CMPI, the pair does what that instruction does
with the immediate sext(imm26 << 14 | imm14, 40), retires once, and PC is 8 more. When it is any other word, the
pair raises illegal-instruction (0x02) at the EXT with TVAL = the second word. (R301.) -/
def Obligations.ExtPairs : Prop :=
    (∀ (s : State) (e : BitVec 26) (w2 : InsnWord) (i : Instr), decodeWord w2.toNat 0 = some i →
      (match i with
        | .addi d a k => ∃ t, exec (.ext e w2) s = .next t ∧
            Retires s t (s.me.setG d (s.g a + (e ++ k).signExtend 64)) (s.me.pc + 8#51)
        | .andi d a k => ∃ t, exec (.ext e w2) s = .next t ∧
            Retires s t (s.me.setG d (s.g a &&& (e ++ k).signExtend 64)) (s.me.pc + 8#51)
        | .ori d a k => ∃ t, exec (.ext e w2) s = .next t ∧
            Retires s t (s.me.setG d (s.g a ||| (e ++ k).signExtend 64)) (s.me.pc + 8#51)
        | .xori d a k => ∃ t, exec (.ext e w2) s = .next t ∧
            Retires s t (s.me.setG d (s.g a ^^^ (e ++ k).signExtend 64)) (s.me.pc + 8#51)
        | .lim d k => ∃ t, exec (.ext e w2) s = .next t ∧
            Retires s t (s.me.setG d ((e ++ k).signExtend 64)) (s.me.pc + 8#51)
        | .limh d a k => ∃ t, exec (.ext e w2) s = .next t ∧
            Retires s t (s.me.setG d ((((e ++ k).signExtend 64 : Word) <<< 40) ||| (s.g a &&& 0xFFFFFFFFFF#64)))
              (s.me.pc + 8#51)
        | .cmpi p c a k => ∃ t, exec (.ext e w2) s = .next t ∧
            Retires s t (s.me.setP p (holds c (s.g a) ((e ++ k).signExtend 64))) (s.me.pc + 8#51)
        | _ => CanTrap s → ∃ t, exec (.ext e w2) s = .next t ∧
            Enters s t (target s) 0x02 (w2.zeroExtend 64))) ∧
    (∀ (s : State) (e : BitVec 26) (w2 : InsnWord), decodeWord w2.toNat 0 = none → CanTrap s →
      ∃ t, exec (.ext e w2) s = .next t ∧ Enters s t (target s) 0x02 (w2.zeroExtend 64))

/-- BR is taken when p xor n is 1 and goes to PC + 4 × off22, otherwise to PC + 4. JAL goes to PC + 4 × off20 and JR
to gs + 4 × imm14 (gs read before any write), both with gd := PC + 4. A target outside 0 to 2^51 − 1 raises
address-range (0x06) with TVAL = the target modulo 2^64; a JR target with bits 1:0 nonzero raises
misaligned-fetch (0x04) with TVAL = the target; then no register is written. (R302, R349, R368.) -/
def Obligations.BranchTargets : Prop :=
    (∀ (s : State) (p : PReg) (n : Bool) (off : BitVec 22),
      let go : Int := (s.me.pc.toNat : Int) + off.toInt * 4
      (s.me.getP p = n → ∃ t, exec (.br p n off) s = .next t ∧ Retires s t s.me (next4 s)) ∧
      (s.me.getP p ≠ n → 0 ≤ go → go < 2 ^ 51 →
        ∃ t, exec (.br p n off) s = .next t ∧ Retires s t s.me (BitVec.ofInt 51 go)) ∧
      (s.me.getP p ≠ n → go < 0 ∨ 2 ^ 51 ≤ go → CanTrap s →
        ∃ t, exec (.br p n off) s = .next t ∧ Enters s t (target s) 0x06 (BitVec.ofInt 64 go))) ∧
    (∀ (s : State) (d : GReg) (off : BitVec 20),
      let go : Int := (s.me.pc.toNat : Int) + off.toInt * 4
      (0 ≤ go → go < 2 ^ 51 → ∃ t, exec (.jal d off) s = .next t ∧
        Retires s t (s.me.setG d (BitVec.ofNat 64 (s.me.pc.toNat + 4))) (BitVec.ofInt 51 go)) ∧
      (go < 0 ∨ 2 ^ 51 ≤ go → CanTrap s →
        ∃ t, exec (.jal d off) s = .next t ∧ Enters s t (target s) 0x06 (BitVec.ofInt 64 go))) ∧
    (∀ (s : State) (d a : GReg) (i : BitVec 14),
      let go : Word := s.g a + (i.signExtend 64) * 4
      (go.toNat % 4 = 0 → go.toNat < 2 ^ 51 → ∃ t, exec (.jr d a i) s = .next t ∧
        Retires s t (s.me.setG d (BitVec.ofNat 64 (s.me.pc.toNat + 4))) (go.truncate 51)) ∧
      (go.toNat % 4 ≠ 0 → CanTrap s → ∃ t, exec (.jr d a i) s = .next t ∧ Enters s t (target s) 0x04 go) ∧
      (go.toNat % 4 = 0 → 2 ^ 51 ≤ go.toNat → CanTrap s →
        ∃ t, exec (.jr d a i) s = .next t ∧ Enters s t (target s) 0x06 go))

namespace Sys2Proof.Claim
/-- Bits 63:51 of `h` over an address (R122). -/
def overAddr (h : Word) (a : Nat) : Word := BitVec.ofNat 64 (h.toNat / 2 ^ 51 * 2 ^ 51 + a % 2 ^ 51)

/-- Bits 50:0 of a pointer. -/
def addr (p : Word) : Nat := p.toNat % 2 ^ 51

/-- Bytes of one block of a block-scaled pointer (R338). -/
def blockBytes (p : Word) : Nat := (fmtBits (p.toNat / 2 ^ 58)).getD 8 * 2 ^ (p.toNat / 2 ^ 54 % 16) / 8

end Sys2Proof.Claim

/-- AMK puts an address under the head of a pointer, AADD and AADDI add to bits 50:0 only, ATAG puts a head over an
address, MOVGA copies. AADDB moves a pointer and its scale pointer by whole blocks. Nothing else changes. A gt
of AMK with bits 63:51 raises address-range (0x06), one of ATAG with bits 63:13 invalid-operand (0x0B), a sum
outside 0 to 2^51 − 1 pointer-overflow (0x0A); AADDB on a pointer without a block scale, or whose scale pointer
breaks R125, raises format-invalid (0x09), by a part of a block misaligned (0x05). TVAL is the offending
operand. (R124, R125, R126, R337, R338, R257.) -/
def Obligations.PointerResults : Prop :=
    (∀ (s : State) (d a : AReg) (g : GReg),
      ((s.g g).toNat < 2 ^ 51 → ∃ t, exec (.amk d a g) s = .next t ∧
        Retires s t (s.me.setA d (overAddr (s.me.getA a) (s.g g).toNat)) (next4 s)) ∧
      (2 ^ 51 ≤ (s.g g).toNat → CanTrap s →
        ∃ t, exec (.amk d a g) s = .next t ∧ Enters s t (target s) 0x06 (s.g g)) ∧
      ((s.g g).toNat < 2 ^ 13 → ∃ t, exec (.atag d a g) s = .next t ∧
        Retires s t (s.me.setA d (BitVec.ofNat 64 ((s.g g).toNat * 2 ^ 51 + addr (s.me.getA a)))) (next4 s)) ∧
      (2 ^ 13 ≤ (s.g g).toNat → CanTrap s →
        ∃ t, exec (.atag d a g) s = .next t ∧ Enters s t (target s) 0x0B (s.g g)) ∧
      (∃ t, exec (.movga d g) s = .next t ∧ Retires s t (s.me.setA d (s.g g)) (next4 s))) ∧
    (∀ (s : State) (d a : AReg) (x : Int) (i : Instr),
      ((∃ g, i = .aadd d a g ∧ x = (s.g g).toInt) ∨ (∃ k : BitVec 18, i = .aaddi d a k ∧ x = k.toInt)) →
      (0 ≤ (addr (s.me.getA a) : Int) + x → (addr (s.me.getA a) : Int) + x < 2 ^ 51 →
        ∃ t, exec i s = .next t ∧
          Retires s t (s.me.setA d (overAddr (s.me.getA a) ((addr (s.me.getA a) : Int) + x).toNat)) (next4 s)) ∧
      ((addr (s.me.getA a) : Int) + x < 0 ∨ 2 ^ 51 ≤ (addr (s.me.getA a) : Int) + x → CanTrap s →
        ∃ t, exec i s = .next t ∧ Enters s t (target s) 0x0A (s.me.getA a))) ∧
    (∀ (s : State) (d a : AReg) (g : GReg), d.val < 15 → a.val < 15 →
      let p := s.me.getA a
      let q := s.me.getA (a + 1)
      let x : Int := (s.g g).toInt
      let b : Int := blockBytes p
      let scaled : Bool := decide (p.toNat / 2 ^ 54 % 16 ≠ 0) && fmtScales (p.toNat / 2 ^ 58) &&
        decide (q.toNat / 2 ^ 58 = 13 ∧ q.toNat / 2 ^ 54 % 16 = 0 ∧ q.toNat / 2 ^ 51 % 8 ≠ 6)
      let n : Int := (addr p : Int) + x
      let m : Int := (addr q : Int) + x.tdiv b
      (scaled = true → x.tmod b = 0 → 0 ≤ n → n < 2 ^ 51 → 0 ≤ m → m < 2 ^ 51 →
        ∃ t, exec (.aaddb d a g) s = .next t ∧
          Retires s t ((s.me.setA d (overAddr p n.toNat)).setA (d + 1) (overAddr q m.toNat)) (next4 s)) ∧
      (scaled = false → CanTrap s → ∃ t, exec (.aaddb d a g) s = .next t ∧ Enters s t (target s) 0x09 p) ∧
      (scaled = true → x.tmod b ≠ 0 → CanTrap s →
        ∃ t, exec (.aaddb d a g) s = .next t ∧ Enters s t (target s) 0x05 p) ∧
      (scaled = true → x.tmod b = 0 → n < 0 ∨ 2 ^ 51 ≤ n → CanTrap s →
        ∃ t, exec (.aaddb d a g) s = .next t ∧ Enters s t (target s) 0x0A p) ∧
      (scaled = true → x.tmod b = 0 → 0 ≤ n → n < 2 ^ 51 → m < 0 ∨ 2 ^ 51 ≤ m → CanTrap s →
        ∃ t, exec (.aaddb d a g) s = .next t ∧ Enters s t (target s) 0x0A q))

namespace Sys2Proof.Claim
/-- No storage that does not exist has been met, as in every state that a step leaves. -/
def Clean (s : State) : Prop := s.stray = none

/-- Cells of storage that this device has. -/
def Here (cs : List Nat) : Prop := ∀ c ∈ cs, (c < hbmSize ∨ 2 ^ 63 ≤ c) ∧ c < 2 ^ 66

/-- The same registers: general, address, predicate, mask and vector registers, level, FSTAT, RMODE, SEED and both
banks of trap registers. -/
def SameRegs (a b : Thread) : Prop :=
  a.g = b.g ∧ a.a = b.a ∧ a.p = b.p ∧ a.k = b.k ∧ a.v = b.v ∧ a.priv = b.priv ∧ a.fstat = b.fstat ∧ a.rm = b.rm ∧
  a.seed = b.seed ∧ a.sup = b.sup ∧ a.stw = b.stw

/-- The bytes that writes leave, the last write of a cell winning. -/
def written (old : Nat → Byte) (ws : List (Nat × Byte)) (c : Nat) : Byte :=
  match ws.reverse.find? fun w => w.1 == c with
  | some w => w.2
  | none => old c

/-- A storing instruction has completed: the executing thread has the registers of `th` and is ready at the next
word, no other thread's registers or PC have changed, and the bytes are as `bytes` has them. (A store may set the
written bits of armed lines and wake threads, R315.) -/
structure Stored (s t : State) (th : Thread) (bytes : Nat → Byte) : Prop where
  regs    : SameRegs t.me th
  pc      : t.me.pc = next4 s
  ready   : t.me.st = .ready
  retired : t.me.retired = s.me.retired + 1
  others  : ∀ y, y ≠ s.cur → SameRegs (t.thread y) (s.thread y) ∧ (t.thread y).pc = (s.thread y).pc
  bytes   : ∀ c, t.byte c = bytes c

/-- The value that LD gives for the number in its bytes (R374). -/
def loadValue (sz : LdSize) (v : Nat) : Word :=
  match sz with
  | .b => (BitVec.ofNat 8 v).signExtend 64
  | .bu => BitVec.ofNat 64 (v % 2 ^ 8)
  | .h => (BitVec.ofNat 16 v).signExtend 64
  | .hu => BitVec.ofNat 64 (v % 2 ^ 16)
  | .w => (BitVec.ofNat 32 v).signExtend 64
  | .wu => BitVec.ofNat 64 (v % 2 ^ 32)
  | .d => BitVec.ofNat 64 v

end Sys2Proof.Claim

/-- Of an access of n bytes, n a power of two, at the exact address ea: a path outside the operation's raises
path-invalid (0x08); then, on paths 1 to 3, an address of 4 MiB or more raises address-range (0x06) and a bank
that is not in the local store bank-absent (0x07); then a misaligned one raises misaligned (0x05), and an
aligned one that ends past its bank address-range (the model's order, assumption 128). On paths 1 to 3 one that
passes reaches n cells in a row from its address in the bank, granule 1023 of the own bank apart. TVAL is the
pointer with the effective address. A task-level access to own-bank granule 1023 of a compute tile raises
address-range. (R128, R130, R308, R357, R257.) -/
def Obligations.AccessChecks : Prop :=
    ∀ (s : State) (paths : List Nat) (kind : AccKind) (p : Word) (ea n : Nat), ea + n ≤ 2 ^ 51 → 0 < n →
    (paths.contains (ptrPath p) = false →
      s.access paths kind p true ea n n = .stop (.trap 0x08 p)) ∧
    (paths.contains (ptrPath p) = true → ptrPath p = 1 ∨ ptrPath p = 2 ∨ ptrPath p = 3 →
      (2 ^ 22 ≤ ea →
        s.access paths kind p true ea n n = .stop (.trap 0x06 (overAddr p ea))) ∧
      (ea < 2 ^ 22 → s.bankOf s.cur.tile (ptrPath p) = none →
        s.access paths kind p true ea n n = .stop (.trap 0x07 (overAddr p ea))) ∧
      (∀ b, ptrPath p ≠ 1 → ea < 2 ^ 22 → s.bankOf s.cur.tile (ptrPath p) = some b →
        (ea % n ≠ 0 → s.access paths kind p true ea n n = .stop (.trap 0x05 (overAddr p ea))) ∧
        (ea % n = 0 → 2 ^ 22 < ea + n → s.access paths kind p true ea n n = .stop (.trap 0x06 (overAddr p ea)))) ∧
      (∀ b, ea + n ≤ 2 ^ 22 - 2 ^ 12 → s.bankOf s.cur.tile (ptrPath p) = some b →
        (ea % n ≠ 0 → s.access paths kind p true ea n n = .stop (.trap 0x05 (overAddr p ea))) ∧
        (ea % n = 0 → s.access paths kind p true ea n n =
          .cells true ((List.range n).map fun i => bankCell b ea + i)))) ∧
    (paths.contains 1 = true → ptrPath p = 1 → s.me.priv = .task → s.computes (tileZ s.cur.tile) = true →
      s.cur.tile < 4096 → 2 ^ 22 - 2 ^ 12 ≤ ea → ea + n ≤ 2 ^ 22 →
      s.access paths kind p true ea n n = .stop (.trap 0x06 (overAddr p ea)))

/-- LD writes the little-endian number in its bytes, sign- or zero-extended by its size. LDE writes one converted
element, sign-extended for integer formats and zero-extended for floating formats. LDV and LDVX write each
loaded lane and leave the lanes that they do not load. LDE, LDV and LDVX OR their conversion flags into FSTAT,
LD none. Every other register of the thread is as before. (R6, R374, R376, R378, R221.) -/
def Obligations.LoadedValues : Prop :=
    (∀ (th : Thread) (rd : Nat → Byte) (d : GReg) (sz : LdSize) (cs : List Nat),
      th.loaded (.raw d sz cs) rd = th.setG d (loadValue sz (natOfBytes (cs.map rd)))) ∧
    (∀ (th : Thread) (rd : Nat → Byte) (d : GReg) (f : VFmt) (fmt : Nat) (src : LaneSrc),
      let r := elemLoad rd f fmt src
      th.loaded (.elem d f fmt src) rd =
        { th.setG d (if f.isFloat then BitVec.ofNat 64 (r.1 % 2 ^ f.width)
                     else (BitVec.ofNat f.width r.1).signExtend 64) with fstat := th.fstat ||| r.2 }) ∧
    (∀ (th : Thread) (rd : Nat → Byte) (d : VReg) (f : VFmt) (fmt : Nat) (srcs : List LaneSrc),
      (srcs.map (·.lane)).Nodup → (∀ x ∈ srcs, x.lane < f.lanes) →
      ∃ v fl, th.loaded (.lanes d f fmt srcs) rd = { th.setV d v with fstat := th.fstat ||| fl } ∧
        (∀ x ∈ srcs, lane v f.width x.lane = (elemLoad rd f fmt x).1 % 2 ^ f.width) ∧
        (∀ i, i < f.lanes → (∀ x ∈ srcs, x.lane ≠ i) → lane v f.width i = lane (th.getV d) f.width i) ∧
        fl = (srcs.map fun x => (elemLoad rd f fmt x).2).foldl (· ||| ·) 0)

namespace Sys2Proof.Claim
/-- A load `r` that nothing orders after an earlier access of its thread completes, or goes on its way: where it reaches a
bank of the local store its registers are written at once from the bytes as the thread sees them. Otherwise, unless lines
of the read-only cache serve it, its accesses (a gather's elements `apart`) are on their way: the thread retires and counts
them, or, where a failure must stay exact, waits for the answer; nothing else happens. -/
def Loads (s : State) (i : Instr) (near apart : Bool) (r : LoadReq) : Prop :=
  let parts := (loadParts apart r.dest).zipIdx
  s.mustHold r.path (dataCells r.dest) = false → s.mustHold r.spath (scaleCells r.dest) = false →
  (near = true → s.poisoned (destCells r.dest) = false → Clean s →
    ∃ t, exec i s = .next t ∧ Retires s t (s.me.loaded r.dest (s.seen r)) (next4 s)) ∧
  (near = false → r.fills = [] → Clean s →
    (s.goesOn r = false → exec i s = .next (s.await.post (.loadResponse r))) ∧
    (s.goesOn r = true → ∃ t, exec i s = .next t ∧
      t.me = ({ s.me with loads := s.me.loads ++ parts.map fun (d : LoadDest × Nat) => (s.nextId + d.2, d.1) }).retireTo (next4 s) (s.counts? s.cur) ∧
      t.agenda.map (·.ev) = s.agenda.map (·.ev) ++ parts.map (fun (d : LoadDest × Nat) =>
        .loadResponse { r with dest := d.1, ord := s.nextId + d.2, gone := true }) ∧
      (∀ c, t.byte c = s.byte c) ∧ ∀ y, y ≠ s.cur → t.thread y = s.thread y))

end Sys2Proof.Claim

/-- When the checks of an LD, LDE, LDV or LDVX give the cells of its bytes, of its elements, or of its active lanes:
in a bank of the local store, with no error in them, the load writes its registers and retires, changing nothing
else; elsewhere, with no line of the read-only cache in play and no earlier access that must come first, the
load is on its way to its home, a gather's elements each on their own, and the thread goes on at the next word,
or waits where a failure must stay exact (assumption 12). (R42, R61, R156, R357, R374, R376, R378.) -/
def Obligations.LoadsComplete : Prop :=
    (∀ (s : State) (d : GReg) (a : AReg) (sz : LdSize) (off : BitVec 13) (near : Bool) (cs : List Nat),
      let p := s.me.getA a
      let ea := (addr p : Int) + off.toInt * ldBytes sz
      (s.access ldPaths .load p true ea (ldBytes sz) (ldBytes sz)).get (ldBytes sz) = .ok (near, cs) →
      Loads s (.ld d a sz off) near false
        (s.loadReq (ptrPath p) (ptrPath p) (epOf p ea) (.raw d sz cs) (s.rocFills (ptrPath p) ea.toNat cs))) ∧
    (∀ (s : State) (d : GReg) (a : AReg) (f : VFmt) (off : BitVec 13) (near : Bool) (cs : List Nat) (src : LaneSrc)
      (more : List LaneSrc),
      let p := s.me.getA a
      let ea := (addr p : Int) + elemOff p off.toInt
      s.elements elPaths .load a (s.elemOk a true 1) off.toInt 1 = .ok (near, cs, src :: more) →
      Loads s (.lde d a f off) (near && s.scaleNear a) false (s.loadReq (ptrPath p) (s.scalePath a) (epOf p ea) (.elem d f (ptrFmt p) src)
        (s.laneFills (ptrPath p) (s.scalePath a) [src]))) ∧
    (∀ (s : State) (d : VReg) (a : AReg) (f : VFmt) (off : BitVec 13) (near : Bool) (cs : List Nat)
      (srcs : List LaneSrc),
      let p := s.me.getA a
      let ea := (addr p : Int) + elemOff p off.toInt
      s.elements elPaths .load a (s.elemOk a false f.lanes) off.toInt f.lanes = .ok (near, cs, srcs) →
      Loads s (.ldv d a f off) (near && s.scaleNear a) false (s.loadReq (ptrPath p) (s.scalePath a) (epOf p ea) (.lanes d f (ptrFmt p) srcs)
        (s.laneFills (ptrPath p) (s.scalePath a) srcs))) ∧
    (∀ (s : State) (d : VReg) (a : AReg) (f : VFmt) (b : VReg) (k : KReg) (near : Bool)
      (ls : List (Nat × List Nat × LaneSrc)),
      let p := s.me.getA a
      let idx := s.me.getV b
      s.indexed elPaths .load a idx (activeLanes (s.me.getK k) f.lanes) (fun _ _ _ => none) = .ok (near, ls) →
      let srcs := ls.map (·.2.2)
      Loads s (.ldvx d a f b k) ((near && s.scaleNear a) || (activeLanes (s.me.getK k) f.lanes).isEmpty) true (s.loadReq (ptrPath p) (s.scalePath a) p (.lanes d f (ptrFmt p) srcs)
        (s.laneFills (ptrPath p) (s.scalePath a) srcs)))

/-- When the answer of a load from storage of this device arrives, with no error in its bytes: its waiting thread
gets its registers from the bytes of that instant, retires at the next word, and no byte and no other thread
changes; with nothing for the read-only cache, nothing else changes at all. A thread that has gone on gets the
registers where it is, and no longer counts the load. An answer that is no longer wanted changes nothing. (R42,
R61, R156, R374.) -/
def Obligations.LoadResponses : Prop :=
    ∀ (s : State) (r : LoadReq), Clean s →
    (s.waits r.tid = true → r.gone = false → r.remote = none → s.poisoned (destCells r.dest) = false → Here (destCells r.dest) →
      ∃ t, exec (.loadResponse r) s = .next t ∧
        (∃ rd : Nat → Byte, (r.fills = [] → rd = s.seen r) ∧
          t.thread r.tid = ((s.thread r.tid).loaded r.dest rd).retireTo ((s.thread r.tid).pc + 4#51) (s.counts? r.tid)) ∧
        (∀ c, t.byte c = s.byte c) ∧ (∀ y, y ≠ r.tid → t.thread y = s.thread y) ∧
        (r.fills = [] → OnlyThread s t r.tid)) ∧
    (r.gone = true → (s.thread r.tid).loads.any (fun l => l.1 == r.ord) = true → r.remote = none → Here (destCells r.dest) →
      ∃ t, exec (.loadResponse r) s = .next t ∧
        (∃ rd : Nat → Byte, (r.fills = [] → rd = s.seen r) ∧
          t.thread r.tid = { (s.thread r.tid).loaded r.dest rd with
            loads := (s.thread r.tid).loads.filter fun l => l.1 ≠ r.ord }) ∧
        (∀ c, t.byte c = s.byte c) ∧ ∀ y, y ≠ r.tid → t.thread y = s.thread y) ∧
    (s.wants r = false → exec (.loadResponse r) s = .next s)

/-- An ST, STE, STV or STVX whose checks give cells of the local store (or, in deterministic mode, any storage of
this device outside paths 0 and 5), and that meets no capability, poison or fence stop, completes: afterwards
the bytes stored to hold the register's bytes little-endian, the element's code, or the lanes' codes in
ascending order, and every other byte reads as before. FSTAT gets the conversion flags; no other register of any
thread changes. (R6, R163, R357, R405, R408, R410.) -/
def Obligations.StoresComplete : Prop :=
    (∀ (s : State) (r : GReg) (a : AReg) (sz : StSize) (off : BitVec 13) (near : Bool) (cs : List Nat),
      let p := s.me.getA a
      let n := stBytes sz
      let ea := (addr p : Int) + off.toInt * n
      let ws := cs.zip (bytesOfNat n (s.g r).toNat)
      (s.access stPaths .store p true ea n n).get n = .ok (near, cs) → near || s.det → ptrPath p ≠ 0 → ptrPath p ≠ 5 →
      Here cs → s.storeStops (epOf p ea) true ws none = none → s.storeWaits (ptrPath p) (epOf p ea) ws = false →
      Clean s → ∃ t, exec (.st r a sz off) s = .next t ∧ Stored s t s.me (written s.byte ws)) ∧
    (∀ (s : State) (r : GReg) (a : AReg) (f : VFmt) (off : BitVec 13) (near : Bool) (cs : List Nat) (src : LaneSrc)
      (more : List LaneSrc) (rd : Nat → Byte) (s' : State),
      let p := s.me.getA a
      let ep := epOf p ((addr p : Int) + elemOff p off.toInt)
      let c := elemStore (rmodeOf s.me.rm) f (ptrFmt p) (scaleIn rd src) ((s.g r).toNat % 2 ^ f.width)
      let nib : Option Bool := if ptrFmt p = 12 then some src.hi else none
      let ws := elemBytes (ptrFmt p) src c.1
      s.elements esPaths .store a (s.elemOk a true 1) off.toInt 1 = .ok (near, cs, src :: more) → near || s.det →
      s.readScales (s.scalePath a) (src :: more) = .ok (rd, s') → ptrPath p ≠ 0 → ptrPath p ≠ 5 → Here src.cells →
      s'.storeStops ep true ws nib = none → s'.storeWaits (ptrPath p) ep ws = false →
      Clean s → ∃ t, exec (.ste r a f off) s = .next t ∧
        Stored s t (s.me.raise c.2) (written s.byte (s.storeBytes ws nib))) ∧
    (∀ (s : State) (r : VReg) (a : AReg) (f : VFmt) (off : BitVec 13) (near : Bool) (cs : List Nat)
      (srcs : List LaneSrc) (rd : Nat → Byte) (s' : State),
      let p := s.me.getA a
      let ep := epOf p ((addr p : Int) + elemOff p off.toInt)
      let b := s.laneBytes p rd f (s.me.getV r) cs srcs
      s.elements esPaths .store a (s.elemOk a false f.lanes) off.toInt f.lanes = .ok (near, cs, srcs) → near || s.det →
      s.readScales (s.scalePath a) srcs = .ok (rd, s') → ptrPath p ≠ 0 → ptrPath p ≠ 5 → Here cs →
      s'.storeStops ep true b.1 none = none → s'.storeWaits (ptrPath p) ep b.1 = false →
      Clean s → ∃ t, exec (.stv r a f off) s = .next t ∧ Stored s t (s.me.raise b.2) (written s.byte b.1)) ∧
    (∀ (s : State) (r : VReg) (a : AReg) (f : VFmt) (b : VReg) (k : KReg) (near : Bool)
      (ls : List (Nat × List Nat × LaneSrc)) (rd : Nat → Byte) (s' : State),
      let p := s.me.getA a
      let ops := s.scatter p rd f (s.me.getV r) (s.me.getV b) ls
      s.indexed esPaths .store a (s.me.getV b) (activeLanes (s.me.getK k) f.lanes) (s.scatterStop p (s.me.getV b)) =
        .ok (near, ls) → near || s.det →
      s.readScales (s.scalePath a) (ls.map (·.2.2)) = .ok (rd, s') → ptrPath p ≠ 0 → ptrPath p ≠ 5 →
      Here (ls.flatMap (·.2.2.cells)) → (∀ o ∈ ops, s'.storeWaits (ptrPath p) o.1 o.2.1 = false) →
      Clean s → ∃ t, exec (.stvx r a f b k) s = .next t ∧
        Stored s t (s.me.raise ((ops.map (·.2.2.2)).foldl (· ||| ·) 0))
          (ops.foldl (fun (x : State) o => x.storeCells s.myTag (x.storeBytes o.2.1 o.2.2.1)) s).byte)

/-- An ST to another home on path 0, through a page already marked dirty, retires at once and its store is on its
way; no byte changes until it arrives. In deterministic mode one through a remote window keeps its thread
waiting. At its home the store of a context that is not under Avalanche, and that no check fails, writes its
bytes and no other, and no thread's registers change, but that a thread kept waiting for it and no other store
retires with the flags; one that a check fails, of a context that is no longer live, changes nothing. The
write-combining buffer of a tile, 64 tile cycles after its last store, is emptied and its lines become stores on
their way. (R129, R142, R156, R163, R406.) -/
def Obligations.PostedStores : Prop :=
    (∀ (s : State) (r : GReg) (a : AReg) (sz : StSize) (off : BitVec 13) (cs : List Nat),
      let p := s.me.getA a
      let n := stBytes sz
      let ea := (addr p : Int) + off.toInt * n
      let ws := cs.zip (bytesOfNat n (s.g r).toNat)
      (s.access stPaths .store p true ea n n).get n = .ok (false, cs) → s.det = false → ptrPath p = 0 → Here cs →
      (∃ e, s.lookup s.cur.tile .store s.myTag ea.toNat = some e ∧ e.dt = true) →
      s.storeStops (epOf p ea) false ws none = none → s.storeWaits 0 (epOf p ea) ws = false → Clean s →
      ∃ t, exec (.st r a sz off) s = .next t ∧
        Stored s t s.me s.byte ∧
        t.agenda = s.agenda ++ [{ id := s.nextId, due := s.now, ev := (.storeAtHome ({ tid := s.cur, tag := s.myTag, path := 0, ptr := epOf p ea, insn := BitVec.ofNat 32 (encodeWord (.st r a sz off)), cells := ws, nib := none, opnd := BitVec.ofNat 64 (natOfBytes ((ws.take 8).map (·.2))), remote := none, slots := [], waited := none } : StoreReq)) }]) ∧
    (∀ (s : State) (r : GReg) (a : AReg) (sz : StSize) (off : BitVec 13) (cs : List Nat),
      let p := s.me.getA a
      let n := stBytes sz
      let ea := (addr p : Int) + off.toInt * n
      let ws := cs.zip (bytesOfNat n (s.g r).toNat)
      (s.access stPaths .store p true ea n n).get n = .ok (false, cs) → s.det = true → ptrPath p = 0 →
      (∃ c ∈ cs, isRemoteCell c = true) →
      (∃ e, s.lookup s.cur.tile .store s.myTag ea.toNat = some e ∧ e.dt = true) →
      s.storeStops (epOf p ea) true ws none = none → s.storeWaits 0 (epOf p ea) ws = false → Clean s →
      ∃ t q, exec (.st r a sz off) s = .next t ∧ t.me.st = .awaiting ∧ t.me.pc = s.me.pc ∧ SameRegs t.me s.me ∧
        (∀ c, t.byte c = s.byte c) ∧ t.agenda.map (·.ev) = s.agenda.map (·.ev) ++ [.storeAtHome q] ∧
        q.tid = s.cur ∧ q.cells = ws ∧ q.waited = some 0) ∧
    (∀ (s : State) (r : StoreReq), Clean s →
      (s.ctx r.tag).dying = false → r.remote = none → Here (r.cells.map (·.1)) →
      (s.storeFails r.tag r.cells r.nib = none → ∃ t, exec (.storeAtHome r) s = .next t ∧
        (∀ c, t.byte c = written s.byte (s.storeBytes r.cells r.nib) c) ∧
        (∀ y, y ≠ r.tid ∨ r.waited = none → SameRegs (t.thread y) (s.thread y) ∧ (t.thread y).pc = (s.thread y).pc) ∧
        (∀ fl, r.waited = some fl → s.waits r.tid = true → (∀ q ∈ s.agenda, awaitedStore r.tid q.ev = false) →
          SameRegs (t.thread r.tid) ((s.thread r.tid).raise fl) ∧ (t.thread r.tid).st = .ready ∧
          (t.thread r.tid).pc = (s.thread r.tid).pc + 4#51)) ∧
      (s.storeFails r.tag r.cells r.nib ≠ none → r.waited = none → (s.ctx r.tag).live = false →
        exec (.storeAtHome r) s = .next s)) ∧
    (∀ (s : State) (n : Nat), (s.tile n).wcDue ≤ s.tc n →
      ∃ t, exec (.wcLineDrain n) s = .next t ∧ (t.tile n).wcb = [] ∧ (∀ c, t.byte c = s.byte c) ∧
        t.agenda.map (·.ev) = s.agenda.map (·.ev) ++ ((s.tile n).wcb.flatMap lineStores).map Instr.storeAtHome ∧
        (∀ y, t.thread y = s.thread y))

/-- An n-byte number written at a cell reads back as that number modulo 2^(8n), least significant byte at the lowest
cell; every byte outside those n reads as before; the words written to hold no error afterwards, every other
word's poison is as before; the lines of a bank take the writer's tag. (R6, R156, R266, R267.) -/
def Obligations.StoreThenLoad : Prop :=
    ∀ (s : State) (tag : Tag) (c n v : Nat),
    let t := s.writeN tag c n v
    t.readN c n = v % 2 ^ (8 * n) ∧
    (∀ a, a < c ∨ c + n ≤ a → t.byte a = s.byte a) ∧
    (∀ i, i < n → t.byte (c + i) = BitVec.ofNat 8 (v / 2 ^ (8 * i))) ∧
    (∀ w, SMap.get false t.pois w =
      if c / 8 ≤ w ∧ w ≤ (c + n - 1) / 8 ∧ 0 < n then false else SMap.get false s.pois w) ∧
    (∀ i, i < n → 2 ^ 63 ≤ c → c + n ≤ 2 ^ 64 → SMap.get 0 t.lineTag ((c + i) / 256) = tag.toNat)

namespace Sys2Proof.Claim
/-- As `Stored`, for an operation that a home performs for thread `x`. -/
structure StoredBy (s t : State) (x : ThreadId) (th : Thread) (bytes : Nat → Byte) : Prop where
  regs    : SameRegs (t.thread x) th
  pc      : (t.thread x).pc = (s.thread x).pc + 4#51
  ready   : (t.thread x).st = .ready
  retired : (t.thread x).retired = (s.thread x).retired + 1
  others  : ∀ y, y ≠ x → SameRegs (t.thread y) (s.thread y) ∧ (t.thread y).pc = (s.thread y).pc
  bytes   : ∀ c, t.byte c = bytes c

/-- The executing thread waits where it is: it has state `st`, no register of any thread, no PC and no byte has
changed. -/
structure Waits (s t : State) (st : SlotSt) : Prop where
  state : t.me.st = st
  regs  : ∀ y, SameRegs (t.thread y) (s.thread y) ∧ (t.thread y).pc = (s.thread y).pc
  bytes : ∀ c, t.byte c = s.byte c

/-- The full/empty bits after the bit of one word is `b`. -/
def bitsWith (s t : State) (c : Nat) (b : Bool) : Prop :=
  ∀ w, SMap.get false t.fe w = if w = c / 8 then b else SMap.get false s.fe w

/-- The eight bytes of a word at a cell. -/
def wordAt (c : Nat) (v : Word) : List (Nat × Byte) := (cellsFrom c 8).zip (bytesOfNat 8 v.toNat)

/-- A full/empty operation of the form [an+off] reaches the word at cell `c` of the local store and nothing
holds it back: neither an earlier access, nor, in deterministic mode or with the record log on, that the word is another
tile's (R111, R114) or a late fault (R260). -/
def FeReach (s : State) (a : AReg) (off : BitVec 13) (kind : AccKind) (c : Nat) : Prop :=
  let p := s.me.getA a
  let ea := (addr p : Int) + off.toInt * 8
  (∃ cs, (s.access [0, 1, 2, 3] kind p true ea 8 8).get 8 = .ok (true, c :: cs) ∧
    s.mustHold (ptrPath p) (c :: cs) = false ∧ s.blockBusy (c :: cs) = none) ∧
  (s.lateAtPoints s.cur = false ∨
    cellBank c = s.cur.tile ∧ s.matrixBusy s.cur = false ∧ s.me.lateDue = false) ∧
  ptrPath p ≠ 0 ∧ Here (cellsFrom c 8) ∧ s.dieCopy = false ∧ s.feWaiters c = [] ∧ s.release = none ∧ Clean s

end Sys2Proof.Claim

/-- With no earlier waiter and every check passed: TAKE of a full word writes it to gd and leaves it empty, READF
leaves it full; FILL of an empty word stores gs and leaves it full; FEEMPTY and FEFULL set the bit; FEPROBE
writes 1 for full and 0 for empty. No other bit, byte or register changes. TAKE and READF of an empty word and
FILL of a full word park without effect. (R89, R111, R168, R169, R363.) -/
def Obligations.FullEmptyCompletes : Prop :=
    ∀ (s : State) (d : GReg) (a : AReg) (off : BitVec 13) (c : Nat), c % 8 = 0 →
    (FeReach s a off .load c →
      (s.full c = true → s.poisoned (cellsFrom c 8) = false →
        (∃ t, exec (.take d a off) s = .next t ∧
          StoredBy s t s.cur (s.me.setG d (s.read64 c)) s.byte ∧ bitsWith s t c false) ∧
        (∃ t, exec (.readf d a off) s = .next t ∧
          StoredBy s t s.cur (s.me.setG d (s.read64 c)) s.byte ∧ bitsWith s t c true)) ∧
      (s.full c = false →
        (∃ t, exec (.take d a off) s = .next t ∧ Waits s t (.parked (.fullEmpty c)) ∧ t.fe = s.fe) ∧
        (∃ t, exec (.readf d a off) s = .next t ∧ Waits s t (.parked (.fullEmpty c)) ∧ t.fe = s.fe)) ∧
      (∃ t, exec (.feprobe d a off) s = .next t ∧
        StoredBy s t s.cur (s.me.setG d (if s.full c then 1 else 0)) s.byte ∧ t.fe = s.fe)) ∧
    (FeReach s a off .store c → s.capCheck s.myTag (cellGranule c) = none →
      (s.full c = false → ∃ t, exec (.fill d a off) s = .next t ∧
        StoredBy s t s.cur s.me (written s.byte (wordAt c (s.g d))) ∧ bitsWith s t c true) ∧
      (s.full c = true →
        ∃ t, exec (.fill d a off) s = .next t ∧ Waits s t (.parked (.fullEmpty c)) ∧ t.fe = s.fe) ∧
      (∃ t, exec (.feempty a off) s = .next t ∧ StoredBy s t s.cur s.me s.byte ∧ bitsWith s t c false) ∧
      (∃ t, exec (.fefull a off) s = .next t ∧ StoredBy s t s.cur s.me s.byte ∧ bitsWith s t c true))

/-- When the request of a TAKE, READF, FILL, FEEMPTY, FEFULL or FEPROBE arrives at its home for a thread that still
waits for it, with no earlier waiter, no late fault due and nothing that a replayed log imposes, it has the same
effect there as at the local store, in one instant, and its thread goes on at the next word; FILL of a full word
and TAKE or READF of an empty one park the thread. A request whose thread no longer waits changes nothing.
(R156, R168, R260, R363.) -/
def Obligations.FullEmptyAtHome : Prop :=
    ∀ (s : State) (r : FeReq), r.cell % 8 = 0 → Here (cellsFrom r.cell 8) → Clean s →
    (s.expects r.tid = false → exec (.feAtHome r) s = .next s) ∧
    (s.expects r.tid = true → s.feWaiters r.cell = [] → s.parkOwed r.tid = false →
      (s.lateAtPoints r.tid = false ∨ s.matrixBusy r.tid = false ∧ (s.thread r.tid).lateDue = false) →
      (r.op = .take → s.full r.cell = true → s.poisoned (cellsFrom r.cell 8) = false →
        ∃ t, exec (.feAtHome r) s = .next t ∧ bitsWith s t r.cell false ∧
          StoredBy s t r.tid ((s.thread r.tid).setG r.reg (s.read64 r.cell)) s.byte) ∧
      (r.op = .readf → s.full r.cell = true → s.poisoned (cellsFrom r.cell 8) = false →
        ∃ t, exec (.feAtHome r) s = .next t ∧ bitsWith s t r.cell true ∧
          StoredBy s t r.tid ((s.thread r.tid).setG r.reg (s.read64 r.cell)) s.byte) ∧
      (∀ b, (b = false ∧ r.op = .feempty) ∨ (b = true ∧ r.op = .fefull) →
        s.capCheck r.tag (cellGranule r.cell) = none →
        ∃ t, exec (.feAtHome r) s = .next t ∧ bitsWith s t r.cell b ∧ StoredBy s t r.tid (s.thread r.tid) s.byte) ∧
      (r.op = .feprobe → ∃ t, exec (.feAtHome r) s = .next t ∧ t.fe = s.fe ∧
        StoredBy s t r.tid ((s.thread r.tid).setG r.reg (if s.full r.cell then 1 else 0)) s.byte) ∧
      (r.op = .fill → s.full r.cell = false → s.capCheck r.tag (cellGranule r.cell) = none →
        ∃ t, exec (.feAtHome r) s = .next t ∧ bitsWith s t r.cell true ∧
          StoredBy s t r.tid (s.thread r.tid) (written s.byte (wordAt r.cell r.data))) ∧
      ((r.op = .take ∨ r.op = .readf) ∧ s.full r.cell = false ∨
          r.op = .fill ∧ s.full r.cell = true ∧ s.capCheck r.tag (cellGranule r.cell) = none →
        ∃ t, exec (.feAtHome r) s = .next t ∧ (t.thread r.tid).st = .parked (.fullEmpty r.cell) ∧ t.fe = s.fe ∧
          (∀ y, SameRegs (t.thread y) (s.thread y)) ∧ ∀ c, t.byte c = s.byte c))

namespace Sys2Proof.Claim
/-- The dword 0 of an object with `x` bytes and `n` arrivals expected, flipped where both are 0 (R170). -/
structure ObjectIs (d old init : Word) (x : Int) (n : Nat) (err : Bool) : Prop where
  pend : boPend d = if x = 0 ∧ n = 0 then 0 else x
  arr  : boArr d = if x = 0 ∧ n = 0 then bits init 15 0 else n
  ph   : boPh d = (if x = 0 ∧ n = 0 then !boPh old else boPh old)
  errp : boErrp d = (if x = 0 ∧ n = 0 then false else boErrp old || err)
  errc : boErrc d = (if x = 0 ∧ n = 0 then boErrp old || err else boErrc old)
  zero : bits d 63 59 = 0

/-- A barrier-object operation of the form [an+off] reaches the object at cell `c`, and its first checks pass. -/
def BoReach (s : State) (a : AReg) (off : BitVec 13) (cap : Bool) (c : Nat) : Prop :=
  let p := s.me.getA a
  (∃ cs, (s.access [1, 2, 3] (if cap then .store else .load) p true ((addr p : Int) + off.toInt * 16) 16 16).get 16 =
      .ok (true, c :: cs) ∧ s.mustHold (ptrPath p) (c :: cs) = false) ∧
  (cap = true → s.capCheck s.myTag (cellGranule c) = none) ∧ Here (cellsFrom c 16) ∧
  boReserved (s.read64 c) (s.read64 (c + 8)) = false ∧ s.poisoned (cellsFrom c 16) = false ∧ s.release = none ∧ Clean s

end Sys2Proof.Claim

/-- BOINIT writes both dwords. BOEXPECT adds to PEND and BOARRIVE takes one from ARR, and an operation that leaves
PEND = 0 and ARR = 0 flips the object: PH inverts, ERRC takes ERRP, ARR takes INIT. BOTEST and BOWAIT report PH
and ERRC (BOWAIT when PH differs from bit 0 of gd, parking otherwise), BOSTAT dword 0. No byte outside the
object and no register but gd changes. (R170, R171, R347.) -/
def Obligations.BarrierObjectsComplete : Prop :=
    ∀ (s : State) (d : GReg) (a : AReg) (off : BitVec 13) (c : Nat), 2 ^ 63 ≤ c → c + 16 ≤ 2 ^ 64 →
    let d0 := s.read64 c
    let d1 := s.read64 (c + 8)
    (BoReach s a off true c →
      (∃ t, exec (.boinit d a off) s = .next t ∧
        StoredBy s t s.cur s.me (written s.byte (wordAt c (BitVec.ofNat 64 ((s.g d).toNat % 2 ^ 16 * 2 ^ 40)) ++
          wordAt (c + 8) (BitVec.ofNat 64 ((s.g d).toNat % 2 ^ 16))))) ∧
      (-(2 ^ 39) ≤ boPend d0 + (s.g d).toInt → boPend d0 + (s.g d).toInt < 2 ^ 39 →
        ∃ t v, exec (.boexpect d a off) s = .next t ∧ StoredBy s t s.cur s.me (written s.byte (wordAt c v)) ∧
          ObjectIs v d0 d1 (boPend d0 + (s.g d).toInt) (boArr d0) false) ∧
      (boArr d0 ≠ 0 →
        ∃ t v, exec (.boarrive a off) s = .next t ∧ StoredBy s t s.cur s.me (written s.byte (wordAt c v)) ∧
          ObjectIs v d0 d1 (boPend d0) (boArr d0 - 1) false) ∧
      (boArr d0 = 0 → CanTrap s → ∃ t, exec (.boarrive a off) s = .next t ∧
        Enters s t (target s) 0x0B (overAddr (s.me.getA a)
          (((addr (s.me.getA a) : Int) + off.toInt * 16).emod (2 ^ 51)).toNat))) ∧
    (BoReach s a off false c →
      (∃ t, exec (.botest d a off) s = .next t ∧
        Retires s t (s.me.setG d (BitVec.ofNat 64 ((boPh d0).toNat + 2 * (boErrc d0).toNat))) (next4 s)) ∧
      (∃ t, exec (.bostat d a off) s = .next t ∧ Retires s t (s.me.setG d d0) (next4 s)) ∧
      (boPh d0 ≠ (s.g d).getLsbD 0 → ∃ t, exec (.bowait d a off) s = .next t ∧
        Retires s t (s.me.setG d (BitVec.ofNat 64 ((boPh d0).toNat + 2 * (boErrc d0).toNat))) (next4 s)) ∧
      (boPh d0 = (s.g d).getLsbD 0 → s.lateAtPoints s.cur = false → ∃ t, exec (.bowait d a off) s = .next t ∧
        Waits s t (.parked (.barrierObject c)) ∧ OnlyThread s t s.cur))

namespace Sys2Proof.Claim
/-- The operands of an ACOPY pass every check of R339 up to the queue: the shape record, the object and the rows. -/
structure CopyReady (s : State) (ad as_ ah ab : AReg) (exp : Bool) (rowb nrow : Nat) (sstr dstr : Int) (bo : Nat)
    (srcs dsts : List (List Nat)) : Prop where
  paths : [0, 1, 2, 3, 5].contains (ptrPath (s.me.getA ad)) = true ∧
    [0, 1, 2, 3, 4, 5].contains (ptrPath (s.me.getA as_)) = true ∧
    [0, 1, 2, 3].contains (ptrPath (s.me.getA ah)) = true ∧ [1, 2, 3].contains (ptrPath (s.me.getA ab)) = true
  aligned : addr (s.me.getA ad) % 8 = 0 ∧ addr (s.me.getA as_) % 8 = 0 ∧ addr (s.me.getA ah) % 32 = 0 ∧
    addr (s.me.getA ab) % 16 = 0
  shape : ∃ near cs bs s', (s.access [0, 1, 2, 3] .load (s.me.getA ah) true (addr (s.me.getA ah)) 32 32).get 32 =
      .ok (near, cs) ∧ s.readNow (ptrPath (s.me.getA ah)) (addr (s.me.getA ah) + ·) cs = .ok (bs, s') ∧
    dwordsOf 4 bs =
      [BitVec.ofNat 64 (rowb + nrow * 2 ^ 24), BitVec.ofInt 64 sstr, BitVec.ofInt 64 dstr, 0]
  size : rowb < 2 ^ 24 ∧ nrow < 2 ^ 24 ∧ rowb % 8 = 0 ∧ 8 ≤ rowb ∧ 1 ≤ nrow ∧ rowb * nrow ≤ 2 ^ 32
  stride : sstr % 8 = 0 ∧ dstr % 8 = 0 ∧ -(2 ^ 39) ≤ sstr ∧ sstr < 2 ^ 39 ∧ -(2 ^ 39) ≤ dstr ∧ dstr < 2 ^ 39
  object : ∃ near cs, (s.access [1, 2, 3] .load (s.me.getA ab) true (addr (s.me.getA ab)) 16 16).get 16 =
      .ok (near, bo :: cs) ∧ boReserved (s.read64 bo) (s.read64 (bo + 8)) = false ∧
    (exp = true → boPend (s.read64 bo) + ((rowb * nrow : Nat) : Int) < 2 ^ 39)
  rows : s.rowsCells .load (s.me.getA as_) sstr rowb nrow = .ok srcs ∧
    s.rowsCells .store (s.me.getA ad) dstr rowb nrow = .ok dsts
  caps : s.dieCopy = false ∧ s.capFail s.myTag (granulesOf (dsts.flatten.filter fun c => !isRemoteCell c) ++
      (if exp then [cellGranule bo] else [])) = none
  apart : ptrPath (s.me.getA as_) = ptrPath (s.me.getA ad) → ∀ c ∈ srcs.flatten, c ∉ dsts.flatten
  room : s.myTile.engQ.length < 16 ∧ s.release = none

end Sys2Proof.Claim

/-- An ACOPY that passes its checks joins the tile's engine queue with its rows cut into chunks of one destination
line, and retires; ACOPY.exp first adds the whole length to the object's PEND; no other byte changes. The engine
starts the copy at the head of the queue. Each landing writes one of the chunks that remain from the bytes of
that instant to its destination, and takes its length from PEND of the object, flipping it at 0 with no arrivals
left; no other byte and no register changes; the last chunk takes the copy from the queue. (R170, R172, R173,
R339.) -/
def Obligations.CopiesRun : Prop :=
    (∀ (s : State) (ad as_ ah ab : AReg) (exp : Bool) (rowb nrow : Nat) (sstr dstr : Int) (bo : Nat)
      (srcs dsts : List (List Nat)), CopyReady s ad as_ ah ab exp rowb nrow sstr dstr bo srcs dsts →
      Here (cellsFrom bo 16) → Clean s →
      ∃ t, exec (.acopy ad as_ ah ab exp) s = .next t ∧
        (t.myTile.engQ.map fun c => (c.tag, c.bo, c.chunks)) =
          (s.myTile.engQ.map fun c => (c.tag, c.bo, c.chunks)) ++
            [(s.myTag, bo, (srcs.zip dsts).flatMap fun x => chunksOf x.1 x.2)] ∧
        (t.agenda.any fun q => q.ev == .acopyStart s.cur.tile) = true ∧
        (exp = false → StoredBy s t s.cur s.me s.byte) ∧
        (exp = true → ∃ v, StoredBy s t s.cur s.me (written s.byte (wordAt bo v)) ∧
          ObjectIs v (s.read64 bo) (s.read64 (bo + 8)) (boPend (s.read64 bo) + ((rowb * nrow : Nat) : Int))
            (boArr (s.read64 bo)) false)) ∧
    (∀ (s : State) (n : Nat) (c : Copy) (cs : List Copy), (s.tile n).engQ = c :: cs → c.active = false →
      ∃ t, exec (.acopyStart n) s = .next t ∧ (t.tile n).engQ = { c with active := true } :: cs ∧
        t.agenda = s.agenda ++ [{ id := s.nextId, due := s.now, ev := .acopyChunkLand n }] ∧
        (∀ b, t.byte b = s.byte b) ∧ ∀ y, t.thread y = s.thread y) ∧
    (∀ (s : State) (n : Nat) (c : Copy) (cs : List Copy), (s.tile n).engQ = c :: cs → c.active = true → c.chunks ≠ [] →
      (∀ x ∈ c.chunks, Here (x.1 ++ x.2) ∧ s.poisoned x.1 = false ∧ x.1.length = x.2.length ∧
        (∀ b ∈ x.2, b < c.bo ∨ c.bo + 16 ≤ b) ∧ x.2.Nodup ∧
        -(2 ^ 39) ≤ boPend (s.read64 c.bo) - (x.1.length : Int)) → Here (cellsFrom c.bo 16) → Clean s →
      ∃ t i v, exec (.acopyChunkLand n) s = .next t ∧
        (∃ x, c.chunks[i]? = some x ∧
          (∀ b, t.byte b = written s.byte (x.2.zip (x.1.map s.byte) ++ wordAt c.bo v) b) ∧
          ObjectIs v (s.read64 c.bo) (s.read64 (c.bo + 8))
            (boPend (s.read64 c.bo) - (x.1.length : Int)) (boArr (s.read64 c.bo)) false) ∧
        ((t.tile n).engQ.map (·.chunks)) =
          (if c.chunks.length = 1 then cs.map (·.chunks) else c.chunks.eraseIdx i :: cs.map (·.chunks)) ∧
        (∀ y, SameRegs (t.thread y) (s.thread y) ∧ (t.thread y).pc = (s.thread y).pc))

/-- With bit STR of its mask, FENCE first sends the thread's lines of the write-combining buffer on their way. While
an access that it fences is in flight, waits at its home or in the queue of a matrix or Kettle unit, a FENCE of
scope tile, column, device or fabric is held, and until the boundary while one was collected as racing. When
none is, and the fault log of its context is empty, it retires; with bit RO it empties the read-only cache; no
register, byte or other thread changes. A FENCE of scope thread retires at once and, while an access of its
thread is in flight, keeps its mask for later accesses. With entries in the fault log the context is halted and
the thread enters the handler with posted-fault (0x23) and their number in TVAL. (R159, R161, R195, R129.) -/
def Obligations.FenceCompletes : Prop :=
    ∀ (s : State) (sc : Scope) (mask : BitVec 8), Clean s →
    let u := if mask.getLsbD 5 then s.drainLines s.cur.tile fun l => l.threads.contains s.cur.slot else s
    let n := (s.ctx s.myTag).logCount
    (sc ≠ .thr → u.fenceWaits s.cur sc mask = true →
      ∃ t, exec (.fence sc mask) s = .next t ∧ Waits s t .held) ∧
    (sc ≠ .thr → u.fenceWaits s.cur sc mask = false → u.raceWaits s.cur sc mask = true →
      ∃ t, exec (.fence sc mask) s = .next t ∧ Waits s t .boundary) ∧
    (sc ≠ .thr → u.fenceWaits s.cur sc mask = false → u.raceWaits s.cur sc mask = false → n = 0 →
      ∃ t, exec (.fence sc mask) s = .next t ∧ t.me = s.me.retireTo (next4 s) (s.counts? s.cur) ∧
        (∀ y, y ≠ s.cur → t.thread y = s.thread y) ∧ (∀ c, t.byte c = s.byte c) ∧ t.agenda = u.agenda ∧
        (mask.getLsbD 5 = true → ∀ l ∈ t.myTile.wcb, l.threads.contains s.cur.slot = false) ∧
        (mask.getLsbD 4 = true → t.myTile.roc = []) ∧
        (mask.getLsbD 4 = false → Retires u t s.me (next4 s))) ∧
    (sc = .thr → n = 0 →
      ∃ t l, exec (.fence sc mask) s = .next t ∧ Retires u t { s.me with fthr := l } (next4 s) ∧
        (∀ f ∈ l, f ∈ s.me.fthr ++ [(mask, u.nextId)]) ∧
        ((∃ q ∈ u.flight, q.1 < u.nextId ∧ ∃ a ∈ accessesOf q.2, a.1.contains s.cur = true) ∨
          (∃ a ∈ u.unitAccesses, a.1.contains s.cur = true) → (mask, u.nextId) ∈ l)) ∧
    (sc = .thr ∨ u.fenceWaits s.cur sc mask = false ∧ u.raceWaits s.cur sc mask = false → n ≠ 0 → CanTrap s →
      ∃ t, exec (.fence sc mask) s = .next t ∧ (t.ctx s.myTag).halt = some s.cur ∧
        t.me = s.me.enter (target s) (s.trapBase s.cur (target s)) 0x23 (BitVec.ofNat 64 n) false)

namespace Sys2Proof.Claim
/-- Barrier wire `k` of the executing tile has completed phase `p`. -/
def wireDone (s : State) (k : BarKind) (p : Bool) : Prop := s.myTile.barD.getLsbD (barIdx k) = p

end Sys2Proof.Claim

/-- MONARM arms the 256-byte line of its address with its written bit clear and returns the number of entries the
thread holds; it rearms a line already armed; with four entries, or 256 at the home, it returns 0 and arms
nothing. MONWAIT with a written bit set returns the bits in arming order and clears them; with none it returns 0
after its timeout, and otherwise parks. MONCLR frees every entry. Nothing else changes. (R315, R386, R387, R91.) -/
def Obligations.MonitorsComplete : Prop :=
    (∀ (s : State) (d r : GReg) (near : Bool) (c : Nat) (cs : List Nat) (h : Home),
      let ms := s.me.mons.filter fun m => !m.gone
      (s.access [0, 1, 2, 3] .load (s.g r) true (addr (s.g r)) 1 1).get 1 = .ok (near, c :: cs) →
      isRemoteCell c = false → s.homeOf c = some h →
      (ms.any (fun m => m.line == c / 256) = true → ∃ t l, exec (.monarm d r) s = .next t ∧
        Retires s t (({ s.me with mons := l } : Thread).setG d (BitVec.ofNat 64 ms.length)) (next4 s) ∧
        l.map (·.line) = s.me.mons.map (·.line) ∧ (∀ m ∈ l, m.line = c / 256 → m.gone = false → m.hit = false) ∧
        (∀ m ∈ l, m.line ≠ c / 256 → m ∈ s.me.mons)) ∧
      (ms.any (fun m => m.line == c / 256) = false → 4 ≤ ms.length ∨ 256 ≤ s.armedAt h →
        ∃ t, exec (.monarm d r) s = .next t ∧ Retires s t (s.me.setG d 0) (next4 s)) ∧
      (ms.any (fun m => m.line == c / 256) = false → ms.length < 4 → s.armedAt h < 256 →
        ∃ t, exec (.monarm d r) s = .next t ∧
          Retires s t (({ s.me with mons := s.me.mons ++ [{ line := c / 256, hit := false, gone := false }] } : Thread).setG
            d (BitVec.ofNat 64 (ms.length + 1))) (next4 s))) ∧
    (∀ (s : State) (d r : GReg),
      (s.me.mons.any (·.hit) = true → ∃ t, exec (.monwait d r) s = .next t ∧
        Retires s t (({ s.me with mons := (s.me.mons.filter fun m => !m.gone).map fun m => { m with hit := false } } : Thread).setG
          d (BitVec.ofNat 64 ((s.me.mons.zipIdx.map fun m => if m.1.hit then 2 ^ m.2 else 0).sum))) (next4 s)) ∧
      (s.me.mons.any (·.hit) = false → s.me.expired = true →
        ∃ t, exec (.monwait d r) s = .next t ∧ Retires s t (s.me.setG d 0) (next4 s)) ∧
      (s.me.mons.any (·.hit) = false → s.me.expired = false → s.lateAtPoints s.cur = false →
        ∃ t, exec (.monwait d r) s = .next t ∧ Waits s t (.parked .monitor) ∧
          (s.g r = 0 → t.me.expiry = s.me.expiry) ∧
          (s.g r ≠ 0 → s.me.expiry = none → s.det = false → t.me.expiry = some (s.tc s.cur.tile + (s.g r).toNat)))) ∧
    (∀ s : State, ∃ t, exec .monclr s = .next t ∧ Retires s t { s.me with mons := [] } (next4 s))

/-- A thread that may use the wires completes BARW, and BARWT with gd = 0, at once when its tile's wire has
completed the phase in bit 0 of gs. Otherwise the tile arrives with that phase, and BARW parks; BARWT parks
where gt is not 0 and returns 1 where it is. BARWT whose timeout has expired returns 0 if the phase is done and
1 if not. A task-level thread whose root does not own the wires takes capability (0x20). A completion sets D to
A at the tile and wakes every thread parked on that wire and phase, registers and bytes unchanged. (R232, R233,
R234, R345, R346, R91.) -/
def Obligations.BarrierWires : Prop :=
    (∀ (s : State) (k : BarKind) (r : GReg),
      let p := (s.g r).getLsbD 0
      (s.wiresOk = true → wireDone s k p →
        ∃ t, exec (.barw k r) s = .next t ∧ Retires s t s.me (next4 s)) ∧
      (s.wiresOk = true → s.me.expired = false → ¬ wireDone s k p → s.lateAtPoints s.cur = false →
        ∃ t, exec (.barw k r) s = .next t ∧ Waits s t (.parked (.wire k p)) ∧ t.myTile.barA.getLsbD (barIdx k) = p) ∧
      (s.wiresOk = false → s.me.expired = false → Clean s → CanTrap s →
        ∃ t, exec (.barw k r) s = .next t ∧ Enters s t (target s) 0x20 0)) ∧
    (∀ (s : State) (k : BarKind) (d r c : GReg), s.me.outcome = none → s.wiresOk = true →
      let p := (s.g r).getLsbD 0
      (wireDone s k p →
        ∃ t, exec (.barwt k d r c) s = .next t ∧ Retires s t (s.me.setG d 0) (next4 s)) ∧
      (s.me.expired = true → ¬ wireDone s k p →
        ∃ t, exec (.barwt k d r c) s = .next t ∧ Retires s t (s.me.setG d 1) (next4 s)) ∧
      (s.me.expired = false → ¬ wireDone s k p → s.g c = 0 →
        ∃ t, exec (.barwt k d r c) s = .next t ∧ t.myTile.barA.getLsbD (barIdx k) = p ∧
          t.me = (s.me.setG d 1).retireTo (next4 s) (s.counts? s.cur)) ∧
      (s.me.expired = false → ¬ wireDone s k p → s.g c ≠ 0 → s.lateAtPoints s.cur = false →
        ∃ t, exec (.barwt k d r c) s = .next t ∧ Waits s t (.parked (.wire k p)) ∧
          t.myTile.barA.getLsbD (barIdx k) = p)) ∧
    (∀ (s : State) (k : BarKind) (d r c : GReg), s.me.outcome = none → s.wiresOk = false → s.me.expired = false →
      Clean s → CanTrap s → ∃ t, exec (.barwt k d r c) s = .next t ∧ Enters s t (target s) 0x20 0) ∧
    (∀ (s : State) (n : Nat) (k : BarKind),
      let p := (s.tile n).barA.getLsbD (barIdx k)
      ∃ t, exec (.barrierCompletion n k) s = .next t ∧ (t.tile n).barD.getLsbD (barIdx k) = p ∧
        (∀ j, j ≠ barIdx k → (t.tile n).barD.getLsbD j = (s.tile n).barD.getLsbD j) ∧
        (∀ y, t.thread y = s.thread y) ∧ (∀ c, t.byte c = s.byte c) ∧
        (∀ x, x.tile = n → (s.thread x).st = .parked (.wire k p) →
          let w := s.part ((s.partOfTile n).getD 0)
          w.hold = none → ¬ (w.mode = 1 ∧ (s.thread x).priv = .task) →
          t.agenda.any (fun q => q.ev == .wakeArrival x) = true))

/-- CBSYNC, with its release done, retires when no engine holds a control block of its context (gs = 0) or the line
that gs names, and is held while one does. A wake makes a parked thread ready to reissue; one that declares its
page fault failed enters the handler with page-fault-unserved (0x19) and the address in TVAL; a wake of a thread
that is not parked changes nothing. A timeout that is due makes a parked thread reissue with its timed-out
result. No byte and no other thread changes. (R174, R352, R89, R91, R147.) -/
def Obligations.CbsyncAndWakes : Prop :=
    (∀ (s : State) (r : GReg), s.release = none →
      (s.g r = 0 → s.blocksOf s.myTag = [] →
        ∃ t, exec (.cbsync r) s = .next t ∧ Retires s t s.me (next4 s)) ∧
      (s.g r = 0 → s.blocksOf s.myTag ≠ [] →
        ∃ t, exec (.cbsync r) s = .next t ∧ Waits s t .held ∧ OnlyThread s t s.cur) ∧
      (∀ near c cs, s.g r ≠ 0 → s.access [0, 1, 2, 3] .graph (s.g r) true (addr (s.g r)) 1 1 = .cells near (c :: cs) →
        (s.heldLines.contains (c / 256) = false →
          ∃ t, exec (.cbsync r) s = .next t ∧ Retires s t s.me (next4 s)) ∧
        (s.heldLines.contains (c / 256) = true →
          ∃ t, exec (.cbsync r) s = .next t ∧ Waits s t .held ∧ OnlyThread s t s.cur))) ∧
    (∀ (s : State) (x : ThreadId) (p : Park), (s.thread x).st = .parked p →
      ((s.thread x).failed = none → ∃ t, exec (.wakeArrival x) s = .next t ∧ OnlyThread s t x ∧
        t.thread x = { s.thread x with st := .ready }) ∧
      (∀ va, (s.thread x).failed = some va →
        let h := trapTarget false (s.thread x).priv
        s.trapReady x h = true → ∃ t, exec (.wakeArrival x) s = .next t ∧ OnlyThread s t x ∧
          t.thread x = ({ s.thread x with failed := none } : Thread).enter h (s.trapBase x h) 0x19 va false) ∧
      (∀ e, (s.thread x).expiry = some e → e ≤ s.tc x.tile → ∃ t, exec (.waitTimeout x) s = .next t ∧ OnlyThread s t x ∧
        t.thread x = { s.thread x with st := .ready, expired := true })) ∧
    (∀ (s : State) (x : ThreadId), (∀ p, (s.thread x).st ≠ .parked p) → exec (.wakeArrival x) s = .next s)

namespace Sys2Proof.Claim
/-- What a miss finds: an entry of its cluster's second level, or the leaf that a walk of its owner's tables ends at. -/
def Finds (s : State) (r : WalkReq) (e : TlbEntry) : Prop :=
  let tag := s.tagOf r.tid
  let held := (SMap.get [] s.l2 (clusterOf r.tid.tile)).find? fun x => x.covers tag r.va
  held = some e ∨ held = none ∧ ∃ l log level pte,
    walk s (s.owner tag).ptroot r.va = .leaf l log level pte ∧ e = fillEntry s tag r.va l log level pte

/-- A late fault does not come before the parking of a thread: it runs in ordinary mode with the record log off, or has
no matrix instruction queued and no late fault due (R260). -/
def MayPark (s : State) (x : ThreadId) : Prop :=
  s.lateAtPoints x = false ∨ s.matrixBusy x = false ∧ (s.thread x).lateDue = false

end Sys2Proof.Claim

/-- A miss of a thread that waits ends in one of four ways. Where its cluster's second level or a walk has an entry
and every check passes, the tile's TLB then holds it and the thread is ready to reissue; where a check fails,
the thread is ready and no TLB changes. At an entry with V = 0 the thread parks and a record of the fault
(address, path, thread, tag, level) joins its partition's fault queue. At a malformed table it enters the
handler with table-malformed (0x1A) and the address in TVAL. No byte and no other thread changes. A miss of a
thread that no longer waits changes nothing but its agent's queue. (R131, R133, R137, R144, R145.) -/
def Obligations.WalksEnd : Prop :=
    ∀ (s : State) (r : WalkReq),
    let tag := s.tagOf r.tid
    let n := (s.partOfTile r.tid.tile).getD 0
    let check (e : TlbEntry) := s.checkLeaf (tagPart tag) (s.thread r.tid).priv r.kind r.va e
    let missed : Prop := ∀ e ∈ SMap.get [] s.l2 (clusterOf r.tid.tile), e.covers tag r.va = false
    ((s.thread r.tid).st = .awaiting →
      (∀ e spot, Finds s r e → check e = .ok spot →
        ∃ t, exec (.pageWalk r) s = .next t ∧ t.lookup r.tid.tile r.kind tag r.va = some e ∧
          t.thread r.tid = { s.thread r.tid with st := .ready } ∧
          (∀ y, y ≠ r.tid → t.thread y = s.thread y) ∧ (∀ c, t.byte c = s.byte c)) ∧
      (∀ e w, Finds s r e → check e = .error w →
        ∃ t, exec (.pageWalk r) s = .next t ∧ OnlyThread (s.walkEnds r) t r.tid ∧
          t.thread r.tid = { s.thread r.tid with st := .ready, walked := some e } ∧
          (∀ m, (t.tile m).dtlb = (s.tile m).dtlb ∧ (t.tile m).itlb = (s.tile m).itlb) ∧ t.l2 = s.l2) ∧
      (∀ level pte, missed → walk s (s.owner tag).ptroot r.va = .invalid level pte → MayPark s r.tid →
        ∃ t f, exec (.pageWalk r) s = .next t ∧
          t.thread r.tid = { s.thread r.tid with st := .parked .pageFault, walked := none } ∧
          (t.part n).faultQ = (s.part n).faultQ ++ [f] ∧ f.who = .thread r.tid tag ∧
          f.agent = clusterOf r.tid.tile ∧
          bits f.d0 50 0 = r.va % 2 ^ 51 ∧ bits f.d1 39 16 = tag.toNat ∧ bits f.d2 2 0 = level % 8 ∧
          (r.path < 8 → bits f.d0 53 51 = r.path) ∧ bits f.d1 15 12 = r.tid.slot % 16 ∧
          t.agenda.any (fun q => q.ev == .faultRingCopy n) = true ∧
          (∀ y, y ≠ r.tid → t.thread y = s.thread y) ∧ (∀ c, t.byte c = s.byte c)) ∧
      (missed → walk s (s.owner tag).ptroot r.va = .malformed → Clean s →
        let h := trapTarget false (s.thread r.tid).priv
        s.trapReady r.tid h = true →
        ∃ t, exec (.pageWalk r) s = .next t ∧ OnlyThread (s.walkEnds r) t r.tid ∧
          t.thread r.tid = (s.thread r.tid).enter h (s.trapBase r.tid h) 0x1A (BitVec.ofNat 64 r.va) false)) ∧
    ((s.thread r.tid).st ≠ .awaiting → exec (.pageWalk r) s = .next (s.walkEnds r) ∧
      ∃ w l, s.walkEnds r = { s with walks := w, walkLast := l })

namespace Sys2Proof.Claim
/-- The cell of the fault ring slot at the head, and the room of the ring. -/
def ringSlot (s : State) (n : Nat) : Nat :=
  bits (s.part n).fltb 50 12 * 4096 + (s.part n).fltHead % 2 ^ (bits (s.part n).fltb 55 51 + 7) * 32

end Sys2Proof.Claim

/-- The oldest fault of the first agent's queue that holds one, by logical z and cluster, enters the fault ring
where it has room: its four dwords are written at the head, FLTH is one more modulo 2^32, and no other byte
changes; with no room, or nothing queued, nothing changes. A write of FLTDONE that names the oldest entry takes
it from the ring and sends the wake of its thread (that no boundary keeps), which with ACT 1 is told that the
fault has failed; one that names a later entry is recorded and waits its turn; one that names no entry of the
ring changes nothing. (R144, R145, R146, R147, R317.) -/
def Obligations.FaultRingService : Prop :=
    (∀ (s : State) (n : Nat), (s.part n).faultQ ≠ [] → Clean s → Here (cellsFrom (ringSlot s n) 32) →
      ringRoom (s.part n).fltHead (s.part n).fltSent (bits (s.part n).fltb 55 51 + 7) = true →
      ∃ t f older newer, exec (.faultRingCopy n) s = .next t ∧ (s.part n).faultQ = older ++ f :: newer ∧
        (∀ g ∈ older, g.agent ≠ f.agent) ∧ (∀ g ∈ (s.part n).faultQ, s.agentRank n f.agent ≤ s.agentRank n g.agent) ∧
        (t.part n).faultQ = older ++ newer ∧
        (t.part n).faults = (s.part n).faults ++ [f] ∧ (t.part n).fltHead = ((s.part n).fltHead + 1) % 2 ^ 32 ∧
        ∀ c, t.byte c = written s.byte (wordAt (ringSlot s n) f.d0 ++ wordAt (ringSlot s n + 8) f.d1 ++
          wordAt (ringSlot s n + 16) f.d2 ++ wordAt (ringSlot s n + 24) f.d3) c) ∧
    (∀ (s : State) (n : Nat), (s.part n).faultQ = [] ∨
        ringRoom (s.part n).fltHead (s.part n).fltSent (bits (s.part n).fltb 55 51 + 7) = false →
      exec (.faultRingCopy n) s = .next s) ∧
    (∀ (s : State) (n idx : Nat) (fail : Bool),
      let e : Instr := if fail then .fltdoneFail n idx else .fltdoneRetry n idx
      let i := (idx + 2 ^ 32 - (s.part n).fltSent) % 2 ^ 32
      ((s.part n).faults.length ≤ i → exec e s = .next s) ∧
      (∀ f fs x tag, (s.part n).faults = f :: fs → i = 0 → f.who = .thread x tag → f.void = false →
        (∀ g ∈ fs, g.act = none ∧ g.void = false) → s.tagOf x = tag → (s.thread x).st = .parked .pageFault →
        (let p := s.part ((s.partOfTile x.tile).getD 0)
         p.hold = none ∧ (p.mode ≠ 1 ∧ p.quanta = false ∨ (s.thread x).priv ≠ .task)) →
        ∃ t, exec e s = .next t ∧ (t.part n).faults = fs ∧ (t.part n).fltSent = ((s.part n).fltSent + 1) % 2 ^ 32 ∧
          t.agenda.any (fun q => q.ev == .wakeArrival x) = true ∧
          t.thread x = (if fail then { s.thread x with failed := some (BitVec.ofNat 64 (bits f.d0 50 0)) }
                        else s.thread x) ∧
          (∀ y, y ≠ x → t.thread y = s.thread y) ∧ (∀ c, t.byte c = s.byte c)) ∧
      (∀ f fs, (s.part n).faults = f :: fs → f.act = none → f.void = false → 0 < i → i ≤ fs.length →
        ∃ t, exec e s = .next t ∧ (t.part n).fltSent = (s.part n).fltSent ∧
          (t.part n).faults.map (·.act) = ((s.part n).faults.map (·.act)).set i (some fail) ∧
          (∀ y, t.thread y = s.thread y) ∧ (∀ c, t.byte c = s.byte c)))

/-- A step of a merge whose oldest entry names a page with a leaf sets bit DT of that leaf, writes no other byte,
and frees the entry. DLOGH retires when every entry that its tile's log held when it was first tried is merged,
and is held, with the merge on its way, while one is not. A write of BKECC zeroes the data and the side bytes of
the granule it names, gives it its mode, takes its vacated mark, and changes no other byte; one that names an
absent bank changes nothing. (R142, R143, R151, R152.) -/
def Obligations.DirtyLogsAndModes : Prop :=
    (∀ (s : State) (n : Nat) (e log level pte : Nat) (l : Word), (s.tile n).dirtyHead < (s.tile n).dirtyTail →
      let ent := s.read64 (dirtyCell n (s.tile n).dirtyHead)
      let tag := mkTag (bits ent 11 4) ((s.partOfTile n).getD 0) 0
      walk s (s.owner tag).ptroot (bits ent 50 12 * 4096) = .leaf l log level pte → Here (cellsFrom pte 8) → Clean s →
      ∃ t, exec (.dirtyLogMerge n) s = .next t ∧ (t.tile n).dirtyHead = (s.tile n).dirtyHead + 1 ∧
        (t.tile n).dirtyTail = (s.tile n).dirtyTail ∧ (∀ c, t.byte c = written s.byte (wordAt pte (l ||| 0x800#64)) c) ∧
        (∀ y, SameRegs (t.thread y) (s.thread y) ∧ (t.thread y).pc = (s.thread y).pc)) ∧
    (∀ s : State,
      let goal := (s.me.outcome.map (·.toNat)).getD s.myTile.dirtyTail
      (goal ≤ s.myTile.dirtyHead → ∃ t, exec .dlogh s = .next t ∧ Retires s t s.me (next4 s)) ∧
      (s.myTile.dirtyHead < goal → ∃ t, exec .dlogh s = .next t ∧ Waits s t .held ∧
        t.me.outcome = some (BitVec.ofNat 64 goal) ∧ t.agenda.any (fun q => q.ev == .dirtyLogMerge s.cur.tile) = true)) ∧
    (∀ (s : State),
      let v := s.myTile.bkecc.toNat
      (∀ g, s.bkGranule v = some g → ∃ t, exec .bkeccWrite s = .next t ∧
        (∀ c, t.byte c =
          if g * 4096 ≤ c ∧ c < g * 4096 + 4096 ∨
              2 ^ 64 + (g * 4096 - 2 ^ 63) / 4 ≤ c ∧ c < 2 ^ 64 + (g * 4096 - 2 ^ 63) / 4 + 1024
          then 0 else s.byte c) ∧
        SMap.get 0 t.gmode g = v / 2 ^ 10 % 4 ∧ SMap.get false t.vacated g = false ∧
        (∀ h, h ≠ g → SMap.get 0 t.gmode h = SMap.get 0 s.gmode h ∧
          SMap.get false t.vacated h = SMap.get false s.vacated h) ∧
        (∀ y, t.thread y = s.thread y)) ∧
      (s.bkGranule v = none → exec .bkeccWrite s = .next s))

/-- At supervisor or steward level (for ALL at steward level) TLBINV removes from the TLBs of the tiles in its scope
every entry that its kind and value name and keeps every other (from the graph engine too where the scope is the
device), and a walk that found one begins anew; the buffered stores of those tiles go on their way; it retires
when no access made there before it on a translated path, by a thread, the matrix unit, a Kettle command or a
collective, and no copy is left to be performed, and is held otherwise; no register and no byte changes. A lower
level takes privilege (0x03) with the instruction in TVAL; a page size of 10 to 14 takes invalid-operand (0x0B)
with gs. (R139, R140, R421, R257.) -/
def Obligations.TlbInvalidation : Prop :=
    ∀ (s : State) (r : GReg) (kind : TlbKind) (scope : TlbScope),
    let v := s.g r
    let may : Bool := s.me.priv != .task && (kind != .all || s.me.priv == .steward)
    let bad : Bool := kind == .page && 10 ≤ bits v 3 0 && bits v 3 0 ≤ 14
    let tiles := s.invTiles scope (kind == .all)
    let parts := s.invParts scope (kind == .all)
    let hit := tlbHit (tagOwner s.myTag) kind v
    let u := tiles.foldl (fun x n => x.drainLines n fun _ => true) (s.dropTlb tiles parts hit (rocHitBy (tagOwner s.myTag) kind v))
    let since := (s.me.outcome.map (·.toNat)).getD u.nextId
    let quiet : Prop :=
      (∀ q ∈ u.flight, q.1 < since → ∀ a ∈ accessesOf q.2, a.2.1 = 0 ∨ a.2.1 = 4 ∨ a.2.1 = 5 → ∀ x ∈ a.1, x.tile ∉ tiles) ∧
      (∀ a ∈ u.unitAccesses, a.2.1 = 0 ∨ 4 ≤ a.2.1 ∧ a.2.1 ≤ 6 → ∀ x ∈ a.1, x.tile ∉ tiles) ∧
      (∀ n, n < 8 → ∀ c ∈ (u.part n).colls, ∀ p ∈ c.parts, p.ord < since → p.tile ∉ tiles) ∧
      ∀ e ∈ u.tiles, e.1 ∈ tiles → e.2.engQ = []
    (may = true → bad = false → ∃ t, exec (.tlbinv r kind scope) s = .next t ∧
      (∀ n, (t.tile n).dtlb = (if n ∈ tiles then (s.tile n).dtlb.filter fun e => !hit e else (s.tile n).dtlb) ∧
        (t.tile n).itlb = (if n ∈ tiles then (s.tile n).itlb.filter fun e => !hit e else (s.tile n).itlb)) ∧
      (∀ c, SMap.get [] t.l2 c = (if c ∈ tiles.map clusterOf then (SMap.get [] s.l2 c).filter fun e => !hit e
        else SMap.get [] s.l2 c)) ∧
      (∀ n, n < 8 → (t.part n).gtlb =
        if n ∈ parts then (s.part n).gtlb.filter fun e => !hit e else (s.part n).gtlb) ∧
      (∀ y, y ≠ s.cur → t.thread y = (if y.tile ∈ tiles then
        { s.thread y with walked := (s.thread y).walked.filter fun e => !hit e } else s.thread y)) ∧
      (∀ c, t.byte c = s.byte c) ∧
      (quiet → t.me = s.me.retireTo (next4 s) (s.counts? s.cur)) ∧
      (¬ quiet → t.me = { s.me with st := .held, walked := none, outcome := some (BitVec.ofNat 64 since) })) ∧
    (may = false → Clean s → CanTrap s → ∃ t, exec (.tlbinv r kind scope) s = .next t ∧
      Enters s t (target s) 0x03 (BitVec.ofNat 64 (encodeWord (.tlbinv r kind scope)))) ∧
    (may = true → bad = true → Clean s → CanTrap s → ∃ t, exec (.tlbinv r kind scope) s = .next t ∧
      Enters s t (target s) 0x0B v)

/-- When a remote device is lost and every partition's window table lies in HBM, the event completes: in each
partition whose table no other shares, the state of every open window of that device becomes 2 and every other
window's state stays; the translations through windows of that device leave the TLBs of every partition's tiles;
no register of any thread changes. Where no partition is valid nothing changes. (R149, R150.) -/
def Obligations.RemoteDeviceLost : Prop :=
    (∀ (s : State) (dev : Nat), (∀ n, n < 8 → pdescValid (s.pdesc n) = false) → Clean s →
      exec (.remoteDeviceLost dev) s = .next s) ∧
    (∀ (s : State) (dev : Nat),
      let valid (n : Nat) : Prop := n < 8 ∧ pdescValid (s.pdesc n) = true
      let at_ (n : Nat) : Nat := bits (s.part n).winb 50 17 * 2 ^ 17
      (∀ n, valid n → at_ n + 2 ^ 17 ≤ hbmSize) → Clean s →
      ∃ t, exec (.remoteDeviceLost dev) s = .next t ∧
        (∀ n, valid n → (∀ m, valid m → m ≠ n → at_ m ≠ at_ n) → ∀ w, w < 4096 →
          let e := s.read64 (at_ n + w * 32)
          t.importSt n w = if bits e 1 0 = 1 ∧ bits e 31 16 = dev then 2 else bits e 1 0) ∧
        (∀ n, valid n → ∀ m ∈ s.tilesOf n, ∀ e ∈ (t.tile m).dtlb, ¬ (leafHome e.leaf = 2 ∧ e.dev = dev)) ∧
        (∀ y, SameRegs (t.thread y) (s.thread y)))

namespace Sys2Proof.Claim
/-- An atomic of `u` bytes through `a` reaches the location at cell `c` of home `h`, and nothing holds it back; where
its page is not near, the page is already marked dirty. -/
def AtomReach (s : State) (a : AReg) (u : Nat) (c : Nat) (h : Home) : Prop :=
  let p := s.me.getA a
  ∃ near cs, (s.access [0, 1, 2, 3] .atomic p true (addr p) u u).get u = .ok (near, c :: cs) ∧ s.dieCopy = false ∧
    s.cellHome c = some h ∧ s.mustHold (ptrPath p) (c :: cs) = false ∧
    (near = false → ∃ e, s.lookup s.cur.tile .store s.myTag (addr p) = some e ∧ e.dt = true)

/-- The request of an instruction, as it leaves. -/
def request (s : State) (i : Instr) (a : AReg) (u c : Nat) (h : Home) (fn : GuestFn) (x0 x1 e0 e1 : Word) (ret : Bool)
    (d : GReg) : GuestOp :=
  { tid := s.cur, tag := s.myTag, path := ptrPath (s.me.getA a), ptr := s.me.getA a
    insn := BitVec.ofNat 32 (encodeWord i), home := h, cell := c, bytes := u, fn := fn, x0 := x0, x1 := x1, e0 := e0
    e1 := e1, ret := ret, dest := d, ord := s.nextId }

/-- What the admission of a guest posts: in a Kettle unit its operation; at a tile it waits for its slot's turn. -/
def guestPosts (h : Home) (r : GuestOp) : List Instr :=
  match h with
  | .kettle _ => [.atomicAtHome r]
  | _ => []

/-- A request has gone to its home: in a guest slot where the home has one free and none waits, and in a Kettle unit
on its way; else in the queue there. -/
def SentTo (s t : State) (h : Home) (r : GuestOp) : Prop :=
  match h with
  | .remote _ => t.agenda.any (fun q => q.ev == .atomicAtHome r) = true
  | _ =>
    match s.freeGuest h, (s.guestsAt h).2 with
    | some i, [] => t.guestsAt h = ((s.guestsAt h).1 ++ [(i, r)], []) ∧
        t.agenda.map (·.ev) = s.agenda.map (·.ev) ++ guestPosts h r
    | _, q => t.guestsAt h = ((s.guestsAt h).1, q ++ [r]) ∧ t.agenda = s.agenda

/-- Nothing to release before an operation of a scope. -/
def Released (s : State) (sc : Scope) : Prop := sc = .thr ∨ s.releaseAt sc = none

end Sys2Proof.Claim

/-- Outside deterministic mode, an AMO, CAS or CAS128 that passes its checks waits while its request, with its
operands as they are, goes to the home of its location; a RED retires at once. The request takes a guest slot at
its home, or queues there in arrival order when none is free (5 of a tile, 16 of a Kettle unit). When a slot is
free the head of the queue is admitted. No register changes and no byte before the request runs. (R40, R190,
R191, R192, R343, R398.) -/
def Obligations.AtomicsLeave : Prop :=
    (∀ (s : State) (a : AReg) (d v : GReg) (sc : Scope) (w32 : Bool) (op : AtomOp) (c : Nat) (h : Home),
      let u := if w32 then 4 else 8
      s.det = false →
      (AtomReach s a u c h → Released s sc →
        (let i : Instr := .amo op w32 sc d a v
         ∃ t, exec i s = .next t ∧ Waits s t .awaiting ∧
          SentTo s t h (request s i a u c h (.amo op) (s.g v) 0 0 0 true d)) ∧
        (let i : Instr := .cas w32 sc d a v
         ∃ t, exec i s = .next t ∧ Waits s t .awaiting ∧
          SentTo s t h (request s i a u c h .cas (s.g v) 0 (s.g d) 0 true d))) ∧
      (AtomReach s a 16 c h → Released s sc →
        let i : Instr := .cas128 sc d a v
        ∃ t, exec i s = .next t ∧ Waits s t .awaiting ∧
          SentTo s t h (request s i a 16 c h .cas128 (s.g v) (s.g (v + 1)) (s.g d) (s.g (d + 1)) true d)) ∧
      (AtomReach s a u c h →
        let i : Instr := .red op w32 a v
        ∃ t, exec i s = .next t ∧ SameRegs t.me s.me ∧ t.me.pc = next4 s ∧ t.me.retired = s.me.retired + 1 ∧
          (∀ y, y ≠ s.cur → t.thread y = s.thread y) ∧ (∀ b, t.byte b = s.byte b) ∧
          SentTo s t h (request s i a u c h (.amo op) (BitVec.ofNat 64 ((s.g v).toNat % 2 ^ (8 * u))) 0 0 0 false 0))) ∧
    (∀ (s : State) (n : Nat),
      let h := homeOfNumber n
      (∀ r rest i, (s.guestsAt h).2 = r :: rest → s.freeGuest h = some i →
        ∃ t, exec (.guestAdmit n) s = .next t ∧ t.guestsAt h = ((s.guestsAt h).1 ++ [(i, r)], rest) ∧
          t.agenda.map (·.ev) = s.agenda.map (·.ev) ++ guestPosts h r ∧ (∀ y, t.thread y = s.thread y) ∧
          ∀ b, t.byte b = s.byte b) ∧
      ((s.guestsAt h).2 = [] ∨ s.freeGuest h = none → exec (.guestAdmit n) s = .next s))

namespace Sys2Proof.Claim
/-- The new value of a location of an AMO or RED (R192). -/
def amoResult {w : Nat} (op : AtomOp) (x v : BitVec w) : BitVec w :=
  match op with
  | .add => x + v
  | .and => x &&& v
  | .or => x ||| v
  | .xor => x ^^^ v
  | .min => if v.toInt < x.toInt then v else x
  | .max => if x.toInt < v.toInt then v else x
  | .minu => if v.toNat < x.toNat then v else x
  | .maxu => if x.toNat < v.toNat then v else x
  | .swap => v

/-- The bytes of an n-byte number at a cell. -/
def numAt (c n v : Nat) : List (Nat × Byte) := (cellsFrom c n).zip (bytesOfNat n v)

/-- What an admitted guest operation leaves at its location. -/
def guestWrites (s : State) (r : GuestOp) : List (Nat × Byte) :=
  let x := s.readN r.cell r.bytes
  match r.fn with
  | .amo op => numAt r.cell r.bytes
      (amoResult op (BitVec.ofNat (8 * r.bytes) x) (BitVec.ofNat (8 * r.bytes) r.x0.toNat)).toNat
  | .cas => if x = r.e0.toNat % 2 ^ (8 * r.bytes) then numAt r.cell r.bytes (r.x0.toNat % 2 ^ (8 * r.bytes)) else []
  | .cas128 => if x = r.e0.toNat + r.e1.toNat * 2 ^ 64 then wordAt r.cell r.x0 ++ wordAt (r.cell + 8) r.x1 else []

/-- What a returning guest operation answers: the old value. -/
def guestAnswer (s : State) (r : GuestOp) : Answer :=
  match r.fn with
  | .cas128 => .pair (s.read64 r.cell) (s.read64 (r.cell + 8))
  | _ => .value ((BitVec.ofNat (8 * r.bytes) (s.readN r.cell r.bytes)).signExtend 64)

end Sys2Proof.Claim

/-- At its home a guest operation that the region's mode admits reads its location, writes the result of its
operation (for CAS and CAS128 the new value, only where the old value is the expected one), and changes no other
byte; a returning one answers the old value, sign-extended; one that is not admitted changes nothing and answers
capability (0x20) or capability-mode (0x21) with the granule's address. The answer writes its destination
registers (and the flags of a ticketed update) and retires the thread that waits; a fault enters its handler; a
refusal parks it. An answer to a thread that no longer waits changes nothing. (R164, R180, R190, R191, R192,
R344.) -/
def Obligations.AtomicsAct : Prop :=
    (∀ (s : State) (r : GuestOp), (∀ w, r.home ≠ .remote w) → r.bytes = (match r.fn with
        | .cas128 => 16
        | _ => if r.bytes = 4 then 4 else 8) → Here (cellsFrom r.cell r.bytes) → Clean s →
      (s.guestCheck r.tag (cellGranule r.cell) = none → s.firstPoison (cellsFrom r.cell r.bytes) = none →
        (r.ret = true ∨ (s.ctx r.tag).dying = false) →
        (s.thread r.tid).st ≠ .parked .racing →
        ∃ t, exec (.atomicAtHome r) s = .next t ∧ (∀ b, t.byte b = written s.byte (guestWrites s r) b) ∧
          (r.ret = true → t.agenda.any (fun q => q.ev == .atomicAnswer r.tid r.dest true (guestAnswer s r)) = true) ∧
          (∀ y, SameRegs (t.thread y) (s.thread y) ∧ (t.thread y).pc = (s.thread y).pc)) ∧
      (∀ cause, s.guestCheck r.tag (cellGranule r.cell) = some cause → r.ret = true →
        (s.thread r.tid).st ≠ .parked .racing →
        ∃ t, exec (.atomicAtHome r) s = .next t ∧ (∀ b, t.byte b = s.byte b) ∧ (∀ y, t.thread y = s.thread y) ∧
          t.agenda.any (fun q => q.ev ==
            .atomicAnswer r.tid r.dest true (.fault cause (s.granAddr (cellGranule r.cell)))) = true)) ∧
    (∀ (s : State) (x : ThreadId) (d : GReg) (ret : Bool),
      let th := s.thread x
      let goes (a : Answer) (th' : Thread) : Prop := ∃ t, exec (.atomicAnswer x d ret a) s = .next t ∧ OnlyThread s t x ∧
        t.thread x = th'.retireTo (th.pc + 4#51) (s.counts? x)
      (s.expects x = true →
        (∀ v, goes (.value v) (if ret then th.setG d v else th)) ∧
        (∀ lo hi, goes (.pair lo hi) ((th.setG d lo).setG (d + 1) hi)) ∧
        (∀ v f, goes (.applied v f)
          (if ret then { th.setG d v with fstat := th.fstat ||| f } else th)) ∧
        goes .retire th ∧
        (∀ h, MayPark s x → ∃ t, exec (.atomicAnswer x d ret (.refused h)) s = .next t ∧ OnlyThread s t x ∧
          t.thread x = { th with st := .parked (.ticket h), walked := none }) ∧
        (∀ c v, let l := trapTarget false th.priv
          s.trapReady x l = true → ∃ t, exec (.atomicAnswer x d ret (.fault c v)) s = .next t ∧ OnlyThread s t x ∧
            t.thread x = th.enter l (s.trapBase x l) c v false)) ∧
      (s.expects x = false → ∀ a, exec (.atomicAnswer x d ret a) s = .next s))

namespace Sys2Proof.Claim
/-- The update that a TFADD, TFMIN or TFMAX sends. -/
def update (s : State) (i : Instr) (op : TfOp) (f : TfFmt) (d : GReg) (a : AReg) (v k : GReg) (c : Nat) (h : Home) : TkUpd :=
  { tid := s.cur, tag := s.myTag, path := ptrPath (s.me.getA a), ptr := s.me.getA a
    insn := BitVec.ofNat 32 (encodeWord i), home := h, cell := c, op := op, fmt := f
    v := BitVec.ofNat 64 ((s.g v).toNat % 2 ^ (8 * tfWidth f)), t := s.g k, ret := d ≠ 0, dest := d, ord := s.nextId }

/-- A ticketed update finds its window: its region is in ticket mode, of its root and owner, not broken, of its
width. -/
def TicketReach (s : State) (r : TkUpd) (w : TicketWindow) : Prop :=
  (∀ x, r.home ≠ .remote x) ∧ capMode (s.cap (cellGranule r.cell)) = 2 ∧
  capRoot (s.cap (cellGranule r.cell)) = (s.ctx r.tag).root ∧
  ownerKey (capHolder (s.cap (cellGranule r.cell))) = ownerKey r.tag ∧ s.windowAt r.cell = some w ∧
  tfWidth r.fmt = w.width ∧ w.st ≠ .broken ∧ (∀ x ∈ s.windows, x.id = w.id → x = w)

end Sys2Proof.Claim

/-- TFADD, TFMIN and TFMAX send their update and wait. At the home of its cell an update whose ticket equals the
cell's cursor is applied: the cell takes the result, no other byte changes, the cursor is one more, and the
sender is answered (a returning form with the old value and the flags). One whose ticket is still to come is
kept at the home, its cell unchanged, and a non-returning sender is answered that it may go on. One whose ticket
is past, or outside the window, is answered with ticket-range (0x24) in a returning form. One for which no place
in the queue is free parks its waiting sender on the home. A returning update of a region that is not in ticket
mode is answered with capability-mode (0x21). (R179, R180, R181, R182, R417.) -/
def Obligations.TicketedUpdates : Prop :=
    (∀ (s : State) (f : TfFmt) (d : GReg) (a : AReg) (v k : GReg) (c : Nat) (h : Home),
      AtomReach s a (tfWidth f) c h →
      let sent (i : Instr) (op : TfOp) : Prop := ∃ t, exec i s = .next t ∧ Waits s t .awaiting ∧ OnlyThread s { t with agenda := s.agenda, nextId := s.nextId } s.cur ∧
        t.agenda.map (·.ev) = s.agenda.map (·.ev) ++ [.ticketUpdateArrival (update s i op f d a v k c h)]
      sent (.tfadd f d a v k) .add ∧ sent (.tfmin f d a v k) .min ∧ sent (.tfmax f d a v k) .max) ∧
    (∀ (s : State) (r : TkUpd) (w : TicketWindow), TicketReach s r w → Here (cellsFrom r.cell (tfWidth r.fmt)) → Clean s →
      let n := tfWidth r.fmt
      let k : Int := (r.t.toNat : Int) - w.b
      let old := s.readN r.cell n
      let answers (t : State) (a : Answer) : Prop := t.agenda.any (fun q => q.ev == .atomicAnswer r.tid r.dest r.ret a) = true
      (w.void = [] → w.caddy = [] → k = w.cursor r.cell → k < w.n → s.firstPoison (cellsFrom r.cell n) = none →
        ∃ t, exec (.ticketUpdateArrival r) s = .next t ∧
          (∀ b, t.byte b = written s.byte (numAt r.cell n (tfNew r.fmt r.op old r.v.toNat).1) b) ∧
          t.windowAt r.cell = some (w.setCursor r.cell (w.cursor r.cell + 1)) ∧
          answers t (if r.ret then .applied (BitVec.ofNat 64 old) (tfNew r.fmt r.op old r.v.toNat).2 else .retire) ∧
          (∀ y, SameRegs (t.thread y) (s.thread y))) ∧
      ((w.cursor r.cell : Int) < k → k < w.n → w.void.contains k.toNat = false →
        (∀ e ∈ w.caddy, e.upd.cell ≠ r.cell ∨ e.ticket ≠ k.toNat) → s.caddyUse r.home < 256 →
        ∃ t, exec (.ticketUpdateArrival r) s = .next t ∧ (∀ b, t.byte b = s.byte b) ∧
          t.windowAt r.cell = some { w with caddy := w.caddy ++ [{ upd := r, ticket := k.toNat }] } ∧
          (r.ret = true → t.agenda = s.agenda) ∧ (r.ret = false → answers t .retire) ∧
          (∀ y, t.thread y = s.thread y)) ∧
      (k < w.cursor r.cell ∨ (w.n : Int) ≤ k → r.ret = true →
        ∃ t, exec (.ticketUpdateArrival r) s = .next t ∧ (∀ b, t.byte b = s.byte b) ∧ t.windows = s.windows ∧
          answers t (.fault 0x24 r.ptr) ∧ (∀ y, t.thread y = s.thread y)) ∧
      ((w.cursor r.cell : Int) < k → k < w.n → w.void.contains k.toNat = false →
        (∀ e ∈ w.caddy, e.upd.cell ≠ r.cell ∨ e.ticket ≠ k.toNat) → 256 ≤ s.caddyUse r.home → s.expects r.tid = true →
        MayPark s r.tid →
        ∃ t, exec (.ticketUpdateArrival r) s = .next t ∧ OnlyThread s t r.tid ∧
          t.thread r.tid = { s.thread r.tid with st := .parked (.ticket r.home), walked := none })) ∧
    (∀ (s : State) (r : TkUpd), (∀ x, r.home ≠ .remote x) → capMode (s.cap (cellGranule r.cell)) ≠ 2 → r.ret = true →
      Here [r.cell] → Clean s →
      ∃ t, exec (.ticketUpdateArrival r) s = .next t ∧ (∀ b, t.byte b = s.byte b) ∧ (∀ y, t.thread y = s.thread y) ∧
        t.agenda.any (fun q => q.ev == .atomicAnswer r.tid r.dest true (.fault 0x21 r.ptr)) = true)

namespace Sys2Proof.Claim
/-- The operands of a TKOPEN pass every check, and its granules `gs` have the homes `hs`. -/
structure OpenReady (s : State) (a : AReg) (v : GReg) (gs : List Nat) (hs : List Home) : Prop where
  fresh : s.opened = none
  path  : addr (s.me.getA a) % 4096 = 0 ∧ ptrPath (s.me.getA a) ≤ 3
  near  : ptrPath (s.me.getA a) = 0 → ∀ i, i < bits (s.g v) 59 48 + 1 →
    (∀ e, s.lookup s.cur.tile .load s.myTag (addr (s.me.getA a) + i * 4096) = some e → leafHome e.leaf ≠ 2) ∧
    (s.lookup s.cur.tile .load s.myTag (addr (s.me.getA a) + i * 4096) = none → ∀ e l lv pte, walk s (s.owner s.myTag).ptroot (addr (s.me.getA a) + i * 4096) = .leaf e l lv pte → leafHome e ≠ 2)
  value : bits (s.g v) 47 32 ≠ 0 ∧ bits (s.g v) 31 0 + bits (s.g v) 47 32 ≤ 2 ^ 32 ∧ bits (s.g v) 63 60 = 0
  range : s.rangeGranules (s.me.getA a) .store (bits (s.g v) 59 48 + 1) = .ok gs
  mine  : s.dieCopy = false ∧ ∀ g ∈ gs, capHolder (s.cap g) = s.myTag ∧ capPend (s.cap g) = false ∧ capMode (s.cap g) = 0
  homes : (gs.map fun g => s.homeOf (g * 4096)).eraseDups = hs.map some

/-- A TKCLOSE, TKSKIP or TKDRAIN of the owner reaches its window through `a`. -/
def TkReach (s : State) (a : AReg) (w : TicketWindow) : Prop :=
  let p := s.me.getA a
  ∃ near c cs, (s.access [0, 1, 2, 3] .store p true (addr p) 1 1).get 1 = .ok (near, c :: cs) ∧ s.windowAt c = some w ∧
    capMode (s.cap (cellGranule c)) = 2 ∧ w.owner = s.myTag ∧ s.dieCopy = false ∧ ∀ x ∈ s.windows, x.id = w.id → x = w

/-- The capability records of granules lie in storage that this device has. -/
def RecordsHere (s : State) (gs : List Nat) : Prop := ∀ g ∈ gs, g * 4096 < 2 ^ 63 → Here (cellsFrom (s.capAddr g) 8)

/-- The fault log of a context lies in storage that this device has (R193). -/
def LogHere (s : State) (tag : Tag) : Prop :=
  Here (cellsFrom (bits (s.owner tag).flogb 50 21 * 2 ^ 21 + tagCtx tag * 256) 256)

/-- What a window's queue holds can be applied or reported: cells of this device without an error, and a log for each
sender that no longer waits. -/
def QueueSound (s : State) (w : TicketWindow) : Prop :=
  ∀ e ∈ w.caddy, s.firstPoison (cellsFrom e.upd.cell (tfWidth e.upd.fmt)) = none ∧
    Here (cellsFrom e.upd.cell (tfWidth e.upd.fmt)) ∧ (e.upd.ret = false → LogHere s e.upd.tag)

/-- The executing instruction has retired with the registers of `th`. -/
def Completes (s t : State) (th : Thread) : Prop :=
  SameRegs t.me th ∧ t.me.pc = next4 s ∧ t.me.st = .ready ∧ t.me.retired = s.me.retired + 1

end Sys2Proof.Claim

/-- TKOPEN whose checks pass, with room at every home, sends each an install request and is held. An install puts
the granules homed there into ticket mode, and the last opens the window; until then TKOPEN stays held. Once the
window that it sent requests for is open, TKOPEN retires with gd := 0. It retires with 1 when a home has 64
windows, and with 2 when a home lacks cursor space, and then nothing else changes. (R176, R178.) -/
def Obligations.TicketWindowsOpen : Prop :=
    (∀ (s : State) (w8 : Bool) (d : GReg) (a : AReg) (v : GReg) (gs : List Nat) (hs : List Home),
      OpenReady s a v gs hs → Clean s →
      let full (h : Home) : Prop := 64 ≤ (s.windows.filter fun x => x.homes.contains h).length
      let tight (h : Home) : Prop := cursorRoom h <
        s.cursorUse h + (gs.filter fun g => s.homeOf (g * 4096) == some h).length * (if w8 then 512 else 1024)
      ((∀ h ∈ hs, ¬ full h ∧ ¬ tight h) → s.release = none →
        ∃ t w, exec (.tkopen w8 d a v) s = .next t ∧ Waits s t .held ∧ t.windows = s.windows ++ [w] ∧
          w.st = .opening ∧ w.owner = s.myTag ∧ w.b = bits (s.g v) 31 0 ∧ w.n = bits (s.g v) 47 32 ∧ w.granules = gs ∧
          w.pending = hs ∧ (∀ c, w.cursor c = 0) ∧ w.opener = some (s.cur.slot, s.me.pc) ∧
          t.agenda.map (·.ev) = s.agenda.map (·.ev) ++ hs.map fun h => .windowInstall h w.id) ∧
      ((∃ h ∈ hs, full h) →
        ∃ t, exec (.tkopen w8 d a v) s = .next t ∧ Retires s t (s.me.setG d 1) (next4 s)) ∧
      ((∀ h ∈ hs, ¬ full h) → (∃ h ∈ hs, tight h) →
        ∃ t, exec (.tkopen w8 d a v) s = .next t ∧ Retires s t (s.me.setG d 2) (next4 s))) ∧
    (∀ (s : State) (w8 : Bool) (d : GReg) (a : AReg) (v : GReg) (w : TicketWindow), s.opened = some w →
      (w.st ≠ .opening → ∃ t, exec (.tkopen w8 d a v) s = .next t ∧
        t.me = (s.me.setG d 0).retireTo (next4 s) (s.counts? s.cur) ∧ (∀ y, y ≠ s.cur → t.thread y = s.thread y) ∧
        (∀ c, t.byte c = s.byte c) ∧
        t.windows = s.windows.map fun x => if x.id = w.id then { x with opener := none } else x) ∧
      (w.st = .opening → exec (.tkopen w8 d a v) s = .next s.held)) ∧
    (∀ (s : State) (h : Home) (id : Nat),
      (∀ w, (s.windows.find? fun x => x.id = id) = some w → RecordsHere s w.granules → Clean s →
        ∃ t, exec (.windowInstall h id) s = .next t ∧
          (t.windows.find? fun x => x.id = id) = some { w with pending := w.pending.filter (· != h), st := (if w.pending.filter (· != h) = [] ∧ w.st = .opening then .open_ else w.st) } ∧
          (∀ g ∈ w.granules, s.homeOf (g * 4096) = some h → capMode (t.cap g) = 2 ∧ capHolder (t.cap g) = capHolder (s.cap g)) ∧
          (∀ y, t.thread y = s.thread y)) ∧
      ((s.windows.find? fun x => x.id = id) = none → exec (.windowInstall h id) s = .next s))

/-- TKDRAIN returns 0 when every cursor is b + n, 1 when the window is broken, and parks otherwise. TKCLOSE frees a
drained window and returns 0, a broken or aborted one with its gap, its granules exclusive again; without
abandon it parks while the window is not drained. TKSKIP returns 2 for a ticket that every cursor has passed or
outside the window, 1 with 16 voided tickets, and otherwise voids the ticket and returns 0. TKSTAT returns the
cursor, the queue, the state and whether the caller owns the window, and 0 for a cell in no window. Each
retires, with no other register changed. (R176, R184, R185, R186, R187, R419.) -/
def Obligations.TicketWindowsUsed : Prop :=
    (∀ (s : State) (d : GReg) (a : AReg) (w : TicketWindow), TkReach s a w → Clean s →
      (w.st = .broken → ∃ t, exec (.tkdrain d a) s = .next t ∧ Retires s t (s.me.setG d 1) (next4 s)) ∧
      (w.st ≠ .broken → w.drained = true → ∃ t, exec (.tkdrain d a) s = .next t ∧ Retires s t (s.me.setG d 0) (next4 s)) ∧
      (w.st ≠ .broken → w.drained = false → MayPark s s.cur →
        (∃ t, exec (.tkdrain d a) s = .next t ∧ Waits s t (.parked (.drain w.id)) ∧ OnlyThread s t s.cur) ∧
        (∃ t, exec (.tkclose false d a) s = .next t ∧ Waits s t (.parked (.drain w.id)) ∧
          t.windows = s.windows.map fun x => if x.id = w.id then { x with st := .closing } else x)) ∧
      (∀ ab, (ab = true ∨ w.st = .broken ∨ w.drained = true) → QueueSound s w → RecordsHere s w.granules →
        ∃ t, exec (.tkclose ab d a) s = .next t ∧
          Completes s t (s.me.setG d (if ab ∨ w.st = .broken then BitVec.ofNat 64 w.gap else 0)) ∧
          t.windows = (s.windows.filter fun x => x.id ≠ w.id) ∧
          (w.caddy = [] → (∀ g ∈ w.granules, capMode (s.cap g) = 2 → capMode (t.cap g) = 0) ∧
            ∀ y, y ≠ s.cur → t.thread y = s.thread y))) ∧
    (∀ (s : State) (d : GReg) (a : AReg) (v : GReg) (w : TicketWindow), TkReach s a w → Clean s →
      let k : Int := ((s.g v).toNat : Int) - w.b
      let gone : Prop := k < 0 ∨ (w.n : Int) ≤ k ∨
        (w.cursors.length = w.cellsIn w.granules ∨ k < w.dflt) ∧ ∀ e ∈ w.cursors, k < e.2
      (gone → ∃ t, exec (.tkskip d a v) s = .next t ∧ Retires s t (s.me.setG d 2) (next4 s)) ∧
      (¬ gone → 16 ≤ w.void.length →
        ∃ t, exec (.tkskip d a v) s = .next t ∧ Retires s t (s.me.setG d 1) (next4 s)) ∧
      (¬ gone → w.void.length < 16 → QueueSound s w →
        ∃ t, exec (.tkskip d a v) s = .next t ∧ Completes s t (s.me.setG d 0) ∧
          (w.caddy = [] → (∀ c, t.byte c = s.byte c) ∧ (∀ y, y ≠ s.cur → t.thread y = s.thread y)) ∧
          (w.caddy = [] → w.cursors = [] → w.void = [] →
            (t.windows.find? fun x => x.id = w.id) = some (if k = w.dflt then { w with dflt := w.dflt + 1 }
              else { w with void := [k.toNat] })))) ∧
    (∀ (s : State) (d : GReg) (a : AReg) (near : Bool) (c : Nat) (cs : List Nat),
      let p := s.me.getA a
      (s.access [0, 1, 2, 3] .load p true (addr p) 1 1).get 1 = .ok (near, c :: cs) → Clean s →
      (s.windowAt c = none ∨ s.homeOf c = none →
        ∃ t, exec (.tkstat d a) s = .next t ∧ Retires s t (s.me.setG d 0) (next4 s)) ∧
      (∀ w h, s.windowAt c = some w → s.homeOf c = some h →
        (h ∈ w.pending → ∃ t, exec (.tkstat d a) s = .next t ∧ Retires s t (s.me.setG d 0) (next4 s)) ∧
        (h ∉ w.pending → ∃ t r, exec (.tkstat d a) s = .next t ∧ Retires s t (s.me.setG d r) (next4 s) ∧
          (w.caddy.length ≤ 256 →
            bits r 15 0 = w.cursor (c / w.width * w.width) % 2 ^ 16 ∧
            bits r 40 32 = (w.caddy.filter fun e => e.upd.home == h).length ∧
            bits r 43 41 = (match w.st with
              | .closing => 2
              | .broken => 3
              | _ => 1) ∧
            r.getLsbD 44 = decide (w.owner = s.myTag)))))

namespace Sys2Proof.Claim
/-- The range of a capability instruction of `n` granules through `a` passes its checks. -/
def CapReach (s : State) (a : AReg) (n : Word) (kind : AccKind) (gs : List Nat) : Prop :=
  n ≠ 0 ∧ n.toNat ≤ 4096 ∧ ptrPath (s.me.getA a) ≤ 3 ∧ s.rangeGranules (s.me.getA a) kind n.toNat = .ok gs ∧
  RecordsHere s gs ∧ Clean s

end Sys2Proof.Claim

/-- CAPGIVE by a holder makes the context it names the holder of every granule, pending where that context has a
task, and retires. CAPTAKE clears the pending mark of granules that the thread's context holds, and parks while
it does not hold them all. CAPMODE gives granules that its context holds the exclusive or the atomic mode. CAPQ
returns the record: the holder's number (0 for a foreign owner), mode, pending mark, whether the holder is the
caller, whether foreign, root. No register but the destination of CAPQ, and no other record of those granules'
fields, changes. (R162, R163, R165, R166, R350, R351.) -/
def Obligations.CapabilitiesMove : Prop :=
    ∀ (s : State) (d : GReg) (a : AReg) (v : GReg) (gs : List Nat),
    (CapReach s a (s.g v) .store gs →
      let tgt := mkTag (tagOwner s.myTag) (tagPart s.myTag) (bits (s.g d) 12 0)
      let kept (t : State) : Prop := t.me = s.me.retireTo (next4 s) (s.counts? s.cur) ∧ ∀ y, y ≠ s.cur → t.thread y = s.thread y
      (s.dieCopy = false → bits (s.g d) 63 13 = 0 → bits (s.g d) 12 0 ≠ 0 →
        s.me.priv ≠ .task ∨ s.liveTask tgt = true ∨ bits (s.g d) 12 0 = (s.ctx s.myTag).root →
        s.giveFails gs = none → s.release = none → s.engineWrites s.myTag gs = false → tgt ≠ s.myTag →
        ∃ t, exec (.capgive d a v) s = .next t ∧ kept t ∧
          ∀ g ∈ gs, capHolder (t.cap g) = tgt ∧ capMode (t.cap g) = capMode (s.cap g) ∧
            capPend (t.cap g) = (s.tileOfCtx tgt).isSome) ∧
      ((∀ g ∈ gs, capHolder (s.cap g) = s.myTag) → ∃ t, exec (.captake a v) s = .next t ∧ kept t ∧
          ∀ g ∈ gs, capHolder (t.cap g) = s.myTag ∧ capMode (t.cap g) = capMode (s.cap g) ∧ capPend (t.cap g) = false) ∧
      ((∃ g ∈ gs, capHolder (s.cap g) ≠ s.myTag) → s.lateAtPoints s.cur = false →
        ∃ t, exec (.captake a v) s = .next t ∧ Waits s t (.parked .capability) ∧ OnlyThread s t s.cur) ∧
      (∀ atomic : Bool, s.dieCopy = false → s.release = none →
        (∀ g ∈ gs, capHolder (s.cap g) = s.myTag ∧ capPend (s.cap g) = false ∧ capMode (s.cap g) ≤ 1) →
        (∀ r : GuestOp, .atomicAtHome r ∈ s.inFlight → r.cell / 4096 ∉ gs) →
        ∃ t, exec (.capmode atomic a v) s = .next t ∧ kept t ∧
          ∀ g ∈ gs, capHolder (t.cap g) = s.myTag ∧ capMode (t.cap g) = (if atomic then 1 else 0) ∧
            capPend (t.cap g) = false)) ∧
    (∀ g, CapReach s a 1 .load [g] →
      let h := capHolder (s.cap g)
      let foreign : Bool := tagCtx h ≠ 0 && tagOwner h ≠ tagOwner s.myTag
      ∃ t r, exec (.capq d a) s = .next t ∧ Retires s t (s.me.setG d r) (next4 s) ∧
        bits r 12 0 = (if foreign then 0 else tagCtx h) ∧ bits r 14 13 = capMode (s.cap g) ∧
        r.getLsbD 15 = capPend (s.cap g) ∧ r.getLsbD 16 = decide (h = s.myTag) ∧ r.getLsbD 17 = foreign ∧
        bits r 30 18 = capRoot (s.cap g))

namespace Sys2Proof.Claim
/-- Every other thread and every byte is as before. -/
def Quiet (s t : State) : Prop := (∀ y, y ≠ s.cur → t.thread y = s.thread y) ∧ ∀ c, t.byte c = s.byte c

/-- The executing one-word instruction has completed with its registers as in `th`; other threads and all bytes are
as before. -/
def Done (s t : State) (th : Thread) : Prop := t.me = th.retireTo (next4 s) (s.counts? s.cur) ∧ Quiet s t

/-- A packet has entered the torus at the executing tile, bound for `dst` with event `ev`. -/
def Sent (s t : State) (dst : Nat) (ev : Instr) : Prop :=
  ∃ p : Packet, t.packets = s.packets ++ [p] ∧ p.ev = ev ∧ p.src = s.cur.tile ∧ p.cur = s.cur.tile ∧ p.dst = dst ∧
    p.piste = 2 ∧ p.tag = s.myTag ∧ t.agenda.any (fun q => q.ev == .torusPacketHop p.id) = true

/-- One packet of a Piste has entered the torus from one tile to another, bound to do `ev` there. -/
def Travels (s t : State) (piste src dst : Nat) (ev : Instr) : Prop :=
  ∃ p : Packet, t.packets = s.packets ++ [p] ∧ p.ev = ev ∧ p.src = src ∧ p.cur = src ∧ p.dst = dst ∧ p.piste = piste ∧
    t.agenda.any (fun q => q.ev == .torusPacketHop p.id) = true

/-- The sender word that a receive writes (R396). -/
def senderWord (m : Message) : Word :=
  BitVec.ofNat 64 (m.srcId.toNat % 2 ^ 32 + m.tag % 2 ^ 16 * 2 ^ 32 + (if m.kind = .reply then 2 ^ 48 else 0))

/-- A thread that has received a scalar message: its four words in g8 to g11, then the sender word. -/
def received (th : Thread) (d : GReg) (m : Message) : Thread :=
  let w (i : Nat) : Word := BitVec.ofNat 64 (m.payload.toNat / 2 ^ (64 * i))
  ((((th.setG 8 (w 0)).setG 9 (w 1)).setG 10 (w 2)).setG 11 (w 3)).setG d (senderWord m)

/-- The message store of the executing tile holds `m`, the first that a receive on these terms takes. -/
def FirstFit (s : State) (vec : Bool) (terms : Word) (before : List Message) (m : Message) (after : List Message) : Prop :=
  let fits (x : Message) : Bool := (decide (x.kind = .sendv) == vec) && (terms.getLsbD 16 || x.tag == bits terms 15 0)
  s.myTile.store = before ++ m :: after ∧ fits m = true ∧ ∀ x ∈ before, fits x = false

end Sys2Proof.Claim

/-- Outside deterministic mode a SEND, SENDV or REPLY to a tile that its tile ID names puts one message on Piste 2,
REPLY as SEND in a task that no SPAWN started, with the tag from bits 15:0, the payload of g8 to g11 or of its v
register, the sender's tile, root and context, and the next sequence number; SPAWN one with the entry, g8 to
g11, the caller and the reply tag. They retire; no register or byte changes. A tile ID that names no tile takes
bad-target (0x0E). A packet in its partition goes one hop by dimension order, or at its tile is handed over. An
undeliverable message adds one entry to its sender's fault log. A redirect notice is kept among at most eight.
(R222, R225, R227, R229, R230, R400, R402, R193.) -/
def Obligations.MessagesLeave : Prop :=
    (∀ (s : State) (r t : GReg) (v : VReg) (d0 : Nat), s.namedTile (s.g r) = some d0 → s.dieCopy = false →
      s.det = false ∨ d0 = s.cur.tile ∧ s.myTile.redirs = [] →
      let sends (i : Instr) (kind : MsgKind) (payload : VWord) : Prop := ∃ u m, exec i s = .next u ∧ Done s u s.me ∧
        Sent s u m.dst (.messageArrival m) ∧ m.dst0 = d0 ∧ (s.myTile.redirs = [] → m.dst = d0) ∧ m.kind = kind ∧
        m.tag = bits (s.g t) 15 0 ∧ m.payload = payload ∧ m.src = s.cur.tile ∧ m.srcId = s.tileId s.cur.tile ∧
        m.root = (s.ctx s.myTag).root ∧ m.ctag = s.myTag ∧ m.seq = SMap.get 0 s.myTile.sendSeq d0 ∧
        SMap.get 0 u.myTile.sendSeq d0 = (m.seq + 1) % 2 ^ 16
      let scalars : VWord := BitVec.ofNat 2048 ((s.g 8).toNat + (s.g 9).toNat * 2 ^ 64 + (s.g 10).toNat * 2 ^ 128 +
        (s.g 11).toNat * 2 ^ 192)
      sends (.send r t) .send scalars ∧ sends (.sendv r t v) .sendv (s.me.getV v) ∧ sends (.reply r t) (if s.hasCaller then .reply else .send) scalars) ∧
    (∀ (s : State) (r t d : GReg) (d0 : Nat) (k : Task), s.namedTile (s.g r) = some d0 → s.myTile.task = some k →
      s.dieCopy = false → s.det = false →
      ∃ u m, exec (.spawn r t d) s = .next u ∧ Done s u s.me ∧ Sent s u d0 (.spawnArrival m) ∧ m.dst = d0 ∧
        m.entry = s.g t ∧ m.g8 = s.g 8 ∧ m.g9 = s.g 9 ∧ m.g10 = s.g 10 ∧ m.g11 = s.g 11 ∧ m.caller = s.myTag ∧
        m.rtag = bits (s.g d) 15 0 ∧ m.prio = k.prio ∧ m.launch = k.launch ∧ m.priv = k.priv) ∧
    (∀ (s : State) (r t : GReg), s.namedTile (s.g r) = none → Clean s → CanTrap s →
      ∃ u, exec (.send r t) s = .next u ∧ Enters s u (target s) 0x0E (s.g r)) ∧
    (∀ (s : State) (id : Nat) (p : Packet), (s.packets.find? fun p => p.id = id) = some p →
      s.partOfTile p.cur = some (tagPart p.tag) → s.sweeping p.tag p.cur = false →
      (p.cur = p.dst → ∃ u, exec (.torusPacketHop id) s = .next u ∧ u.packets = (s.packets.filter fun q => q.id ≠ id) ∧
        u.agenda.map (·.ev) = s.agenda.map (·.ev) ++ [p.ev] ∧ (∀ y, u.thread y = s.thread y) ∧ ∀ c, u.byte c = s.byte c) ∧
      (∀ d nb, p.cur ≠ p.dst → s.ordered (tagPart p.tag) (s.pisteOrder (tagPart p.tag) p.piste) p.cur p.dst = some (d, nb) →
        p.escape = false → s.boxed nb = false → s.retraining (tagPart p.tag) d p.cur nb = false →
        ∃ u q, exec (.torusPacketHop id) s = .next u ∧ (u.packets.find? fun p => p.id = id) = some q ∧ q.cur = nb ∧
          q.dim = d ∧ q.dst = p.dst ∧ q.ev = p.ev ∧ q.tag = p.tag ∧
          u.agenda.map (·.ev) = s.agenda.map (·.ev) ++ [.torusPacketHop id] ∧ (∀ y, u.thread y = s.thread y) ∧
          ∀ c, u.byte c = s.byte c)) ∧
    (∀ (s : State) (m : Message),
      let base := bits (s.owner m.ctag).flogb 50 21 * 2 ^ 21 + tagCtx m.ctag * 256 + (s.ctx m.ctag).logCount * 32
      (s.ctx m.ctag).live = true → (s.ctx m.ctag).logCount < 8 → Here (cellsFrom base 32) → Clean s →
      ∃ u, exec (.undeliverableReturn m) s = .next u ∧ (u.ctx m.ctag).logCount = (s.ctx m.ctag).logCount + 1 ∧
        (u.tile m.src).redirs = ((s.tile m.src).redirs.filter fun e => e.new_ ≠ m.dst) ∧
        u.byte (base + 12) = 0x26 ∧ (∀ c, c < base ∨ base + 32 ≤ c → u.byte c = s.byte c)) ∧
    (∀ (s : State) (n : Nat) (tag : Tag) (old new_ : Nat), ∃ u, exec (.redirectNotice n tag old new_) s = .next u ∧
      (u.tile n).redirs.getLast? = some { tag := tag, old := old, new_ := new_ } ∧ (u.tile n).redirs.length ≤ 8 ∧
      (∀ e ∈ (u.tile n).redirs, e.tag = tag → e.old = old → e.new_ = new_) ∧ (∀ y, u.thread y = s.thread y) ∧
      ∀ c, u.byte c = s.byte c)

/-- A message whose task is at its tile, with room in the store, enters the store last; with its task moved on,
outside deterministic mode, it is sent after it on Piste 2 and a redirect notice goes back on Piste 7, or it is
queued until the move is acknowledged; with its task nowhere it returns undeliverable on Piste 1. A SPAWN enters
the work queue of its tile, or waits for room. RECV takes the first scalar message with its tag (any, with bit
16): g8 to g11, then gd the sender word; RECVV the first vector message into vd. RECVT is RECV with a timeout,
gd all ones when it ends. Without a fit they park. PROBE counts the messages with the tag. (R227, R230, R396,
R397, R401, R87, R95, R403.) -/
def Obligations.MessagesArrive : Prop :=
    (∀ (s : State) (m : Message),
      (s.bound m = .here → (s.tile m.dst).storeUsed + (if m.kind = .sendv then 5 else 1) ≤ 64 →
        ∃ u, exec (.messageArrival m) s = .next u ∧ (u.tile m.dst).store = (s.tile m.dst).store ++ [m] ∧
          (∀ y, u.thread y = s.thread y) ∧ ∀ c, u.byte c = s.byte c) ∧
      (s.bound m = .nowhere → ∃ u, exec (.messageArrival m) s = .next u ∧
        Travels s u 1 m.dst m.src (.undeliverableReturn m) ∧ (∀ y, u.thread y = s.thread y) ∧ ∀ c, u.byte c = s.byte c) ∧
      (∀ f, s.bound m = .moved f → f.acked = true → (s.part (tagPart f.tag)).mode ≠ 1 →
        ∃ u v, exec (.messageArrival m) s = .next u ∧
          Travels s v 7 m.dst m.src (.redirectNotice m.src f.tag m.dst f.target) ∧
          Travels v u 2 m.dst f.target (.messageArrival { m with dst := f.target, insn := 0 }) ∧
          (∀ y, u.thread y = s.thread y) ∧ ∀ c, u.byte c = s.byte c) ∧
      (∀ f, s.bound m = .moved f → f.acked = false → ∃ u, exec (.messageArrival m) s = .next u ∧
        (u.tile m.dst).fwd = ((s.tile m.dst).fwd.map fun g =>
          if g.tag = f.tag then { g with queue := g.queue ++ [.messageArrival m] } else g) ∧
        (∀ y, u.thread y = s.thread y))) ∧
    (∀ (s : State) (m : SpawnMsg),
      ((s.tile m.dst).workQ.length < 16 → ∃ u w, exec (.spawnArrival m) s = .next u ∧
        (u.tile m.dst).workQ = (s.tile m.dst).workQ ++ [w] ∧ w.spawned = true ∧ w.deliv = false ∧
        w.task.entry = BitVec.ofNat 51 m.entry.toNat ∧ w.task.args = [m.g8, m.g9, m.g10, m.g11] ∧
        w.task.caller = tagCtx m.caller ∧ w.task.rtag = m.rtag ∧ w.task.prio = m.prio ∧ w.task.priv = m.priv ∧
        w.task.root = m.root ∧ (∀ y, u.thread y = s.thread y) ∧ ∀ c, u.byte c = s.byte c) ∧
      (16 ≤ (s.tile m.dst).workQ.length → ∃ u, exec (.spawnArrival m) s = .next u ∧
        u.agenda.map (·.ev) = s.agenda.map (·.ev) ++ [.spawnArrival m] ∧ ∀ n, u.tile n = s.tile n)) ∧
    (∀ (s : State) (d t r : GReg) (v : VReg) (before after : List Message) (m : Message),
      (FirstFit s false (s.g t) before m after →
        (∃ u, exec (.recv d t) s = .next u ∧ Done s u (received s.me d m) ∧ u.myTile.store = before ++ after) ∧
        (∃ u, exec (.recvt d t r) s = .next u ∧ Done s u (received s.me d m) ∧ u.myTile.store = before ++ after)) ∧
      (FirstFit s true (s.g t) before m after →
        ∃ u, exec (.recvv v t) s = .next u ∧ Done s u (s.me.setV v m.payload) ∧ u.myTile.store = before ++ after)) ∧
    (∀ (s : State) (d t r : GReg) (v : VReg),
      let fits (vec : Bool) (x : Message) : Bool :=
        (decide (x.kind = .sendv) == vec) && ((s.g t).getLsbD 16 || x.tag == bits (s.g t) 15 0)
      let none_ (vec : Bool) : Prop := ∀ x ∈ s.myTile.store, fits vec x = false
      let parked (u : State) (vec : Bool) : Prop := Waits s u (.parked (.channel vec ((s.g t).getLsbD 16) (bits (s.g t) 15 0)))
      (none_ false → s.lateAtPoints s.cur = false → ∃ u, exec (.recv d t) s = .next u ∧ parked u false) ∧
      (none_ true → s.lateAtPoints s.cur = false → ∃ u, exec (.recvv v t) s = .next u ∧ parked u true) ∧
      (none_ false → s.me.expired = true ∨ s.g r = 0 →
        ∃ u, exec (.recvt d t r) s = .next u ∧ Retires s u (s.me.setG d (BitVec.allOnes 64)) (next4 s)) ∧
      (none_ false → s.me.expired = false → s.g r ≠ 0 → s.lateAtPoints s.cur = false →
        ∃ u, exec (.recvt d t r) s = .next u ∧ parked u false ∧
          (s.me.expiry = none → s.det = false → u.me.expiry = some (s.tc s.cur.tile + (s.g r).toNat))) ∧
      (∃ u, exec (.probe d t) s = .next u ∧ Retires s u (s.me.setG d (BitVec.ofNat 64
        (s.myTile.store.filter fun m => (s.g t).getLsbD 16 || m.tag == bits (s.g t) 15 0).length)) (next4 s)))

/-- START by the control context with a free helper slot starts a helper in the lowest one: at the address in gs, at
the task's level, with the a registers of the caller and g8 = gt, and returns its slot; with none free it
returns 0. HEXIT scrubs the helper's registers and keeps its join value. HJOIN of a helper that has exited
returns the value and frees the slot; of one that runs, it parks; of 0, it parks while any helper runs and then
returns 0. START by a helper and HEXIT by the control context take context-misuse (0x0D) with 1, HJOIN of a free
or absent slot with 4. (R78, R79, R80, R81, R367, R407.) -/
def Obligations.HelpersComplete : Prop :=
    (∀ (s : State) (d r t : GReg) (k : Task), s.cur.slot = 0 → s.myTile.task = some k →
      (∀ i, 1 ≤ i → i ≤ k.helpers → (s.myTile.thread i).st = .free → (∀ j, 1 ≤ j → j < i → (s.myTile.thread j).st ≠ .free) →
        ∃ u, exec (.start d r t) s = .next u ∧
          u.me = (s.me.setG d (BitVec.ofNat 64 i)).retireTo (next4 s) (s.counts? s.cur) ∧
          u.thread { tile := s.cur.tile, slot := i } =
            (({ Thread.zero with st := .ready, pc := BitVec.ofNat 51 (s.g r).toNat, a := s.me.a, priv := k.priv } : Thread).setG 8 (s.g t)) ∧
          (∀ y, y ≠ s.cur → y ≠ { tile := s.cur.tile, slot := i } → u.thread y = s.thread y) ∧ ∀ c, u.byte c = s.byte c) ∧
      ((∀ i, 1 ≤ i → i ≤ k.helpers → (s.myTile.thread i).st ≠ .free) →
        ∃ u, exec (.start d r t) s = .next u ∧ Retires s u (s.me.setG d 0) (next4 s))) ∧
    (∀ (s : State) (d r t : GReg), s.cur.slot ≠ 0 → Clean s → CanTrap s →
      ∃ u, exec (.start d r t) s = .next u ∧ Enters s u (target s) 0x0D 1) ∧
    (∀ (s : State) (r : GReg), 1 ≤ s.cur.slot → s.cur.slot ≤ 10 →
      ∃ u, exec (.hexit r) s = .next u ∧ u.me = { Thread.zero with st := .exited (s.g r) } ∧ Quiet s u ∧
        u.myTile.retired = s.myTile.retired + 1) ∧
    (∀ (s : State) (r : GReg), s.cur.slot = 0 → Clean s → CanTrap s →
      ∃ u, exec (.hexit r) s = .next u ∧ Enters s u (target s) 0x0D 1) ∧
    (∀ (s : State) (d r : GReg) (k : Task), s.cur.slot = 0 → s.myTile.task = some k →
      let h := (s.g r).toNat
      let other : ThreadId := { tile := s.cur.tile, slot := h }
      (∀ v, 1 ≤ h → h ≤ k.helpers → (s.thread other).st = .exited v →
        ∃ u, exec (.hjoin d r) s = .next u ∧ u.me = (s.me.setG d v).retireTo (next4 s) (s.counts? s.cur) ∧
          (u.thread other).st = .free ∧ (∀ y, y ≠ s.cur → y ≠ other → u.thread y = s.thread y) ∧ ∀ c, u.byte c = s.byte c) ∧
      (1 ≤ h → h ≤ k.helpers → (s.thread other).st ≠ .free → (∀ v, (s.thread other).st ≠ .exited v) →
        (s.thread other).st ≠ .stopped → s.lateAtPoints s.cur = false →
        ∃ u, exec (.hjoin d r) s = .next u ∧ Waits s u (.parked (.helperJoin h)) ∧ OnlyThread s u s.cur) ∧
      (h = 0 → s.myTile.anyLive = true → s.lateAtPoints s.cur = false →
        ∃ u, exec (.hjoin d r) s = .next u ∧ Waits s u (.parked (.helperJoin 0)) ∧ OnlyThread s u s.cur) ∧
      (h = 0 → s.myTile.anyLive = false →
        ∃ u, exec (.hjoin d r) s = .next u ∧ u.me = (s.me.setG d 0).retireTo (next4 s) (s.counts? s.cur) ∧
          ∀ i, 1 ≤ i → i ≤ 10 → u.thread { tile := s.cur.tile, slot := i } = Thread.zero) ∧
      (h ≠ 0 → k.helpers < h ∨ (s.thread other).st = .free → Clean s → CanTrap s →
        ∃ u, exec (.hjoin d r) s = .next u ∧ Enters s u (target s) 0x0D 4))

namespace Sys2Proof.Claim
/-- The control context of the executing tile may end, yield or move its task: no helper lives, the units' queues are
empty, no ticket window is open. -/
def Settled (s : State) : Prop :=
  s.cur.slot = 0 ∧ s.myTile.anyLive = false ∧ (∀ w ∈ s.windows, w.owner ≠ s.myTag) ∧ s.myTile.vq = [] ∧ s.myTile.mq = []

/-- The wires of the partition are granted to the launch of a task. -/
def hasWires (s : State) (k : Task) : Bool :=
  (s.part s.myPart).barctl.getLsbD 13 && bits (s.part s.myPart).barctl 12 0 == k.root

/-- The task of a tile has begun to move to another: frozen where it was, its place kept there, the stream on its
way. -/
def Leaves (s t : State) (src dst : Nat) (k : Task) : Prop :=
  (t.tile src).task = some { k with phase := .freezing, dest := some dst } ∧
  (∃ k', (t.tile dst).task = some k' ∧ k'.tag = k.tag ∧ k'.phase = .streaming) ∧
  t.agenda.any (fun q => q.ev == .crossoverStream src) = true ∧
  ∀ y, SameRegs (t.thread y) (s.thread y)

end Sys2Proof.Claim

/-- TEXIT of a settled task with nothing under way and an empty fault log empties its tile and ends its context.
YIELD with no work queued retires in place; with work and a free spill slot the task leaves for it. MIGRATE
returns 1 where its target cannot take the task, otherwise 0 and the task leaves; a tile that drains takes none
(assumption 130). With eight forwarding entries at their tile both are held. WAITWORK takes the best delivered
node: g8 to g11 its arguments, gd its address; recalled, or the first time while its tile drains, it returns 0;
with none it parks. TASK inserts the record at its address and returns 0, or 1 at the limit; an address with
reserved or low bits takes bad-node (0x0F). In deterministic mode a task-level YIELD or TASK is held to the
boundary. (R82, R83, R84, R85, R86, R413, R415, R439, R443.) -/
def Obligations.TasksEndAndYield : Prop :=
    (∀ (s : State) (k : Task) (outs : List (Pin × List Nat)), Settled s → s.myTile.task = some k →
      let v := s.drainLines s.cur.tile fun _ => true
      v.taskBusy = false → (s.ctx s.myTag).logCount = 0 → v.pairOf s.myPart k.tag = none → v.outCells k = .ok outs →
      Clean (v.taskEnds k outs) →
      ∃ t, exec .texit s = .next t ∧ t.myTile.task = none ∧ t.myTile.slots = [] ∧ t.myTile.store = [] ∧
        (t.ctx k.tag).live = false ∧ t.myTile.retired = s.myTile.retired + 1) ∧
    (∀ (s : State) (k : Task), Settled s → s.myTile.task = some k → s.det = false ∨ s.me.priv ≠ .task →
      s.replaying s.myPart = false →
      (hasWires s k = true ∨ s.workFor s.myPart s.cur.tile = false ∧ s.drains s.cur.tile = false ∨
          s.freeSpill s.myPart = none → ∃ t, exec .yield s = .next t ∧ Retires s t s.me (next4 s)) ∧
      (∀ i, hasWires s k = false → s.workFor s.myPart s.cur.tile = true → s.freeSpill s.myPart = some i →
        s.mayCross s.cur.tile k = true → s.cur.tile < 4096 → s.myPart = tagPart k.tag →
        (s.myTile.fwd.length < 8 →
          ∃ t, exec .yield s = .next t ∧ Leaves s t s.cur.tile (spillTile i s.cur.tile) k ∧ t.me.pc = next4 s) ∧
        (8 ≤ s.myTile.fwd.length → ∃ t, exec .yield s = .next t ∧ Waits s t .held ∧ OnlyThread s t s.cur))) ∧
    (∀ (s : State) (d r : GReg) (k : Task) (dst : Nat), s.cur.slot = 0 → s.myTile.anyLive = false →
      s.myTile.task = some k → s.namedTile (s.g r) = some dst → s.cur.tile < 4096 →
      let refused : Prop := hasWires s k = true ∨ (s.tile dst).task ≠ none ∨ (s.tile dst).workQ ≠ [] ∨
        (s.tile dst).reserved ≠ none ∨ s.roomAt dst k.pins = false ∨ s.drains dst = true
      (refused → ∃ t, exec (.migrate d r) s = .next t ∧ Retires s t (s.me.setG d 1) (next4 s)) ∧
      (¬ refused → s.myTile.fwd.length < 8 →
        ∃ t, exec (.migrate d r) s = .next t ∧ t.me.pc = next4 s ∧ SameRegs t.me (s.me.setG d 0) ∧
          (t.tile s.cur.tile).task = some { k with phase := .freezing, dest := some dst } ∧
          (∃ k', (t.tile dst).task = some k' ∧ k'.tag = k.tag ∧ k'.phase = .streaming) ∧
          t.agenda.any (fun q => q.ev == .crossoverStream s.cur.tile) = true) ∧
      (¬ refused → 8 ≤ s.myTile.fwd.length →
        ∃ t, exec (.migrate d r) s = .next t ∧ Waits s t .held ∧ OnlyThread s t s.cur)) ∧
    (∀ (s : State) (d : GReg) (k : Task), s.cur.slot = 0 → s.myTile.task = some k → k.node ≠ 0 → k.pk = 0 → k.deliv = 0 →
      (∀ w, bestEntry (·.deliv) s.myTile.workQ = some w → Clean (s.setNodeState s.myPart w.task.node 3) →
        ∃ t, exec (.waitwork d) s = .next t ∧ t.me.pc = next4 s ∧
          SameRegs t.me (((((s.me.setG 8 (w.task.args.getD 0 0)).setG 9 (w.task.args.getD 1 0)).setG 10
            (w.task.args.getD 2 0)).setG 11 (w.task.args.getD 3 0)).setG d (BitVec.ofNat 64 w.task.node)) ∧
          t.myTile.workQ.length + 1 = s.myTile.workQ.length ∧
          t.myTile.task = some { k with deliv := w.task.node, recalled := false, called := false }) ∧
      (bestEntry (·.deliv) s.myTile.workQ = none → k.recalled = true ∨ s.drains s.cur.tile = true ∧ k.called = false →
        ∃ t, exec (.waitwork d) s = .next t ∧
          Done s t (((((s.me.setG 8 0).setG 9 0).setG 10 0).setG 11 0).setG d 0) ∧
          t.myTile.task = some { k with recalled := false, called := true }) ∧
      (bestEntry (·.deliv) s.myTile.workQ = none → k.recalled = false →
        s.drains s.cur.tile = false ∨ k.called = true →
        s.lateAtPoints s.cur = false →
        ∃ t, exec (.waitwork d) s = .next t ∧ Waits s t (.parked .work) ∧ OnlyThread s t s.cur)) ∧
    (∀ (s : State) (d r : GReg), s.det = true → s.me.priv = .task →
      (∃ t, exec (.task d r) s = .next t ∧ Waits s t .boundary ∧ OnlyThread s t s.cur) ∧
      (Settled s → ∃ t, exec .yield s = .next t ∧ Waits s t .boundary ∧ OnlyThread s t s.cur)) ∧
    (∀ (s : State) (d r : GReg), s.det = false ∨ s.me.priv ≠ .task → Clean s →
      let a := (s.g r).toNat
      (bits (s.g r) 63 51 ≠ 0 ∨ bits (s.g r) 6 0 ≠ 0 → CanTrap s →
        ∃ t, exec (.task d r) s = .next t ∧ Enters s t (target s) 0x0F (s.g r)) ∧
      (∀ near cs ds, bits (s.g r) 63 51 = 0 → bits (s.g r) 6 0 = 0 → s.cur.slot = 0 → s.dieCopy = false → s.release = none →
        (s.access [0] .load (mkPtr 0 a) true a 128 1).get 128 = .ok (near, cs) → s.poisoned cs = false →
        s.peekDwords cs = ds → ndMalformed (s.part s.myPart).zmap.length ds = false → s.nodeAt s.myPart a = none →
        (nodeLimit ≤ (s.part s.myPart).nodes.length →
          ∃ t, exec (.task d r) s = .next t ∧ Retires s t (s.me.setG d 1) (next4 s)) ∧
        (∀ l, (s.part s.myPart).nodes.length < nodeLimit →
          (s.myTile.task.bind fun k => s.launchOf s.myPart k.launch) = some l → Clean (s.insertNode s.myPart l a ds) →
          ∃ t, exec (.task d r) s = .next t ∧ SameRegs t.me (s.me.setG d 0) ∧ t.me.pc = next4 s ∧
            (t.nodeAt s.myPart a).isSome = true ∧
            (ndDep ds ≠ 0 → (t.nodeAt s.myPart a).map (fun n => (n.state, n.dwords, n.launch)) = some (0, ds, l.id)))))

/-- A frozen task that has drained stands at its target afterwards: every thread with its registers and PC, its
matrix state and messages; its tile is empty and the resumption is on its way; one that has not drained waits.
The last byte's arrival lets it run there with an empty read-only cache, and tiles it left are acknowledged. An
acknowledgement with nothing queued marks the forwarding entry and starts its 65,536 tile cycles; the entry goes
when they are over and is kept while a forward has extended it. A spilled task whose column has room leaves its
slot. (R92, R93, R94, R95, R83.) -/
def Obligations.CrossoverMoves : Prop :=
    (∀ (s : State) (n dst : Nat) (k kd : Task), (s.tile n).task = some k → k.phase = .freezing → k.dest = some dst →
      n ≠ dst → (s.ctx k.tag).dying = false →
      (s.drained n k = false → ∃ t, exec (.crossoverStream n) s = .next t ∧
        t.agenda.map (·.ev) = s.agenda.map (·.ev) ++ [.crossoverStream n] ∧ ∀ m, t.tile m = s.tile m) ∧
      (s.drained n k = true → (s.tile dst).task = some kd →
        ∃ t, exec (.crossoverStream n) s = .next t ∧ (t.tile n).task = none ∧ (t.tile n).slots = [] ∧
          (∃ k', (t.tile dst).task = some k' ∧ k'.tag = k.tag ∧ k'.phase = .streaming ∧ k'.root = k.root) ∧
          (∀ sl, SameRegs (t.thread { tile := dst, slot := sl }) (s.thread { tile := n, slot := sl }) ∧
            (t.thread { tile := dst, slot := sl }).pc = (s.thread { tile := n, slot := sl }).pc) ∧
          (t.tile dst).z = (s.tile n).z ∧ (t.tile dst).l = (s.tile n).l ∧ (t.tile dst).store = (s.tile n).store ∧
          t.agenda.any (fun q => q.ev == .crossoverResume n dst) = true)) ∧
    (∀ (s : State) (n dst : Nat) (k : Task), (s.tile dst).task = some k → k.phase = .streaming → dst < 4096 →
      (s.ctx k.tag).dying = false →
      ∃ t, exec (.crossoverResume n dst) s = .next t ∧ (t.tile dst).task = some { k with phase := .running } ∧
        (t.tile dst).roc = [] ∧ (∀ y, SameRegs (t.thread y) (s.thread y) ∧ (t.thread y).pc = (s.thread y).pc ∧
          (t.thread y).st = (s.thread y).st) ∧ (∀ c, t.byte c = s.byte c) ∧
        ((s.tile n).fwd.any (fun f => f.tag == k.tag && !f.acked) = true → n ≠ dst →
          t.agenda.any (fun q => q.ev == .crossoverAck n dst) = true)) ∧
    (∀ (s : State) (n dst : Nat) (f : Forward), ((s.tile n).fwd.find? fun f => f.target = dst && !f.acked) = some f →
      f.queue = [] → ∃ t, exec (.crossoverAck n dst) s = .next t ∧
        (t.tile n).fwd = ((s.tile n).fwd.map fun x => if x.tag = f.tag then
          { f with acked := true, queue := [], expiry := s.tc n + 65536, limit := s.tc n + 2 ^ 20 } else x) ∧
        t.agenda.map (fun q => (q.due, q.ev)) =
          s.agenda.map (fun q => (q.due, q.ev)) ++ [(s.tc n + 65536, .forwardingExpiry n f.tag)] ∧
        ∀ y, t.thread y = s.thread y) ∧
    (∀ (s : State) (n : Nat) (tag : Tag) (f : Forward), ((s.tile n).fwd.find? fun f => f.tag = tag && f.acked) = some f →
      (f.expiry ≤ s.tc n → ∃ t, exec (.forwardingExpiry n tag) s = .next t ∧
        (∀ x ∈ (t.tile n).fwd, x.tag = tag → x.acked = false) ∧ (∀ y, t.thread y = s.thread y)) ∧
      (s.tc n < f.expiry → ∃ t, exec (.forwardingExpiry n tag) s = .next t ∧ (∀ m, t.tile m = s.tile m) ∧
        t.agenda.map (fun q => (q.due, q.ev)) =
          s.agenda.map (fun q => (q.due, q.ev)) ++ [(f.expiry, .forwardingExpiry n tag)])) ∧
    (∀ (s : State) (n : Nat) (tag : Tag) (x : Spilled) (k : Task) (dst : Nat),
      ((s.part n).spilled.find? fun x => x.tag = tag) = some x → (s.tile x.at_).task = some k → k.dest = none →
      (∀ q ∈ s.agenda, ∀ a, q.ev ≠ .crossoverResume a x.at_) → s.resumeAt n x = some dst → x.at_ ≠ dst →
      ∃ t, exec (.spillResume n tag) s = .next t ∧
        (t.tile x.at_).task = some { k with phase := .freezing, dest := some dst } ∧
        (∃ k', (t.tile dst).task = some k' ∧ k'.tag = k.tag ∧ k'.phase = .streaming) ∧
        (∀ y ∈ (t.part n).spilled, y.slot ≠ x.slot) ∧
        t.agenda.any (fun q => q.ev == .crossoverStream x.at_) = true)

/-- A dispenser that can place a head puts it in its tile's work queue; in deterministic mode the event does
nothing. An idle compute tile takes its next entry, that of the node it was vacated for first: with a context
number and granules it begins to fetch. When every range is resident and its capabilities are free the control
context starts at the entry with g8 to g11 its arguments, g12 its node, one a register per range. While slot 0
runs, the next entry is prefetched. An idle tile's steal takes the best entry it may have, or is refused and
retried after 256 tile cycles. When the timer of a lead ends, the blocked node it serves makes a victim leave,
and the victim's tile starts it next; a victim in WAITWORK is recalled; with no forwarding entry free it is
tried again later; without a victim nothing runs differently. (R64, R70, R87, R97, R100, R102, R103, R104,
R105.) -/
def Obligations.DispatchersAct : Prop :=
    (∀ (s : State) (n : Nat),
      ((s.part n).mode = 1 → exec (.nodePlacement n) s = .next s) ∧
      ((s.part n).mode ≠ 1 → s.placeOne n = none → ∃ t, exec (.nodePlacement n) s = .next t ∧ (∀ m, t.tile m = s.tile m) ∧
        ∀ c, t.byte c = s.byte c) ∧
      (∀ v, (s.part n).mode ≠ 1 → s.placeOne n = some v → ∃ t, exec (.nodePlacement n) s = .next t ∧
        (∀ m, t.tile m = v.tile m) ∧ t.agenda.any (fun q => q.ev == .nodePlacement n) = true) ∧
      (∀ d l m, s.launchOf n d.launch = some l → ndRdm d.dwords ≠ 2 → ∃ v, s.placeNode n d m = some v ∧
        (∀ j, (v.tile j).workQ = (if j = m then (s.tile j).workQ ++ [nodeEntry l.ctx l.priv d 0] else (s.tile j).workQ)) ∧
        ∀ key, d.addr ∉ SMap.get [] (v.part n).colQ key ∧ d.addr ∉ SMap.get [] (v.part n).partQ key)) ∧
    (∀ (s : State) (n : Nat) (w : WorkEntry), (s.tile n).task = none → s.drains n = false →
      s.computeTile ((s.partOfTile n).getD 0) n = true →
      (s.tile n).reserved = none ∧ (s.tile n).nextEntry = some w ∨
        (∃ a, (s.tile n).reserved = some a ∧ ((s.tile n).workQ.find? fun w => w.task.node == a && !w.deliv) = some w ∧
          (w.fetched = true ∨ (s.prepare ((s.partOfTile n).getD 0) n w.task).isSome = true)) →
      (w.fetched = true → ∃ t, exec (.taskStart n) s = .next t ∧ (t.tile n).task = some w.task ∧
        (t.tile n).workQ.length + 1 = (s.tile n).workQ.length ∧
        t.agenda.any (fun q => q.ev == .footprintResident n) = true) ∧
      (∀ v k, w.fetched = false → s.fitsEmpty n w.task.fps = true →
        s.prepare ((s.partOfTile n).getD 0) n w.task = some (v, k) →
        ∃ t, exec (.taskStart n) s = .next t ∧ (t.tile n).task = some k ∧
          (w.task.copy = 0 → (t.ctx k.tag).live = true) ∧ k.entry = w.task.entry ∧ k.args = w.task.args ∧ (t.tile n).workQ.length + 1 = (s.tile n).workQ.length ∧
          t.agenda.any (fun q => q.ev == .footprintResident n) = true)) ∧
    (∀ (s : State) (n : Nat), (s.tile n).task ≠ none ∨ (s.tile n).reserved = none ∧ (s.tile n).nextEntry = none →
      exec (.taskStart n) s = .next s) ∧
    (∀ (s : State) (n : Nat) (k : Task) (rs : List (Pin × List Nat)),
      let v := ((s.takeOuts k rs).fillRanges k rs).beginTask ((s.partOfTile n).getD 0) n k
      (s.tile n).task = some k → k.phase = .fetching → (s.tile n).slots = [] → k.dest = none →
      (s.ctx k.tag).dying = false → k.unserved = false → s.fetchWaits ((s.partOfTile n).getD 0) n k.tag = false →
      s.rangeCells k = .ok rs → s.outBusy k rs = none → Clean v →
      ∃ t, exec (.footprintResident n) s = .next t ∧
        (let th := t.thread { tile := n, slot := 0 }
         th.st = .ready ∧ th.pc = k.entry ∧ th.priv = k.priv ∧ th.getG 8 = k.args.getD 0 0 ∧ th.getG 9 = k.args.getD 1 0 ∧
         th.getG 10 = k.args.getD 2 0 ∧ th.getG 11 = k.args.getD 3 0 ∧
         th.getG 12 = (if k.node = 0 then k.callTile else BitVec.ofNat 64 k.node) ∧
         (k.node = 0 → th.getG 13 = BitVec.ofNat 64 k.rtag) ∧
         ∀ i p, k.pins[i]? = some p → (h : i < 16) → th.getA ⟨i, h⟩ = mkPtr p.path p.off) ∧
        (∀ i, i ≠ 0 → (t.thread { tile := n, slot := i }).st = .free) ∧
        ((t.tile n).task.map fun x => (x.phase, x.tag)) = some (.running, k.tag)) ∧
    (∀ (s : State) (n : Nat) (k0 : Task) (w : WorkEntry) (v : State) (k : Task), (s.tile n).task = some k0 →
      k0.phase = .running → (s.tile n).nextEntry = some w → w.fetched = false → w.spawned = false → w.task.fps ≠ [] →
      s.prepare ((s.partOfTile n).getD 0) n w.task = some (v, k) →
      ∃ t, exec (.footprintPrefetch n) s = .next t ∧ (∃ x ∈ (t.tile n).workQ, x.fetched = true ∧ x.task = k) ∧
        (t.tile n).task = some k0 ∧ t.agenda.any (fun q => q.ev == .footprintResident n) = true) ∧
    (∀ (s : State) (a b : Nat), a ≠ b →
      let n := (s.partOfTile a).getD 0
      (s.idle n a = true → s.replaying n = false → (∃ t, exec (.stealRequest a b) s = .next t ∧
          t.agenda.any (fun q => q.ev == .stealAnswer a b) = true ∧ ∀ m, t.tile m = s.tile m) ∧
        (∀ w, bestEntry (stealable a b) (s.tile b).workQ = some w →
          ∃ t, exec (.stealAnswer a b) s = .next t ∧ (t.tile a).workQ = (s.tile a).workQ ++ [w] ∧
            (t.tile b).workQ.length + 1 = (s.tile b).workQ.length) ∧
        (bestEntry (stealable a b) (s.tile b).workQ = none → ∃ t, exec (.stealAnswer a b) s = .next t ∧
          t.agenda.map (fun q => (q.due, q.ev)) = s.agenda.map (fun q => (q.due, q.ev)) ++ [(s.tc a + 256, .stealRetry a)]) ∧
        (s.victimOf n a = some b → ∃ t, exec (.stealRetry a) s = .next t ∧
          t.agenda.any (fun q => q.ev == .stealRequest a b) = true ∧ ∀ m, t.tile m = s.tile m)) ∧
      (s.idle n a = false → exec (.stealRequest a b) s = .next s ∧ exec (.stealAnswer a b) s = .next s ∧
        exec (.stealRetry a) s = .next s)) ∧
    (∀ (s : State) (n lead : Nat), s.replaying n = false →
      let due : Option GraceTimer := (s.part n).graceAt.find? fun g => g.lead = lead && g.at_ ≤ s.tc (s.leadTile n lead)
      let still (t : State) : Prop := (∀ m, t.tile m = s.tile m) ∧ ∀ c, t.byte c = s.byte c
      (due = none → exec (.graceExpiry n lead) s = .next s) ∧
      (∀ g, due = some g → s.graceVictim n g = none → ∃ t, exec (.graceExpiry n lead) s = .next t ∧ still t) ∧
      (∀ g v k, due = some g → s.graceVictim n g = some v → (s.tile v).task = some k →
        (s.waitsWork v = true → ∃ t, exec (.graceExpiry n lead) s = .next t ∧
          (t.tile v).task = some { k with recalled := true } ∧ ∀ c, t.byte c = s.byte c) ∧
        (s.waitsWork v = false → s.fwdFull v = true → (s.part n).mode ≠ 1 →
          ∃ t, exec (.graceExpiry n lead) s = .next t ∧ still t ∧
            t.agenda.any (fun q => q.ev == .graceExpiry n lead) = true) ∧
        (∀ u, s.waitsWork v = false → s.fwdFull v = false →
          leastBy (fun u => s.colLoad n (u % 256)) ((s.liveTiles n).filter fun u => s.idle n u && s.roomAt u k.pins) = some u →
          ∃ t, exec (.graceExpiry n lead) s = .next t ∧ Leaves s t v u k ∧ (t.tile v).reserved = some g.node)))

namespace Sys2Proof.Claim
/-- The cell of the report ring slot at the head. -/
def reportSlot (s : State) (n : Nat) : Nat :=
  bits (s.part n).grqb 50 12 * 4096 + (s.part n).grqHead % 2 ^ (bits (s.part n).grqb 55 51 + 8) * 16
/-- Whether the report ring has room. -/
def reportRoom (s : State) (n : Nat) : Bool :=
  decide (((s.part n).grqHead + 2 ^ 32 - (s.part n).grqTail) % 2 ^ 32 < 2 ^ (bits (s.part n).grqb 55 51 + 8))

end Sys2Proof.Claim

/-- A predicate that reads nonzero queues its node, zero skips it (STATE 5) and releases its successors; a page that
a live task holds, other than one that ran a predecessor, fails it. A release takes one from the DEP of each
successor in turn, makes one whose DEP becomes 0 eligible, and drops the node. A report is written at the head
of the ring where it has room. A DELIV node enters the work queue of its tile. A descriptor with a free context
number opens its root context. A doorbell sends each new descriptor to the engine; a notice is written where the
host left room. A write of GRQT lets held reports be written. (R69, R74, R75, R119, R120, R121, R250, R251.) -/
def Obligations.GraphEngineActs : Prop :=
    (∀ (s v : State) (n a : Nat) (d : Node) (l : Launch) (cs : List Nat), s.nodeAt n a = some d → d.state = 1 →
      s.launchOf n d.launch = some l →
      s.engineAccess n l (ndPred d.dwords) 8 false (.predicateCheck n a) = .cells cs v →
      let holder := capHolder (s.cap (cellGranule (cs.headD 0)))
      let free : Bool := cs.any isRemoteCell || !s.liveTask holder || d.preds.contains holder
      (free = true → (s.peekDwords cs).headD 0 ≠ 0 → ∃ t, exec (.predicateCheck n a) s = .next t ∧
        (t.nodeAt n a).map (·.state) = some 2 ∧ ∀ y, SameRegs (t.thread y) (s.thread y)) ∧
      (free = true → (s.peekDwords cs).headD 0 = 0 → ∃ t, exec (.predicateCheck n a) s = .next t ∧
        (t.nodeAt n a).map (·.state) = some 5 ∧ t.agenda.any (fun q => q.ev == .successorRelease n a) = true) ∧
      (free = false → ∃ t, exec (.predicateCheck n a) s = .next t ∧
        (t.part n).reports.length = (s.part n).reports.length + 1 ∧ ∀ c, t.byte c = s.byte c)) ∧
    (∀ (s : State) (n a : Nat) (d : Node) (l : Launch), s.nodeAt n a = some d → s.launchOf n d.launch = some l →
      (d.succ = none → ndNsucc d.dwords = 0 → Clean ((s.dropNode n a).checkLaunch n l.id) →
        ∃ t, exec (.successorRelease n a) s = .next t ∧ t.nodeAt n a = none) ∧
      (∀ w e, d.succ = some [w] → w.toNat ≠ a → s.nodeAt n w.toNat = some e → e.launch = l.id → e.state = 0 →
        1 ≤ ndDep e.dwords → Clean (s.releaseSucc n a l [w]) → 1 < e.dwords.length →
        ∃ t, exec (.successorRelease n a) s = .next t ∧ t.nodeAt n a = none ∧
          (t.nodeAt n w.toNat).map (fun x => ndDep x.dwords) = some (ndDep e.dwords - 1) ∧
          (1 < ndDep e.dwords → (t.nodeAt n w.toNat).map (·.state) = some 0) ∧
          (ndDep e.dwords = 1 → (t.nodeAt n w.toNat).map (·.state) = some (if ndCond e.dwords then 1 else 2)))) ∧
    (∀ (s : State) (n : Nat) (r : Report) (rest : List Report), (s.part n).reports = r :: rest → Clean s →
      (reportRoom s n = true → r.fails = none → r.cont = none → s.launchOf n r.launch = none →
        Here (cellsFrom (reportSlot s n) 16) →
        ∃ t, exec (.graphReportWrite n) s = .next t ∧ (t.part n).reports = rest ∧
          (t.part n).grqHead = ((s.part n).grqHead + 1) % 2 ^ 32 ∧
          ∀ c, t.byte c = written s.byte (wordAt (reportSlot s n) r.lo ++ wordAt (reportSlot s n + 8) r.hi) c) ∧
      (reportRoom s n = false → exec (.graphReportWrite n) s = .next s)) ∧
    (∀ (s : State),
      ((s.part s.myPart).reports = [] → exec .grqtWrite s = .next s) ∧
      ((s.part s.myPart).reports ≠ [] → ∃ t, exec .grqtWrite s = .next t ∧
        t.agenda.any (fun q => q.ev == .graphReportWrite s.myPart) = true ∧ ∀ y, t.thread y = s.thread y)) ∧
    (∀ (s : State) (m a : Nat) (d : Node), s.nodeAt ((s.partOfTile m).getD 0) a = some d →
      ((s.tile m).workQ.length < 16 → ∃ t w, exec (.delivNodeDelivery m a) s = .next t ∧
        (t.tile m).workQ = (s.tile m).workQ ++ [w] ∧ w.deliv = true ∧ w.task.node = a ∧ w.task.args = ndArgs d.dwords ∧
        w.task.prio = ndPrio d.dwords ∧ (∀ y, t.thread y = s.thread y)) ∧
      (16 ≤ (s.tile m).workQ.length → ∃ t, exec (.delivNodeDelivery m a) s = .next t ∧
        t.agenda.map (·.ev) = s.agenda.map (·.ev) ++ [.delivNodeDelivery m a] ∧ ∀ j, t.tile j = s.tile j)) ∧
    (∀ (s : State) (queue : Nat) (d : LaunchDesc),
      let n := ldPart queue d
      let tag := mkTag (s.liftQ queue).owner.toNat n (ldCtx d)
      let id := s.nextId
      let l : Launch := { id := id, number := ldNumber d, owner := (s.liftQ queue).owner, ctx := ldCtx d, priv := ldPriv d, queue := queue, ok := 0, bad := 0, desc := d, todo := none, ending := none, killed := false }
      let v := s.modCtx tag fun _ => { Ctx.zero with live := true, root := ldCtx d, launch := id, priv := ldPriv d, isRoot := true }
      let u := ({ v with nextId := s.nextId + 1 }).modPart n fun p => { p with launches := p.launches ++ [l] }
      (s.floor.recovery = false ∨ queue = 8 → (s.part n).gwoke.contains (.launchDescriptor queue d) = false →
        s.ldReserved queue d = false → ldCtx d ≠ 0 → s.inUse tag = false →
        (s.part n).nodes.length + ldNroot d ≤ nodeLimit → Clean (u.runLaunch n l) →
        ∃ t, exec (.launchDescriptor queue d) s = .next t ∧ (t.ctx tag).isRoot = true ∧ (t.ctx tag).root = ldCtx d ∧
          (t.ctx tag).launch = id ∧ (t.ctx tag).priv = ldPriv d) ∧
      (s.floor.recovery = true → queue ≠ 8 → exec (.launchDescriptor queue d) s = .next s)) ∧
    (∀ (s : State) (queue k : Nat), queue < 9 →
      (s.floor.recovery = false ∨ queue = 8 → ∃ t, exec (.liftDoorbell queue k) s = .next t ∧
        (t.liftQ queue).subm = (s.liftQ queue).subm.drop k ∧
        t.agenda.map (·.ev) = s.agenda.map (·.ev) ++ ((s.liftQ queue).subm.take k).map (.launchDescriptor queue)) ∧
      (∀ nt rest, (s.liftQ queue).held = nt :: rest → (s.liftQ queue).room ≠ 0 →
        ∃ t, exec (.liftNoticeWrite queue) s = .next t ∧ (t.liftQ queue).compl = (s.liftQ queue).compl ++ [nt] ∧
          (t.liftQ queue).held = rest ∧ (t.liftQ queue).room + 1 = (s.liftQ queue).room) ∧
      ((s.liftQ queue).held = [] ∨ (s.liftQ queue).room = 0 → exec (.liftNoticeWrite queue) s = .next s))

/-- The beginning of quanta clears every thread's count in the partition. A tile whose threads have all stopped
arrives; when every tile has, the boundary begins and its service follows 40 tile cycles later; else nothing
changes. The first step of a boundary leads to the second; the second, with the log off, ends the quantum: its
number is one more and the counts are cleared; with a full recording log it pauses the partition with a notice.
A write of RESUME ends a pause once the log has room; one of DIV clears the mark of a divergence; one of RLOGT
changes nothing by itself. No register or byte changes but the log's. (R109, R110, R111, R116, R117, R118.) -/
def Obligations.QuantaRun : Prop :=
    (∀ s : State, ∃ t, exec .quantaBegin s = .next t ∧ (t.part s.myPart).quanta = true ∧ (t.part s.myPart).qnum = 0 ∧
      (t.part s.myPart).boundary = none ∧
      (∀ y, SameRegs (t.thread y) (s.thread y) ∧ (t.thread y).pc = (s.thread y).pc ∧
        (s.partOfTile y.tile ≠ some s.myPart → (t.thread y).st = (s.thread y).st) ∧
        (s.partOfTile y.tile = some s.myPart → (t.thread y).count = 0 ∧ (t.thread y).st = pastBoundary (s.thread y).st)) ∧
      ∀ c, t.byte c = s.byte c) ∧
    (∀ (s : State) (m : Nat),
      let n := (s.partOfTile m).getD 0
      (s.mayArrive n m = true → ∃ t, exec (.boundaryArrival m) s = .next t ∧ (t.tile m).arrived = true ∧
        (∀ j, j ≠ m → t.tile j = s.tile j) ∧ ∀ y, t.thread y = s.thread y) ∧
      (s.mayArrive n m = false → exec (.boundaryArrival m) s = .next s)) ∧
    (∀ (s : State) (n : Nat),
      (s.mayBegin n = true → ∃ t, exec (.boundaryBegin n) s = .next t ∧ (t.part n).boundary = some 1 ∧
        t.agenda.map (fun q => (q.due, q.ev)) = s.agenda.map (fun q => (q.due, q.ev)) ++ [(s.now + 40, .boundaryService n)] ∧
        ∀ y, t.thread y = s.thread y) ∧
      (s.mayBegin n = false → exec (.boundaryBegin n) s = .next s) ∧
      ((s.part n).boundary = none → exec (.boundaryService n) s = .next s) ∧
      ((s.part n).boundary = some 1 → (s.part n).mode ≠ 1 → Clean s → ∃ t, exec (.boundaryService n) s = .next t ∧
        (t.part n).boundary = some 2 ∧ t.agenda.any (fun q => q.ev == .boundaryService n) = true ∧
        (∀ y, t.thread y = s.thread y) ∧ ∀ c, t.byte c = s.byte c) ∧
      ((s.part n).boundary = some 1 → (s.part n).mode = 1 → Clean ((s.serviceStep n).decideStep n) →
        ∃ t, exec (.boundaryService n) s = .next t ∧ (t.part n).boundary = some 2 ∧
          t.agenda.any (fun q => q.ev == .boundaryService n) = true) ∧
      ((s.part n).boundary = some 2 → (s.part n).mode = 1 → (s.part n).quanta = true → (s.part n).rlogState = 0 →
        (s.part n).rlogPaused = false → Clean s → ∃ t, exec (.boundaryService n) s = .next t ∧
          (t.part n).qnum = (s.part n).qnum + 1 ∧ (t.part n).boundary = none ∧ (t.part n).quanta = true ∧
          (∀ y, SameRegs (t.thread y) (s.thread y) ∧ (s.partOfTile y.tile = some n → (t.thread y).count = 0)) ∧
          ∀ c, t.byte c = s.byte c) ∧
      ((s.part n).boundary = some 2 → (s.part n).rlogPaused = false → (s.part n).rlogState = 1 →
        rlogFull (s.part n) = true → Clean s → Here (cellsFrom (rlogAt (s.part n) (s.part n).rlogHead) 16) →
        ∃ t, exec (.boundaryService n) s = .next t ∧ (t.part n).rlogPaused = true ∧ (t.part n).boundary = some 3 ∧
          (t.part n).rlogHead = ((s.part n).rlogHead + 1) % 2 ^ 32 ∧
          (let at_ := rlogAt (s.part n) (s.part n).rlogHead
           t.byte at_ = 0x0E ∧ ∀ c, c < at_ ∨ at_ + 16 ≤ c → t.byte c = s.byte c))) ∧
    (∀ (s : State),
      let p := s.part s.myPart
      (p.rlogPaused = true → p.halted = false → rlogFull p = false → ∃ t, exec .rlogResume s = .next t ∧
        (t.part s.myPart).rlogPaused = false ∧ t.agenda.any (fun q => q.ev == .boundaryService s.myPart) = true ∧
        ∀ y, t.thread y = s.thread y) ∧
      (p.rlogPaused = false ∨ p.halted = true ∨ rlogFull p = true → exec .rlogResume s = .next s) ∧
      (∃ t, exec .rlogDivClear s = .next t ∧ (t.part s.myPart).rlogDiv = false ∧
        (t.part s.myPart).halted = (p.halted && p.rlogState ≠ 0) ∧
        (p.halted = true → t.agenda.any (fun q => q.ev == .boundaryService s.myPart) = true) ∧
        (∀ y, t.thread y = s.thread y) ∧ ∀ c, t.byte c = s.byte c) ∧
      exec .rlogtWrite s = .next s)

namespace Sys2Proof.Claim
/-- A ROLECMD that the rules of R16 and R28 refuse. -/
def goRefused (s : State) : Bool :=
  let f := s.floor
  let ls := s.layers f.rolePart.toNat
  ls.isEmpty || ((List.range 16).any fun z => !ls.contains z && (f.newRole ^^^ f.role).getLsbD z) ||
    !rolesOk s.partLayers f.newRole || decide (f.roleDlim.toNat < 16) || decide (30 < f.roleDlim.toNat)

/-- The role change has stopped in step 1 with a code, no thread and no byte changed. -/
def Halts (s t : State) (code : Nat) : Prop :=
  t.floor = { s.floor with roleStop := true, roleCode := code } ∧ (∀ y, t.thread y = s.thread y) ∧ ∀ c, t.byte c = s.byte c

/-- No status record is asked for, and no storage that does not exist was met. -/
def NoRecord (s : State) : Prop := bits s.floor.rolerec 50 4 = 0 ∧ Clean s

end Sys2Proof.Claim

/-- A GO while a sequence runs sets CODE 3, one that breaks a rule CODE 2, nothing else; otherwise the sequence
begins with CODE 1, its role word, partition and affected set, in deterministic mode still at step 0. An ABORT
in step 0 or 1 ends it with CODE 6 once its notice has room, later it does nothing. At the drain limit a task
that is left moves away, waiting where no forwarding entry is free; one with nowhere to go stops it with CODE 4,
an open window without FORCE with CODE 5. The flush writes the banks of a die that leaves the role to the flush
area, or zeroes them under DISCARD, and marks them vacated; the retirement drops their translations and zeroes
the banks of a die that gains the role; step 4 takes the hold; step 5 ends with CODE 0. (R16, R28, R30, R32,
R33, R445.) -/
def Obligations.RoleChangeSteps : Prop :=
    (∀ s : State, Clean s →
      (s.floor.roleBusy = true → s.floor.roleStop = false → exec .roleChangeGo s = .next (s.modFloor fun f => { f with roleCode := 3 })) ∧
      (s.floor.roleBusy = false ∨ s.floor.roleStop = true → goRefused s = true →
        exec .roleChangeGo s = .next (s.modFloor fun f => { f with roleCode := 2 })) ∧
      (s.floor.roleBusy = false ∨ s.floor.roleStop = true → goRefused s = false →
        (s.part s.floor.rolePart.toNat).mode = 1 ∨ Clean s.roleGo →
        ∃ t, exec .roleChangeGo s = .next t ∧ t.floor.roleBusy = true ∧ t.floor.roleCode = 1 ∧ t.floor.roleStop = false ∧
          t.floor.seqRole = s.floor.newRole ∧ t.floor.seqPart = s.floor.rolePart.toNat ∧ t.floor.role = s.floor.role ∧
          t.floor.roleStep = (if (s.part s.floor.rolePart.toNat).mode = 1 then 0 else 1) ∧
          (∀ z, z < 16 → t.floor.roleAffect.getLsbD z =
            (affectedSet (s.layers s.floor.rolePart.toNat) s.floor.role s.floor.newRole).contains z)) ∧
      (s.floor.roleBusy = false ∨ 1 < s.floor.roleStep → exec .roleChangeAbort s = .next s) ∧
      (s.floor.roleBusy = true → s.floor.roleStep ≤ 1 → s.noticeRoom s.floor.seqPart = false →
        ∃ t, exec .roleChangeAbort s = .next t ∧ t.floor = s.floor ∧
          t.agenda.any (fun q => q.ev == .roleChangeAbort) = true ∧ ∀ y, t.thread y = s.thread y) ∧
      (s.floor.roleBusy = true → s.floor.roleStep ≤ 1 → s.noticeRoom s.floor.seqPart = true →
        bits s.floor.rolerec 50 4 = 0 →
        ∃ t, exec .roleChangeAbort s = .next t ∧ t.floor.roleBusy = false ∧ t.floor.roleCode = 6 ∧ t.floor.roleStep = 0 ∧
          t.floor.role = s.floor.role ∧ (∀ q ∈ t.agenda, q.ev ≠ .roleFlush ∧ q.ev ≠ .drainLimitExpiry) ∧
          ∀ y, t.thread y = s.thread y)) ∧
    (∀ s : State,
      (s.floor.roleBusy = false ∨ s.floor.roleStep ≠ 1 ∨ s.floor.roleStop = true ∨ s.now < s.floor.roleDrain →
        exec .drainLimitExpiry s = .next s) ∧
      (s.floor.roleBusy = true → s.floor.roleStep = 1 → s.floor.roleStop = false → s.floor.roleDrain ≤ s.now →
        (s.roleTasks = [] → s.roleWindows = [] → exec .drainLimitExpiry s = .next s) ∧
        (s.roleTasks = [] → s.roleWindows ≠ [] → s.floor.seqForce = false →
          ∃ t, exec .drainLimitExpiry s = .next t ∧ Halts s t 5) ∧
        (∀ x k rest, s.roleTasks = (x, k) :: rest → k.phase = .running → (s.ctx k.tag).dying = false →
          s.waitsWork x = false → s.mayCross x k = false ∨ s.fwdFull x = false ∧ s.refuge s.floor.seqPart k = none →
          ∃ t, exec .drainLimitExpiry s = .next t ∧ Halts s t 4) ∧
        (∀ x k u, s.roleTasks = [(x, k)] → s.roleWindows = [] → (s.tile x).task = some k → k.phase = .running →
          (s.ctx k.tag).dying = false → (s.waitsWork x = true → ∃ t, exec .drainLimitExpiry s = .next t ∧
            (t.tile x).task = some { k with recalled := true } ∧ t.agenda.any (fun q => q.ev == .drainLimitExpiry) = true) ∧
          (s.waitsWork x = false → s.mayCross x k = true →
          (s.fwdFull x = false → s.refuge s.floor.seqPart k = some u →
            ∃ t, exec .drainLimitExpiry s = .next t ∧ Leaves s t x u k) ∧
          (s.fwdFull x = true → ∃ t, exec .drainLimitExpiry s = .next t ∧ (∀ m, t.tile m = s.tile m) ∧
            t.agenda.any (fun q => q.ev == .drainLimitExpiry) = true))))) ∧
    (∀ s : State, NoRecord s →
      (s.roleDrained = false → exec .roleFlush s = .next s) ∧
      (s.roleDrained = true → s.leavingBank = [] → ∃ t, exec .roleFlush s = .next t ∧ t.floor.roleStep = 2 ∧
        t.agenda.any (fun q => q.ev == .roleRetire && q.due == s.now) = true ∧ ∀ c, t.byte c = s.byte c) ∧
      (∀ z, s.roleDrained = true → s.leavingBank = [z] → s.floor.seqDiscard = true →
        ∃ t, exec .roleFlush s = .next t ∧ t.floor.roleStep = 2 ∧
          (∀ i, i < 2 ^ 30 → t.byte (dieCell z + i) = 0) ∧ (∀ i, i < 2 ^ 18 → SMap.get false t.vacated (dieCell z / 4096 + i) = true) ∧
          (∀ c, c < 2 ^ 63 → t.byte c = s.byte c) ∧
          t.agenda.any (fun q => q.ev == .roleRetire && q.due == s.now + 16384) = true) ∧
      (∀ z, s.roleDrained = true → s.leavingBank = [z] → s.floor.seqDiscard = false → SMap.wf 0 s.mem = true →
        s.pois = [] → bits s.floor.roleflb 50 30 * 2 ^ 30 + 2 ^ 30 ≤ hbmSize →
        ∃ t, exec .roleFlush s = .next t ∧ t.floor.roleStep = 2 ∧
          (∀ i, i < 2 ^ 30 → t.byte (bits s.floor.roleflb 50 30 * 2 ^ 30 + i) = s.byte (dieCell z + i)) ∧
          (∀ i, i < 2 ^ 18 → SMap.get false t.vacated (dieCell z / 4096 + i) = true) ∧
          (∀ w, dieCell z / 8 ≤ w → w < dieCell z / 8 + 2 ^ 27 → SMap.get false t.fe w = false) ∧
          t.agenda.any (fun q => q.ev == .roleRetire && q.due == s.now + 104858) = true) ∧
      (s.floor.roleBusy = false ∨ s.floor.roleStep ≠ 2 → exec .roleRetire s = .next s) ∧
      (s.floor.roleBusy = true → s.floor.roleStep = 2 → (∀ e ∈ s.bankCap, 2 ^ 63 ≤ e.1 * 4096) →
        ∃ t, exec .roleRetire s = .next t ∧ t.floor.roleStep = 3 ∧
          (∀ m ∈ s.tilesOf s.floor.seqPart, ∀ e ∈ (t.tile m).dtlb,
            ¬ (leafHome e.leaf = 1 ∧ s.changed (tileZ (bits e.leaf 33 22)) = true)) ∧
          (∀ z ∈ s.gainingBank, ∀ i, i < 2 ^ 30 → t.byte (dieCell z + i) = 0) ∧
          (∀ z ∈ s.leavingBank ++ s.gainingBank, ∀ i, i < 2 ^ 18 → SMap.get false t.vacated (dieCell z / 4096 + i) = true) ∧
          t.agenda.any (fun q => q.ev == .roleReenumerate) = true) ∧
      (s.floor.roleBusy = false ∨ s.floor.roleStep ≠ 3 → exec .roleReenumerate s = .next s) ∧
      (s.floor.roleBusy = true → s.floor.roleStep = 3 → (s.part s.floor.seqPart).quanta = false →
        (s.part s.floor.seqPart).hold = none →
        ∃ t, exec .roleReenumerate s = .next t ∧ t.floor.roleStep = 4 ∧
          (t.part s.floor.seqPart).hold.map (fun h => (h.why, h.begun)) = some (.roleChange, false) ∧
          ∀ y, t.thread y = s.thread y) ∧
      (s.floor.roleBusy = false ∨ s.floor.roleStep ≠ 4 → exec .roleReadmit s = .next s) ∧
      (s.floor.roleBusy = true → s.floor.roleStep = 4 →
        ∃ t, exec .roleReadmit s = .next t ∧ t.floor.roleStep = 0 ∧ t.floor.roleBusy = false ∧ t.floor.roleCode = 0 ∧
          ∀ y, t.thread y = s.thread y))

/-- A tile that has stopped arrives on the hold wire; after the last of the partition's live tiles the hold begins
40 tile cycles later. When the hold of a role change begins, the role word becomes the new one, NCOMP of the
partition counts its compute layers and the clock takes the ceiling of R17; when that of a retirement begins,
the core is retired; the release follows 4,096 tile cycles later. The release ends the hold, keeps every
register and PC, and lets the role change go on to its last step; a role change that met another's hold takes
its own. (R17, R26, R31, R35, R37.) -/
def Obligations.HoldsApply : Prop :=
    (∀ (s : State) (m : Nat),
      let n := (s.partOfTile m).getD 0
      ((s.part n).hold = none → exec (.holdWireArrival m) s = .next s) ∧
      (∀ h, (s.part n).hold = some h → ∃ t, exec (.holdWireArrival m) s = .next t ∧ (t.tile m).holdArr = true ∧
        (∀ y, t.thread y = s.thread y) ∧ (∀ c, t.byte c = s.byte c) ∧
        (h.begun = false → (∀ x ∈ s.liveTiles n, x = m ∨ (s.tile x).holdArr = true) →
          s.agenda.any (fun q => q.ev == .holdBegin n) = false →
          t.agenda.any (fun q => q.ev == .holdBegin n && q.due == s.now + 40) = true))) ∧
    (∀ (s : State) (n : Nat), n < 8 → Clean s → (∀ e ∈ s.tiles, e.2.workQ = []) →
      (s.roleHolds n = true → s.floor.retireQ = [] → ∃ t, exec (.holdBegin n) s = .next t ∧
        t.floor.role = s.floor.seqRole ∧ t.floor.mhz = (ceilingFor (compDies s.floor.seqRole).length).1 ∧
        pdescNcomp (t.pdesc n) = ((s.layers n).filter fun z => s.floor.seqRole.getLsbD z).length % 16 ∧
        (t.part n).hold.map (·.begun) = some true ∧
        t.agenda.any (fun q => q.ev == .holdRelease n && q.due == s.now + 4096) = true ∧
        (∀ y, SameRegs (t.thread y) (s.thread y)) ∧ ∀ c, t.byte c = s.byte c) ∧
      (∀ x, s.roleHolds n = false → s.floor.retireQ = [.core x] → s.partOfTile x = some n → s.windows = [] →
        ∃ t, exec (.holdBegin n) s = .next t ∧ t.retiredTile x = true ∧ t.floor.role = s.floor.role ∧
          (t.part n).hold.map (·.begun) = some true ∧
          t.agenda.any (fun q => q.ev == .holdRelease n && q.due == s.now + 4096) = true)) ∧
    (∀ (s : State) (n : Nat),
      ((s.part n).hold = none → exec (.holdRelease n) s = .next s) ∧
      (∀ h, (s.part n).hold = some h → s.floor.retireQ = [] → Clean s → ∃ t, exec (.holdRelease n) s = .next t ∧
        (∀ y, SameRegs (t.thread y) (s.thread y) ∧ (t.thread y).pc = (s.thread y).pc) ∧ (∀ c, t.byte c = s.byte c) ∧
        (h.why = .roleChange ∨ s.roleHolds n = false → (t.part n).hold = none) ∧
        (h.why = .roleChange → t.agenda.any (fun q => q.ev == .roleReadmit) = true) ∧
        (h.why = .retire → s.roleHolds n = true → (s.part n).quanta = false →
          (t.part n).hold.map (fun x => (x.why, x.begun)) = some (.roleChange, false))))

namespace Sys2Proof.Claim
/-- The instructions of the vector unit that check nothing before they are dispatched. -/
def isVectorOp : Instr → Bool
  | .vadd .. | .vsub .. | .vmul .. | .vfma .. | .vmin .. | .vmax .. | .vabs .. | .vneg .. | .vexp2 .. | .vrcp ..
  | .vrsq .. | .vlog2 .. | .vred .. | .vscan .. | .vcmp .. | .viadd .. | .visub .. | .vimul .. | .vand .. | .vor ..
  | .vxor .. | .vshl .. | .vshr .. | .vsar .. | .vimin .. | .vimax .. | .vsel .. | .vshuf .. | .vbcast .. | .vmovg ..
  | .vlane .. | .vmask .. | .vargx .. | .vrng .. => true
  | _ => false

/-- What such an instruction takes at issue: the g registers named as sources (R423). -/
def vectorTakes (s : State) (i : Instr) : UnitOp :=
  match i with
  | .vbcast _ _ r _ => { unitOp s i with x0 := s.g5 r }
  | .vmovg _ _ _ r => { unitOp s i with x1 := s.g5 r }
  | .vlane _ _ r j => { unitOp s i with x0 := s.g5 r, x1 := s.g5 j }
  | .vrng _ b r _ => { unitOp s i with x0 := s.g5 b, x1 := s.g5 r }
  | _ => unitOp s i

/-- The executing instruction has been dispatched to a unit with the next ring number: its thread is ready at the
next word, its ring entry holds its pc and slot, and no register, no other thread and no byte has changed. -/
structure Issued (s t : State) (matrix : Bool) : Prop where
  me     : t.me = s.me.retireTo (next4 s) (s.counts? s.cur)
  others : ∀ y, y ≠ s.cur → t.thread y = s.thread y
  bytes  : ∀ c, t.byte c = s.byte c
  number : t.myTile.ringNext = s.myTile.ringNext + 1
  entry  : SMap.get RingEntry.zero t.myTile.ring s.myTile.ringNext.toNat =
    { pc := s.me.pc, slot := s.cur.slot, st := .queued, matrix := matrix, kept := false }

/-- The vector unit takes the instruction as `u`, the last of its queue of eight, or the thread is held. -/
def VectorTakes (s : State) (i : Instr) (u : UnitOp) : Prop :=
  let due := s.tc s.cur.tile + vecLatency i
  (s.myTile.vq.length < 8 → s.myTile.ringKept = false → ∃ t, exec i s = .next t ∧ Issued s t false ∧
    t.myTile.vq = s.myTile.vq ++ [{ u with ring := s.myTile.ringNext, due := due }] ∧
    t.agenda.map (fun q => (q.due, q.ev)) =
      s.agenda.map (fun q => (q.due, q.ev)) ++ [(due, .vectorCompletion s.cur.tile)]) ∧
  (8 ≤ s.myTile.vq.length → exec i s = .next s.held)

/-- The executing instruction raises a cause exactly. -/
def Raises (s : State) (i : Instr) (cause : Nat) (tval : Word) : Prop :=
  CanTrap s → Clean s → ∃ t, exec i s = .next t ∧ Enters s t (target s) cause tval

end Sys2Proof.Claim

/-- Every vector instruction is dispatched to its unit's queue of eight, with its scalar sources, its ring number
and its latency, and retires; with a full queue its thread is held. VCVT runs with a storage format of a width
up to the element's and no scales, VQUANT and VDEQ with a target of theirs, a scale pointer that R125 allows and
blocks that fit the register; otherwise they raise format-invalid (0x09) or invalid-operand (0x0B) with the
pointer. The oldest instruction of the unit, once due, leaves its thread with the registers that it gives; no
other thread and no byte changes; one whose thread is gone changes no thread. (R45, R50, R124, R125, R259, R423,
R424, R430, R432, R433.) -/
def Obligations.VectorIssue : Prop :=
    (∀ (s : State) (i : Instr), isVectorOp i = true → VectorTakes s i (vectorTakes s i)) ∧
    (∀ (s : State) (dec : Bool) (f : VFmt) (d a : VReg) (n : AReg) (rm : RMode),
      let i : Instr := .vcvt dec f d a n rm
      let p := s.me.getA n
      (∀ b, fmtBits (ptrFmt p) = some b → ptrFmt p ≠ 0 → ptrK p = 0 → b ≤ f.width →
        VectorTakes s i { unitOp s i with ptr := p }) ∧
      (fmtBits (ptrFmt p) = none ∨ ptrFmt p = 0 ∨ ptrK p ≠ 0 → Raises s i 0x09 p) ∧
      (∀ b, fmtBits (ptrFmt p) = some b → ptrFmt p ≠ 0 → ptrK p = 0 → f.width < b → Raises s i 0x0B p)) ∧
    (∀ (s : State) (f : VFmt) (d a : VReg) (n : AReg) (m : KReg) (i : Instr), i = .vquant f d a n m ∨ i = .vdeq f d a n m →
      let p := s.me.getA n
      let q := s.me.getA (n + 1)
      let fits : Bool := (ptrFmt p == 12 || ptrFmt p == 1 || (decide (32 ≤ ptrFmt p) && (fmtBits (ptrFmt p)).isSome)) &&
        fmtScales (ptrFmt p) && n != 15 && ptrFmt q == 13 && ptrK q == 0 && ptrPath q != 6
      (fits = true → ptrK p ≠ 0 → 2 ^ ptrK p ≤ f.lanes → VectorTakes s i { unitOp s i with ptr := p }) ∧
      (fits = false ∨ ptrK p = 0 → Raises s i 0x09 p) ∧
      (fits = true → ptrK p ≠ 0 → f.lanes < 2 ^ ptrK p → Raises s i 0x0B p)) ∧
    (∀ (s : State) (n : Nat) (u : UnitOp) (us : List UnitOp), (s.tile n).vq = u :: us →
      (u.due ≤ s.tc n → ∃ t, exec (.vectorCompletion n) s = .next t ∧ (t.tile n).vq = us ∧
        (SMap.get RingEntry.zero (t.tile n).ring u.ring.toNat).st = .done ∧
        (∀ y, t.thread y = if u.slot < 16 ∧ y = { tile := n, slot := u.slot } then vecRun u (s.thread y) else s.thread y) ∧
        ∀ c, t.byte c = s.byte c) ∧
      (s.tc n < u.due → ∃ t, exec (.vectorCompletion n) s = .next t ∧ (∀ m, t.tile m = s.tile m) ∧
        t.agenda.any (fun q => q.ev == .vectorCompletion n && q.due == u.due) = true))

namespace Sys2Proof.Claim
/-- An instruction of the vector unit leaves register `d` with a value per lane: `g` in the active lanes, the lane of
`old` in the others; its flags, the OR over the active lanes, are ORed into FSTAT, and nothing else changes. -/
def LaneResult (f : VFmt) (d : VReg) (k : Word) (old : VWord) (th th' : Thread) (g : Nat → Nat × BitVec 5) : Prop :=
  ∃ v, th' = { th.setV d v with
      fstat := th.fstat ||| ((List.range f.lanes).filter (laneOn k f.lanes)).foldl (fun x i => x ||| (g i).2) 0 } ∧
    ∀ i, i < f.lanes → lane v f.width i = if laneOn k f.lanes i then (g i).1 % 2 ^ f.width else lane old f.width i

/-- The operands of the eleven integer forms of VINT. -/
def intForm : Instr → Option (VFmt × VReg × VReg × VReg × KReg)
  | .viadd f d a b m | .visub f d a b m | .vimul f d a b m | .vand f d a b m | .vor f d a b m | .vxor f d a b m
  | .vshl f d a b m | .vshr f d a b m | .vsar f d a b m | .vimin f d a b m | .vimax f d a b m => some (f, d, a, b, m)
  | _ => none

/-- Their lane results (R426). -/
def intLane {w : Nat} (x y : BitVec w) : Instr → BitVec w
  | .viadd .. => x + y
  | .visub .. => x - y
  | .vimul .. => x * y
  | .vand .. => x &&& y
  | .vor .. => x ||| y
  | .vxor .. => x ^^^ y
  | .vshl .. => x <<< (y.toNat % w)
  | .vshr .. => x >>> (y.toNat % w)
  | .vsar .. => x.sshiftRight (y.toNat % w)
  | .vimin .. => if y.slt x then y else x
  | .vimax .. => if x.slt y then y else x
  | _ => 0

end Sys2Proof.Claim

/-- Executed by the unit: the integer forms give each active lane the sum, difference, product, bitwise, shifted,
lesser or greater value modulo the width, and no flag. VADD, VSUB, VMUL and VFMA round the exact result once
under RMODE; VABS and VNEG clear or flip the sign of a number; VRCP, VRSQ, VEXP2 and VLOG2 on FP32 give the
faithful function. VSEL takes inactive lanes from vb; VSHUF reads the lane that the index names modulo L; VBCAST
and VLANE copy a g register; VMOVG writes a lane to one; VMASK and VCMP write mask bits; VARGX without an active
lane gives all ones. Inactive lanes keep their value; FSTAT gets the flags of the active lanes, and nothing else
changes. (R48, R49, R212, R213, R221, R313, R423, R425, R426, R427, R428, R429.) -/
def Obligations.LaneResults : Prop :=
    ∀ (u : UnitOp) (th : Thread) (f : VFmt) (d a b : VReg) (m : KReg),
    let k := th.getK m
    let x (i : Nat) : Nat := lane (th.getV a) f.width i
    let y (i : Nat) : Nat := lane (th.getV b) f.width i
    let old (i : Nat) : Nat := lane (th.getV d) f.width i
    let rm := rmodeOf u.rm
    let G := f.grid
    let num (c : Nat) : Val := G.decode c
    let th' := vecRun u th
    (intForm u.insn = some (f, d, a, b, m) → LaneResult f d k (th.getV d) th th' fun i =>
      ((intLane (BitVec.ofNat f.width (x i)) (BitVec.ofNat f.width (y i)) u.insn).toNat, 0)) ∧
    (u.insn = .vadd f d a b m → LaneResult f d k (th.getV d) th th' fun i =>
      roundRaised G rm (exactSum (rm == .rdn) [num (x i), num (y i)])) ∧
    (u.insn = .vsub f d a b m → LaneResult f d k (th.getV d) th th' fun i =>
      roundRaised G rm (exactSum (rm == .rdn) [num (x i), (num (y i)).negate])) ∧
    (u.insn = .vmul f d a b m → LaneResult f d k (th.getV d) th th' fun i =>
      roundRaised G rm (exactMul (num (x i)) (num (y i)))) ∧
    (u.insn = .vfma f d a b m → LaneResult f d k (th.getV d) th th' fun i =>
      roundRaised G rm (exactFma (rm == .rdn) (num (x i)) (num (y i)) (num (old i)))) ∧
    (u.insn = .vmin f d a b m → LaneResult f d k (th.getV d) th th' fun i =>
      roundRaised G rm (valMin (num (x i)) (num (y i)))) ∧
    (u.insn = .vmax f d a b m → LaneResult f d k (th.getV d) th th' fun i =>
      roundRaised G rm (valMax (num (x i)) (num (y i)))) ∧
    (u.insn = .vabs f d a m → f.isFloat = true → (∀ i, i < f.lanes → (num (x i)).isNan = false) →
      LaneResult f d k (th.getV d) th th' fun i => (x i % 2 ^ (f.width - 1), 0)) ∧
    (u.insn = .vneg f d a m → f.isFloat = true → (∀ i, i < f.lanes → (num (x i)).isNan = false) →
      LaneResult f d k (th.getV d) th th' fun i => ((x i + 2 ^ (f.width - 1)) % 2 ^ f.width, 0)) ∧
    (u.insn = .vexp2 .fp32 d a m → f = .fp32 → LaneResult .fp32 d k (th.getV d) th th' fun i => faithful32 0 (x i)) ∧
    (u.insn = .vrcp .fp32 d a m → f = .fp32 → LaneResult .fp32 d k (th.getV d) th th' fun i => faithful32 1 (x i)) ∧
    (u.insn = .vrsq .fp32 d a m → f = .fp32 → LaneResult .fp32 d k (th.getV d) th th' fun i => faithful32 2 (x i)) ∧
    (u.insn = .vlog2 .fp32 d a m → f = .fp32 → LaneResult .fp32 d k (th.getV d) th th' fun i => faithful32 3 (x i)) ∧
    (u.insn = .vsel f d a b m → LaneResult f d k (th.getV b) th th' fun i => (x i, 0)) ∧
    (u.insn = .vshuf f d a b m → LaneResult f d k (th.getV d) th th' fun i => (x (y i % f.lanes), 0)) ∧
    (∀ r, u.insn = .vbcast f d r m → LaneResult f d k (th.getV d) th th' fun _ => (u.x0.toNat % 2 ^ f.width, 0)) ∧
    (∀ r j, u.insn = .vlane f d r j → LaneResult f d (BitVec.allOnes 64) (th.getV d) th th' fun i =>
      (if i = u.x1.toNat % f.lanes then u.x0.toNat else old i, 0)) ∧
    (∀ e j, u.insn = .vmovg f e a j →
      let z := x (u.x1.toNat % f.lanes)
      th' = th.setG (e.castLE (by decide))
        (if f.isFloat then BitVec.ofNat 64 z else (BitVec.ofNat f.width z).signExtend 64)) ∧
    (∀ q, u.insn = .vmask f q a → ∃ w : Word, th' = th.setK q w ∧
      ∀ j, j < 64 → w.getLsbD j = (decide (governed f.lanes j < f.lanes) && decide (x (governed f.lanes j) ≠ 0))) ∧
    (∀ c q, u.insn = .vcmp c f q a b m →
      let fl : BitVec 5 := ((List.range f.lanes).filter (laneOn k f.lanes)).foldl (fun z i => z ||| (fpCmp c G (x i) (y i)).2) 0
      ∃ w, th' = { th.setK q w with fstat := th.fstat ||| fl } ∧
      ∀ j, j < 64 →
        (f.lanes ≤ governed f.lanes j → w.getLsbD j = false) ∧
        (governed f.lanes j < f.lanes → laneOn k f.lanes (governed f.lanes j) = true →
          w.getLsbD j = (fpCmp c G (x (governed f.lanes j)) (y (governed f.lanes j))).1) ∧
        (governed f.lanes j < f.lanes → laneOn k f.lanes (governed f.lanes j) = false →
          w.getLsbD j = (th.getK q).getLsbD j)) ∧
    (∀ e mx, u.insn = .vargx f e a mx m → (∀ i, i < f.lanes → laneOn k f.lanes i = false) →
      th' = th.setG (e.castLE (by decide)) (BitVec.allOnes 64))

namespace Sys2Proof.Claim
/-- Thread `x` of `s` has entered the handler of level `h` (R254): the bank of that level holds its pc with bits 1:0 zero, the cause with
the late bit, the trap value and the level it came from, NEST is 1, PEND is 1 too where a late fault awaits the thread, it runs at `h` from TRAPBASE's entry, its general,
address, predicate, mask and vector registers, FSTAT, RMODE, SEED and its other bank are as before. -/
structure Entered (s t : State) (x : ThreadId) (h : Priv) (cause : Nat) (tval : Word) (late : Bool) : Prop where
  only  : OnlyThread s t x
  pc    : (t.thread x).pc.toNat = bits (s.trapBase x h) 50 2 * 4
  priv  : (t.thread x).priv = h
  ready : (t.thread x).st = .ready
  bank  : (t.thread x).bank h =
    { (s.thread x).bank h with epc := alignPc (s.thread x).pc, code := BitVec.ofNat 7 cause, late := late, tval := tval, ppriv := (s.thread x).priv, nest := true, pend := ((s.thread x).bank h).pend || (s.thread x).late.isSome }
  other : ∀ l, l ≠ .task → l ≠ h → (t.thread x).bank l = (s.thread x).bank l
  same  : (t.thread x).g = (s.thread x).g ∧ (t.thread x).a = (s.thread x).a ∧ (t.thread x).p = (s.thread x).p ∧
    (t.thread x).k = (s.thread x).k ∧ (t.thread x).v = (s.thread x).v ∧ (t.thread x).fstat = (s.thread x).fstat ∧
    (t.thread x).rm = (s.thread x).rm ∧ (t.thread x).seed = (s.thread x).seed
  count : (t.thread x).retired = (s.thread x).retired ∧ (t.thread x).count = (s.thread x).count ∧
    (t.tile x.tile).retired = (s.tile x.tile).retired

/-- What a trap does (R254, R255): it enters its level's handler; a supervisor that cannot take it hands it to the
steward as double-fault with the cause in TVAL; a steward that cannot stops the thread, and its context ends. -/
def TrapTaken (s t : State) (h : Priv) (cause : Nat) (tval : Word) : Prop :=
  (s.trapReady s.cur h = true → Entered s t s.cur h cause tval false) ∧
  (h = .supervisor → s.trapReady s.cur h = false → s.trapReady s.cur .steward = true →
    Entered s t s.cur .steward 0x11 (BitVec.ofNat 64 cause) false) ∧
  (s.trapReady s.cur h = false → s.trapReady s.cur .steward = false →
    t.me.st = .stopped ∧ t.me.pc = s.me.pc ∧ (∀ c, t.byte c = s.byte c) ∧
    (∀ y, y ≠ s.cur → t.thread y = s.thread y) ∧ ((s.ctx s.myTag).live = true → (t.ctx s.myTag).dying = true))

end Sys2Proof.Claim

/-- TRAP n at task level goes to the supervisor, above it to the steward; every other trap goes to the supervisor,
at steward level to the steward. Where TRAPBASE.V is 1 and NEST 0 the thread enters the handler with EPC, CAUSE,
TVAL, PPRIV and NEST set and every other register kept; a supervisor that cannot take it hands it to the steward
as double-fault (0x11), TVAL the original code; a steward that cannot stops the thread and its context ends. The
zero word raises zero-word (0x01), TVAL 0; any other word without a meaning illegal-instruction (0x02), TVAL the
word. ERET at task level raises privilege-violation (0x03), TVAL 0; above it restores the PC, the level and NEST
alone. (R252, R254, R255, R256, R307, R361, R422.) -/
def Obligations.TrapsAndReturns : Prop :=
    (∀ (s : State) (n : BitVec 10), Clean s → ∃ t, exec (.trap n) s = .next t ∧
      TrapTaken s t (if s.me.priv = .task then .supervisor else .steward) 0x10 (n.zeroExtend 64)) ∧
    (∀ (s : State) (w : InsnWord), Clean s →
      (w = 0 → ∃ t, exec (.illegalInstruction w) s = .next t ∧ TrapTaken s t (target s) 0x01 0) ∧
      (w ≠ 0 → ∃ t, exec (.illegalInstruction w) s = .next t ∧ TrapTaken s t (target s) 0x02 (w.zeroExtend 64))) ∧
    (∀ (s : State) (c : Nat) (v : Word), Clean s →
      c ≠ 0x1C ∨ (∀ w b, s.translate s.cur .fetch s.me.pc.toNat ≠ .ok (.remote w b)) →
      ∃ t, exec (.fetchFault (.trap c v)) s = .next t ∧ TrapTaken s t (target s) c v) ∧
    (∀ (s : State) (va q l p : Nat), s.lateAtPoints s.cur = false → Clean (s.parkOnFault s.cur va 0 .fetch q l p) →
      ∃ t, exec (.fetchFault (.pageFault va q l p)) s = .next t ∧ t.me.st = .parked .pageFault ∧ SameRegs t.me s.me ∧
        t.me.pc = s.me.pc) ∧
    (∀ (s : State) (va : Nat), Clean s → ∃ t, exec (.fetchFault (.miss va)) s = .next t ∧ t.me.st = .awaiting ∧
      SameRegs t.me s.me ∧ t.me.pc = s.me.pc ∧
      t.agenda.any (fun q => q.ev == .pageWalk { tid := s.cur, va := va, path := 0, kind := .fetch }) = true) ∧
    (∀ s : State, Clean s →
      (s.me.priv = .task → ∃ t, exec .eret s = .next t ∧ TrapTaken s t .supervisor 0x03 0) ∧
      (s.me.priv ≠ .task → ∃ t, exec .eret s = .next t ∧ OnlyThread s t s.cur ∧ SameRegs { t.me with priv := s.me.priv, sup := s.me.sup, stw := s.me.stw } s.me ∧
        t.me.pc = (s.me.bank s.me.priv).epc ∧ t.me.priv = (s.me.bank s.me.priv).ppriv ∧
        t.me.bank s.me.priv = { s.me.bank s.me.priv with nest := false } ∧
        (∀ l, l ≠ .task → l ≠ s.me.priv → t.me.bank l = s.me.bank l) ∧
        t.me.count = s.me.count ∧ t.me.retired = s.me.retired + 1))

namespace Sys2Proof.Claim
/-- System registers whose one field is written whole and read back: number, highest and lowest bit (R26, R27, R118,
R121, R132, R146, R162, R194, R220, R246, R253, R270, R334). -/
def plainRegs : List (Nat × Nat × Nat) :=
  [(0x012, 31, 0), (0x38A, 50, 30), (0x38C, 50, 4), (0x392, 63, 12), (0x395, 31, 0), (0x398, 55, 12), (0x3A0, 50, 0),
   (0x3A1, 55, 12), (0x3A8, 50, 30), (0x3B0, 50, 21), (0x3C1, 50, 17), (0x3C2, 50, 17), (0x3D1, 50, 2), (0x3D3, 63, 0),
   (0x3D5, 63, 0), (0x3D7, 5, 0), (0x3DC, 55, 12), (0x3E5, 50, 6)]

end Sys2Proof.Claim

/-- An unassigned number raises illegal-instruction (0x02) with the word; an access that the level does not permit
raises privilege-violation (0x03) with the number. A permitted SYSR writes the register's value and changes
nothing else, CYCLE, SLOTST and RETIRED with the log off included. SYSW, and SYSX whose gd gets the old value,
of a register of one field leaves that field with the bits of gs and its other bits 0, no byte and no other
thread changed; a write that is ignored only retires. FSTAT's flags are cleared where gs has 1; RMODE keeps its
value on 4, 6 and 7; TSTAT keeps PPRIV on 3 and on a level above the executing one. (R25, R108, R132, R220,
R253, R295, R296, R297, R411.) -/
def Obligations.SystemRegisters : Prop :=
    (∀ (s : State) (d r : GReg) (n : BitVec 10), sysAccess n.toNat = none →
      Raises s (.sysr d n) 0x02 (insnValue (.sysr d n)) ∧ Raises s (.sysw r n) 0x02 (insnValue (.sysw r n)) ∧
      Raises s (.sysx d r n) 0x02 (insnValue (.sysx d r n))) ∧
    (∀ (s : State) (d r : GReg) (n : BitVec 10), sysAccess n.toNat ≠ none →
      (s.mayRead n.toNat = false → Raises s (.sysr d n) 0x03 (n.zeroExtend 64)) ∧
      (s.mayWrite n.toNat = false → Raises s (.sysw r n) 0x03 (n.zeroExtend 64)) ∧
      (s.mayRead n.toNat = false ∨ s.mayWrite n.toNat = false → Raises s (.sysx d r n) 0x03 (n.zeroExtend 64))) ∧
    (∀ (s : State) (d : GReg) (n : BitVec 10), Clean s → s.mayRead n.toNat = true →
      (timeRegs.contains n.toNat = false ∨ (s.part ((s.partOfTile s.cur.tile).getD 0)).quanta = false) →
      ∃ t, exec (.sysr d n) s = .next t ∧ Retires s t (s.me.setG d (s.sysRead n.toNat)) (next4 s)) ∧
    (∀ (s : State) (d r : GReg) (n : BitVec 10) (hi lo : Nat), Clean s → (n.toNat, hi, lo) ∈ plainRegs →
      s.mayWrite n.toNat = true →
      (∃ t, exec (.sysw r n) s = .next t ∧
        (∀ j, j < 64 → (t.sysRead n.toNat).getLsbD j = (decide (lo ≤ j) && decide (j ≤ hi) && (s.g r).getLsbD j)) ∧
        t.me.pc = next4 s ∧ t.me.st = .ready ∧ t.me.g = s.me.g ∧ t.me.a = s.me.a ∧ t.me.v = s.me.v ∧
        (∀ y, y ≠ s.cur → t.thread y = s.thread y) ∧ ∀ c, t.byte c = s.byte c) ∧
      (s.mayRead n.toNat = true → ∃ t, exec (.sysx d r n) s = .next t ∧
        t.me.getG d = (if d = 0 then 0 else s.sysRead n.toNat) ∧
        (∀ j, j < 64 → (t.sysRead n.toNat).getLsbD j = (decide (lo ≤ j) && decide (j ≤ hi) && (s.g r).getLsbD j)) ∧
        t.me.pc = next4 s ∧ (∀ e, e ≠ d → t.me.getG e = s.me.getG e) ∧
        (∀ y, y ≠ s.cur → t.thread y = s.thread y) ∧ ∀ c, t.byte c = s.byte c)) ∧
    (∀ (s : State) (r : GReg) (n : BitVec 10), s.mayWrite n.toNat = true →
      (∀ c v, s.writeStop n.toNat (s.g r) = some (c, v) → Raises s (.sysw r n) c v) ∧
      (s.writeStop n.toNat (s.g r) = none → Clean (s.sysWrite n.toNat (s.g r)) →
        exec (.sysw r n) s = .next (s.sysWrite n.toNat (s.g r)).retire)) ∧
    (∀ (s : State) (r : GReg) (n : BitVec 10), Clean s → (sysAccess n.toNat).map (·.2) = some .ignored →
      ∃ t, exec (.sysw r n) s = .next t ∧ Retires s t s.me (next4 s)) ∧
    (∀ (s : State) (r : GReg), Clean s →
      (∃ t, exec (.sysw r 0x010#10) s = .next t ∧
        Retires s t { s.me with fstat := s.me.fstat &&& ~~~((s.g r).truncate 5) } (next4 s)) ∧
      (∃ t, exec (.sysw r 0x011#10) s = .next t ∧
        Retires s t (if bits (s.g r) 2 0 = 4 ∨ bits (s.g r) 2 0 = 6 ∨ bits (s.g r) 2 0 = 7 then s.me
          else { s.me with rm := (s.g r).truncate 3 }) (next4 s)) ∧
      (s.me.priv ≠ .task → ∃ t, exec (.sysw r 0x3D4#10) s = .next t ∧ OnlyThread s t s.cur ∧ t.me.pc = next4 s ∧
        (t.me.bank s.me.priv).nest = (s.g r).getLsbD 2 ∧ (t.me.bank s.me.priv).pend = (s.me.bank s.me.priv).pend ∧
        (bits (s.g r) 1 0 ≤ privNum s.me.priv → privNum (t.me.bank s.me.priv).ppriv = bits (s.g r) 1 0) ∧
        (privNum s.me.priv < bits (s.g r) 1 0 → (t.me.bank s.me.priv).ppriv = (s.me.bank s.me.priv).ppriv)))

/-- Below steward level HALT raises privilege-violation. In another slot than 0 it frees the slot; in slot 0 it
raises context-misuse 2 while a helper is live and otherwise ends its own context, and the thread waits. KILL
below supervisor level, or of another owner's or partition's context by a supervisor, raises
privilege-violation; of context 0 invalid-operand; of a context that is not live it returns 1; of a live one it
begins the Avalanche and waits. SIGRD of dwords 0 to 63 retires with the identity's dword, dword 0 being 1. A
write of BARCTL zeroes every phase of the partition, and threads parked at its wires are woken as timed out. A
cleared FLOG.COUNT ends the halt. (R195, R233, R272, R314, R332, R366, R373.) -/
def Obligations.ThreadsAndContextsEnd : Prop :=
    (∀ s : State,
      (s.me.priv ≠ .steward → Raises s .halt 0x03 (insnValue .halt)) ∧
      (s.me.priv = .steward → s.cur.slot ≠ 0 → Clean s → ∃ t, exec .halt s = .next t ∧ t.me = Thread.zero ∧
        (∀ y, y ≠ s.cur → SameRegs (t.thread y) (s.thread y) ∧ (t.thread y).pc = (s.thread y).pc) ∧
        t.myTile.retired = s.myTile.retired + 1 ∧ ∀ c, t.byte c = s.byte c) ∧
      (s.me.priv = .steward → s.cur.slot = 0 → s.myTile.anyLive = true → Raises s .halt 0x0D 2) ∧
      (s.me.priv = .steward → s.cur.slot = 0 → s.myTile.anyLive = false → Clean s → (s.ctx s.myTag).live = true →
        ∃ t, exec .halt s = .next t ∧ (t.ctx s.myTag).dying = true ∧ t.me = { s.me with st := .awaiting } ∧
          (∀ y, y ≠ s.cur → t.thread y = s.thread y) ∧ ∀ c, t.byte c = s.byte c)) ∧
    (∀ (s : State) (d r : GReg),
      let tag : Tag := (s.g r).truncate 24
      let mine : Bool := tagOwner tag == tagOwner s.myTag && tagPart tag == tagPart s.myTag
      let may : Prop := s.me.priv = .steward ∨ (s.me.priv = .supervisor ∧ mine = true)
      (¬ may → Raises s (.kill d r) 0x03 (insnValue (.kill d r))) ∧
      (may → tagCtx tag = 0 ∨ 2 ^ 24 ≤ (s.g r).toNat → Raises s (.kill d r) 0x0B (s.g r)) ∧
      (may → tagCtx tag ≠ 0 → (s.g r).toNat < 2 ^ 24 → (s.ctx tag).live = false →
        ∃ t, exec (.kill d r) s = .next t ∧ Retires s t (s.me.setG d 1) (next4 s)) ∧
      (may → tagCtx tag ≠ 0 → (s.g r).toNat < 2 ^ 24 → (s.ctx tag).live = true → Clean s →
        ∃ t, exec (.kill d r) s = .next t ∧ (t.ctx tag).dying = true ∧ (s.cur, d) ∈ (t.ctx tag).killer ∧
          t.me = { s.me with st := .awaiting } ∧ (∀ y, y ≠ s.cur → t.thread y = s.thread y) ∧
          ∀ c, t.byte c = s.byte c)) ∧
    (∀ (s : State) (d : GReg) (n : BitVec 10),
      (s.me.priv = .task → Raises s (.sigrd d n) 0x03 (insnValue (.sigrd d n))) ∧
      (s.me.priv ≠ .task → 63 < n.toNat → Raises s (.sigrd d n) 0x0B (n.zeroExtend 64)) ∧
      (s.me.priv ≠ .task → n.toNat ≤ 63 → ∃ t, exec (.sigrd d n) s = .next t ∧
        Retires s t (s.me.setG d (s.identity n.toNat)) (next4 s) ∧ s.identity 0 = 1)) ∧
    (∀ s : State, ∃ t, exec .barctlWrite s = .next t ∧
      (∀ m, s.partOfTile m = some s.myPart → (t.tile m).barA = 0 ∧ (t.tile m).barD = 0) ∧
      (∀ y k p, s.partOfTile y.tile = some s.myPart → y ∈ s.allThreads → (s.thread y).st = .parked (.wire k p) →
        t.thread y = { s.thread y with expired := true, outcome := some 1 } ∧
          ((s.part s.myPart).hold = none → ¬ ((s.part s.myPart).mode = 1 ∧ (s.thread y).priv = .task) →
            t.agenda.any (fun q => q.ev == .wakeArrival y) = true)) ∧
      (∀ y, SameRegs (t.thread y) (s.thread y) ∧ (t.thread y).pc = (s.thread y).pc) ∧ ∀ c, t.byte c = s.byte c) ∧
    (∀ s : State, ∃ t, exec .flogClear s = .next t ∧ (t.ctx s.myTag).logCount = 0 ∧ (t.ctx s.myTag).halt = none ∧
      (∀ y, t.thread y = s.thread y) ∧ ∀ c, t.byte c = s.byte c)

namespace Sys2Proof.Claim
/-- The matrix unit takes the instruction as `u`, the last of its queue of four, at once begun where the queue was
empty; with a full queue, or while an earlier access of the thread, a fenced one or a queued update, orders the unit's
access after it, the thread is held. -/
def MatrixTakes (s : State) (i : Instr) (u : UnitOp) : Prop :=
  let v : UnitOp := { u with ring := s.myTile.ringNext }
  let due := s.tc s.cur.tile + matDuration u
  let ordered := (unitReach u).any fun a => s.fenceHolds a.1 a.2 || s.caddyHolds a.1 a.2
  (s.myTile.mq.length < 4 → s.myTile.ringKept = false → ordered = false → ∃ t, exec i s = .next t ∧ Issued s t true ∧
    t.myTile.mq = (if s.myTile.mq.isEmpty then [{ v with due := due }] else s.myTile.mq ++ [v]) ∧
    t.agenda.map (fun q => (q.due, q.ev)) = s.agenda.map (fun q => (q.due, q.ev)) ++
      (if s.myTile.mq.isEmpty then [(due, .matrixCompletion s.cur.tile)] else [])) ∧
  (4 ≤ s.myTile.mq.length ∨ ordered = true → exec i s = .next s.held)

/-- What a pointer's check at issue decides: its cells, or a trap. -/
def MatrixPointer (s : State) (i : Instr) (r : Except Why MatOperand) (u : MatOperand → UnitOp) : Prop :=
  (∀ m, r = .ok m → MatrixTakes s i (u m)) ∧ ∀ c v, r = .error (.trap c v) → Raises s i c v

end Sys2Proof.Claim

/-- A matrix instruction whose checks pass takes the next ring number, enters its unit's queue of four, and retires;
with a full queue its thread is held. Of a thread-redundant task one that names the trailing twin's registers
raises illegal-instruction. An operand of MMA, MLDB, MLDZ or MSTZ with a format or K that its rule does not
admit raises invalid-operand (0x0B), one on a path other than 1 to 3 path-invalid (0x08); one without scales,
256-byte aligned in a bank of the local store, has the bytes in a row there. MSTZ raises what the writer check
of its granules gives. MSUB and MPOST check their descriptor, then their ring or tile. (R45, R46, R259, R306,
R308, R380, R383, R388.) -/
def Obligations.MatrixIssue : Prop :=
    (∀ (s : State) (i : Instr), s.twinsReg i = false →
      ((∃ b z, i = .mzero b z) ∨ (∃ l x, i = .mrot l x) ∨ (∃ g z l, i = .mpois g z l) → MatrixTakes s i (unitOp s i)) ∧
      ((∃ x, i = .munsub x) ∨ (∃ x g, i = .mwait x g) → MatrixTakes s i (unitOp s i)) ∧
      (∀ z l a, i = .mma z l a → MatrixPointer s i (s.matOperand a .load (rowOk (s.me.getA a) true) 4096) fun m =>
        withOperand (unitOp s i) (s.me.getA a) (s.me.getA (a + 1)) m) ∧
      (∀ l a, i = .mldb l a →
        let p := s.me.getA a
        MatrixPointer s i (s.matOperand a .load (rowOk p true && (ptrK p = 0 ||
          scaleCount (32768 / eb p) (ptrK p) ≤ 512)) 4096) fun m => withOperand (unitOp s i) p (s.me.getA (a + 1)) m) ∧
      (∀ z a, i = .mldz z a →
        let p := s.me.getA a
        MatrixPointer s i (s.matOperand a .load (rowOk p false && ptrFmt p ≠ 12) (128 * eb p)) fun m =>
          withOperand (unitOp s i) p 0 m) ∧
      (∀ z a m, i = .mstz z a →
        let p := s.me.getA a
        s.matOperand a .store (ptrK p = 0 && (ptrFmt p = 8 || ptrFmt p = 9)) (128 * eb p) = .ok m →
        s.blockBusy m.cells = none →
        (s.capFail s.myTag (granulesOf m.cells) = none → MatrixTakes s i (withOperand (unitOp s i) p 0 m)) ∧
        (∀ c g, s.capFail s.myTag (granulesOf m.cells) = some (c, g) → Raises s i c (s.granAddr g)))) ∧
    (∀ (s : State) (i : Instr), s.twinsReg i = true →
      ((∃ b z, i = .mzero b z) ∨ (∃ l x, i = .mrot l x) ∨ (∃ g z l, i = .mpois g z l) ∨ (∃ z l a, i = .mma z l a) ∨
        (∃ l a, i = .mldb l a) ∨ (∃ z a, i = .mldz z a) ∨ (∃ z a, i = .mstz z a)) → Raises s i 0x02 (insnValue i)) ∧
    (∀ (s : State) (a : AReg) (kind : AccKind) (n : Nat),
      let p := s.me.getA a
      s.matOperand a kind false n = .error (.trap 0x0B p) ∧
      ([1, 2, 3].contains (ptrPath p) = false → s.matOperand a kind true n = .error (.trap 0x08 p)) ∧
      (∀ b, ptrK p = 0 → [1, 2, 3].contains (ptrPath p) = true → s.bankOf s.cur.tile (ptrPath p) = some b → 0 < n →
        ptrAddr p + n ≤ 2 ^ 22 - 2 ^ 12 → ptrAddr p % 256 = 0 →
        s.matOperand a kind true n = .ok { cells := (List.range n).map fun i => bankCell b (ptrAddr p) + i, scales := [] })) ∧
    (∀ (s : State) (i : Instr) (a : AReg) (g : GReg) (near near' : Bool) (ds cs : List Nat),
      (∃ x w, i = .msub x a g w) ∨ i = .mpost a g →
      let gs := s.g g
      let p := s.me.getA a
      (s.access [0, 1, 2, 3] .load gs true (ptrAddr gs) 64 64).get 64 = .ok (near, ds) →
      (s.access [1, 2, 3] .load p true (ptrAddr p) 1 256).get 1 = .ok (near', cs) →
      (ds.any isRemoteCell = false → MatrixTakes s i { unitOp s i with
          x0 := gs, x1 := if s.me.priv == .task then 1 else 0, ptr := p, cells := cs, scales := ds.take 1 }) ∧
      (ds.any isRemoteCell = true → Config.remoteRefuses s.frees = false → s.myTile.mq.length < 4 →
        s.myTile.ringKept = false → ∃ t, exec i s = .next t ∧ Issued s t true))

namespace Sys2Proof.Claim
/-- The head `u` of a unit's queue has ended in a ring state, and the rest of the queue goes on. -/
structure UnitDone (s t : State) (n : Nat) (u : UnitOp) (us : List UnitOp) (st : RingSt) : Prop where
  queue : (t.tile n).mq.map (fun v => (v.ring, v.insn)) = us.map fun v => (v.ring, v.insn)
  entry : (SMap.get RingEntry.zero (t.tile n).ring u.ring.toNat).st = st
  goes  : us ≠ [] → t.agenda.any (fun q => q.ev == .matrixCompletion n) = true

/-- The head `u` of a unit's queue has met a late fault (R259 to R262): its thread, live and without one, keeps it
with cause, value and ring number, and the thread's later instructions are cancelled; no other thread changes. -/
structure LateRaised (s t : State) (n : Nat) (u : UnitOp) (us : List UnitOp) (cause : Nat) (tval : Word) : Prop where
  late   : (t.thread { tile := n, slot := u.slot }).late = some { cause := BitVec.ofNat 7 cause, tval := tval, ring := u.ring }
  entry  : (SMap.get RingEntry.zero (t.tile n).ring u.ring.toNat).st = .faulted
  cut    : ∀ v ∈ us, v.slot = u.slot → v.ring ≠ u.ring →
    (SMap.get RingEntry.zero (t.tile n).ring v.ring.toNat).st = .cancelled ∧ ∀ w ∈ (t.tile n).mq, w.ring = v.ring → w.slot ≠ u.slot
  others : ∀ y, y ≠ { tile := n, slot := u.slot } → t.thread y = s.thread y
  regs   : SameRegs (t.thread { tile := n, slot := u.slot }) (s.thread { tile := n, slot := u.slot })

/-- The thread of `u` can take a late fault: it is live, holds none, and no handler of its level runs. -/
def MayLate (s : State) (n : Nat) (u : UnitOp) : Prop :=
  let th := s.thread { tile := n, slot := u.slot }
  u.slot < 16 ∧ th.st ≠ .free ∧ th.st ≠ .stopped ∧ th.late = none ∧ (th.bank (trapTarget false th.priv)).nest = false

end Sys2Proof.Claim

/-- When the head of a tile's queue is due: MZERO leaves a zero accumulator of its format; MLDB and MLDZ of clean
bytes leave the image, MLDZ widened and without a flag; MSTZ stores the accumulator's bytes; MPOIS returns the
marks; MMA of a matching row adds the products in the group order of R217 and ORs its flags; of a mismatch it
raises invalid-operand late, of a marked source poisoned-source. MROT sends its latch to the ring neighbour,
takes the one that arrives, and after 2^20 tile cycles raises rotation-lost and zeroes the latch. A late fault
is delivered with LATE, SEQ and the handler's entry, or kept pending while a handler runs. (R217, R221, R238,
R259, R260, R262, R264, R381, R382, R383, R384, R390.) -/
def Obligations.MatrixResults : Prop :=
    (∀ (s : State) (n : Nat) (u : UnitOp) (us : List UnitOp), (s.tile n).mq = u :: us →
      (s.tc n < u.due → exec (.matrixCompletion n) s = .next s) ∧
      (u.due ≤ s.tc n →
        let base := u.cells.headD 0
        let ends_ (P : State → Prop) : Prop := ∃ t, exec (.matrixCompletion n) s = .next t ∧ P t
        (∀ b z, u.insn = .mzero b z → ends_ fun t => UnitDone s t n u us .done ∧
          (t.tile n).z[z] = { Acc.zero with fp64 := !b } ∧ (∀ w, w ≠ z → (t.tile n).z[w] = (s.tile n).z[w]) ∧
          (∀ y, t.thread y = s.thread y) ∧ ∀ c, t.byte c = s.byte c) ∧
        (∀ l a, u.insn = .mldb l a → s.struckLoad u 4096 = none → ends_ fun t => UnitDone s t n u us .done ∧
          (t.tile n).l[l].fmt = ptrFmt u.ptr ∧ (t.tile n).l[l].klog = ptrK u.ptr ∧ (t.tile n).l[l].pois = false ∧
          (∀ i, i < 4096 → bits (t.tile n).l[l].data (8 * i + 7) (8 * i) = (s.byte (base + i)).toNat) ∧
          ∀ c, t.byte c = s.byte c) ∧
        (∀ z a, u.insn = .mldz z a → s.struckLoad u (128 * eb u.ptr) = none →
          ends_ fun t => UnitDone s t n u us .done ∧ (t.tile n).z[z].pois = false ∧
            ((t.tile n).z[z].fp64 = true ↔ ptrFmt u.ptr = 8) ∧
            (ptrFmt u.ptr = 8 ∨ ptrFmt u.ptr = 9 → ∀ i, i < 128 * eb u.ptr →
              bits (t.tile n).z[z].data (8 * i + 7) (8 * i) = (s.byte (base + i)).toNat) ∧
            (t.tile n).z[z].data = BitVec.ofNat 65536 (widenImage (ptrFmt u.ptr) (s.readN base (128 * eb u.ptr))) ∧
            (∀ y, t.thread y = s.thread y) ∧ ∀ c, t.byte c = s.byte c) ∧
        (∀ z a, u.insn = .mstz z a → ((s.tile n).z[z].fp64 = true ↔ ptrFmt u.ptr = 8) → (s.tile n).z[z].pois = false →
          Clean s → Here (cellsFrom base (128 * eb u.ptr)) → ends_ fun t => UnitDone s t n u us .done ∧
            (∀ i, i < 128 * eb u.ptr → (t.byte (base + i)).toNat = bits (s.tile n).z[z].data (8 * i + 7) (8 * i)) ∧
            (∀ c, c < base ∨ base + 128 * eb u.ptr ≤ c → t.byte c = s.byte c) ∧
            ∀ y, SameRegs (t.thread y) (s.thread y)) ∧
        (∀ g z l, u.insn = .mpois g z l → u.slot < 16 → ends_ fun t => UnitDone s t n u us .done ∧
          SameRegs (t.thread { tile := n, slot := u.slot })
            ((s.thread { tile := n, slot := u.slot }).setG g (poisWord (s.tile n).z[z] (s.tile n).l[l])) ∧
          ∀ y, y ≠ { tile := n, slot := u.slot } → t.thread y = s.thread y) ∧
        (∀ z l a r rl, u.insn = .mma z l a → mmaRow (ptrFmt u.ptr) = some r → mmaRow (s.tile n).l[l].fmt = some rl →
          let acc := (s.tile n).z[z]
          let lat := (s.tile n).l[l]
          let fits : Prop := r.no = rl.no ∧ (r.no = 3 ∨ lat.fmt = ptrFmt u.ptr) ∧ acc.fp64 = r.fp64
          (fits → acc.pois = false → lat.pois = false → s.struckGroup u r = none → ptrK u.ptr = 0 → lat.klog = 0 →
            u.slot < 16 → ends_ fun t => UnitDone s t n u us .done ∧
              let res := mmaRun r r.groups acc.data.toNat (imageVals (ptrFmt u.ptr) (s.readN base 4096) (32 * r.k) none)
                (imageVals lat.fmt lat.data.toNat (32 * r.k) none)
              (t.tile n).z[z] = { acc with data := BitVec.ofNat 65536 res.1, pois := false } ∧
              t.thread { tile := n, slot := u.slot } = (s.thread { tile := n, slot := u.slot }).raise res.2 ∧
              (∀ y, y ≠ { tile := n, slot := u.slot } → t.thread y = s.thread y) ∧ ∀ c, t.byte c = s.byte c) ∧
          (¬ fits → MayLate s n u → ends_ fun t => LateRaised s t n u us 0x0B u.ptr ∧ (t.tile n).z = (s.tile n).z) ∧
          (fits → acc.pois = true ∨ lat.pois = true → MayLate s n u →
            ends_ fun t => LateRaised s t n u us 0x31 0 ∧ (t.tile n).z = (s.tile n).z)) ∧
        (∀ l x, u.insn = .mrot l x → u.sent = false →
          let nb := s.ringNext n (axisNo x)
          (nb = n → ends_ fun t => UnitDone s t n u us .done ∧ (t.tile n).l = (s.tile n).l) ∧
          (nb ≠ n → (s.tile nb).rotSkip.contains (axisNo x) = false → ends_ fun t =>
            (t.tile nb).rotIn = (s.tile nb).rotIn ++ [{ axis := axisNo x, at_ := s.tc nb + rotTc (axisNo x), latch := (s.tile n).l[l] }] ∧
            ((t.tile n).mq.headD u).sent = true ∧ t.agenda.any (fun q => q.ev == .mrotExchange n) = true ∧
            t.agenda.any (fun q => q.ev == .rotationLost n && q.due == s.tc n + 2 ^ 20) = true)))) ∧
    (∀ (s : State) (n : Nat) (u : UnitOp) (us : List UnitOp) (l : LReg) (x : Axis), (s.tile n).mq = u :: us →
      u.insn = .mrot l x → u.sent = true →
      (∀ c, (s.tile n).rotIn.find? (fun c => c.axis = axisNo x) = some c → c.at_ ≤ s.tc n →
        u.due + rotTc (axisNo x) ≤ s.tc n → ∃ t, exec (.mrotExchange n) s = .next t ∧ UnitDone s t n u us .done ∧
          (t.tile n).l[l] = c.latch ∧ (t.tile n).rotIn.length + 1 = (s.tile n).rotIn.length ∧
          (∀ y, t.thread y = s.thread y)) ∧
      (u.due + 2 ^ 20 ≤ s.tc n → MayLate s n u → ∃ t, exec (.rotationLost n) s = .next t ∧
        LateRaised s t n u us 0x32 (BitVec.ofNat 64 (axisNo x)) ∧ (t.tile n).l[l] = Latch.zero) ∧
      (s.tc n < u.due + 2 ^ 20 → exec (.rotationLost n) s = .next s)) ∧
    (∀ (s : State) (x : ThreadId), Clean s →
      ((s.thread x).late = none → exec (.lateFaultDelivery x) s = .next s) ∧
      (∀ f, (s.thread x).late = some f →
        let h := trapTarget false (s.thread x).priv
        (((s.thread x).bank h).nest = true → ∃ t, exec (.lateFaultDelivery x) s = .next t ∧ (t.thread x).late = some f ∧
          ((t.thread x).bank h).pend = true ∧ (t.thread x).pc = (s.thread x).pc ∧ OnlyThread s t x) ∧
        (s.trapReady x h = true → ∃ t, exec (.lateFaultDelivery x) s = .next t ∧ (t.thread x).late = none ∧
          (t.thread x).priv = h ∧ (t.thread x).pc.toNat = bits (s.trapBase x h) 50 2 * 4 ∧
          (t.thread x).bank h = { (s.thread x).bank h with
            epc := alignPc (s.thread x).pc, code := f.cause, late := true, tval := f.tval, ppriv := (s.thread x).priv, nest := true, pend := false, seq := f.ring, seqV := true } ∧
          (t.thread x).g = (s.thread x).g ∧ (t.thread x).a = (s.thread x).a ∧ (t.thread x).v = (s.thread x).v ∧
          (∀ y, y ≠ x → t.thread y = s.thread y) ∧ ∀ c, t.byte c = s.byte c)))

/-- A valid descriptor that no active stream has opens one with its TSIZE, NSUB and NTILE. MSUB of a free
subscription whose ring passes its checks joins. MPOST becomes the stream's publisher and waits for admission;
once every subscriber has joined and has room its bytes travel to every subscriber with the stream's next
number. A delivery in sequence writes its bytes, and the poison of its lines, in its ring slot; one to a freed
ring is dropped. MWAIT gives the pointer of the next tile once it has arrived, and 0 after the last. MUNSUB
frees the subscription. (R236, R237, R388, R389.) -/
def Obligations.StreamsRun : Prop :=
    (∀ (s : State) (p : Nat) (u : UnitOp) (root : Tag),
      let c := u.scales.headD 0
      let d := s.read64 c
      (∀ st, s.stream? p c = some st → s.openStream p u root = .ok (s, st)) ∧
      (s.stream? p c = none → bits d 15 0 % 256 = 0 → 256 ≤ bits d 15 0 → bits d 15 0 ≤ 8192 → 1 ≤ bits d 22 16 →
        bits d 22 16 ≤ 64 → bits d 23 23 = 0 → bits d 63 48 = 0 → (∀ i, 8 ≤ i → i < 64 → s.byte (c + i) = 0) →
        ((s.part p).streams.filter fun st => !st.broken).length < 64 →
        isRemoteCell c = false → s.poisoned (cellsFrom c 64) = false →
        ∃ v st, s.openStream p u root = .ok (v, st) ∧ v.stream? p c = some st ∧ st.tsize = bits d 15 0 ∧
          st.nsub = bits d 22 16 ∧ st.ntile = bits d 47 24 ∧ st.next = 0 ∧ st.joins = 0 ∧ st.broken = false ∧
          (∀ m, v.tile m = s.tile m) ∧ ∀ b, v.byte b = s.byte b)) ∧
    (∀ (s v : State) (n : Nat) (u : UnitOp) (us : List UnitOp) (st : Stream), (s.tile n).mq = u :: us → u.due ≤ s.tc n →
      let p := (s.partOfTile n).getD 0
      let tag := s.tagOf { tile := n, slot := u.slot }
      let base := u.cells.headD 0
      s.openStream p u (s.rootTag tag) = .ok (v, st) → st.broken = false →
      (∀ x a g w, u.insn = .msub x a g w →
        (((s.tile n).sub x).on = false → st.subs.length < st.nsub → ptrAddr u.ptr % st.tsize = 0 →
          ptrAddr u.ptr + w.toNat * st.tsize ≤ 2 ^ 22 →
          s.capFail tag (granulesOf ((List.range ((w.toNat * st.tsize + 4095) / 4096 + 1)).map fun i =>
            Nat.min (base + i * 4096) (base + w.toNat * st.tsize - 1))) = none →
          ∃ t, exec (.matrixCompletion n) s = .next t ∧ UnitDone s t n u us .done ∧
            (t.tile n).sub x = { on := true, stream := st.desc, path := ptrPath u.ptr, ring := ptrAddr u.ptr, w := w.toNat, tsize := st.tsize, ntile := st.ntile, arrived := st.next, given := st.next, released := st.next } ∧
            (∀ y, t.thread y = s.thread y) ∧ ∀ c, t.byte c = s.byte c) ∧
        (((s.tile n).sub x).on = true → MayLate s n u → ∃ t, exec (.matrixCompletion n) s = .next t ∧
          LateRaised s t n u us 0x0B u.x0)) ∧
      (∀ a g, u.insn = .mpost a g → postBad st tag u = false → postInLog st u = false →
        ∃ t, exec (.matrixCompletion n) s = .next t ∧ (t.stream? p st.desc).map (·.pub) = (v.stream? p st.desc).map (fun _ => some tag) ∧
          t.agenda.any (fun q => q.ev == .infuserPostAdmit n) = true ∧ (t.tile n).mq = u :: us ∧
          ∀ y, t.thread y = s.thread y)) ∧
    (∀ (s : State) (n : Nat) (u : UnitOp) (us : List UnitOp) (st : Stream) (a : AReg) (g : GReg),
      (s.tile n).mq = u :: us → u.insn = .mpost a g →
      let p := (s.partOfTile n).getD 0
      s.stream? p (u.scales.headD 0) = some st → st.broken = false →
      st.pub = some (s.tagOf { tile := n, slot := u.slot }) →
      (s.postReady st = false → exec (.infuserPostAdmit n) s = .next s) ∧
      (s.postReady st = true → ∃ t, exec (.infuserPostAdmit n) s = .next t ∧ UnitDone s t n u us .done ∧
        t.deliveries.map (fun d => (d.tile, d.sub, d.n, d.data)) = s.deliveries.map (fun d => (d.tile, d.sub, d.n, d.data)) ++
          st.subs.map (fun b => (b.1, b.2, st.next, s.readBytes (cellsFrom (u.cells.headD 0) st.tsize))) ∧
        (t.stream? p st.desc).map (·.next) = some (st.next + 1) ∧ ∀ c, t.byte c = s.byte c)) ∧
    (∀ (s : State) (id : Nat) (d : Delivery), s.deliveries.find? (fun d => d.id = id) = some d →
      let b := (s.tile d.tile).sub d.sub
      (b.on = false → exec (.streamTileDelivery id) s = .next { s with deliveries := s.deliveries.filter fun x => x.id ≠ id }) ∧
      (∀ bank, b.on = true → b.stream = d.desc →
        (∀ st, s.stream? ((s.partOfTile d.tile).getD 0) d.desc = some st → st.broken = false) → d.n = b.arrived →
        s.bankFor d.tile b.path = some bank →
        ∃ t, exec (.streamTileDelivery id) s = .next t ∧ ((t.tile d.tile).sub d.sub).arrived = d.n + 1 ∧
          (∀ x ∈ t.deliveries, x.id ≠ id) ∧
          let base := bankCell bank (b.ring + d.n % Nat.max 1 b.w * b.tsize)
          (∀ i ∈ d.pois, ∀ k, k < 32 → SMap.get false t.pois ((base + 256 * i + 8 * k) / 8) = true) ∧
          ∀ c, t.byte c = written s.byte ((cellsFrom base b.tsize).zip d.data) c)) ∧
    (∀ (s : State) (n : Nat) (u : UnitOp) (us : List UnitOp), (s.tile n).mq = u :: us → u.due ≤ s.tc n → u.slot < 16 →
      let p := (s.partOfTile n).getD 0
      let x0 : ThreadId := { tile := n, slot := u.slot }
      (∀ x g, u.insn = .mwait x g → ((s.tile n).sub x).on = true →
        (∀ st, s.stream? p ((s.tile n).sub x).stream = some st → st.broken = false) →
        let b := (s.tile n).sub x
        let rel := if u.sent then b.released else b.given
        (b.given < b.arrived → ∃ t, exec (.matrixCompletion n) s = .next t ∧ UnitDone s t n u us .done ∧
          SameRegs (t.thread x0) ((s.thread x0).setG g (mkPtr b.path (b.ring + b.given % Nat.max 1 b.w * b.tsize))) ∧
          ((t.tile n).sub x).given = b.given + 1 ∧ ((t.tile n).sub x).released = rel) ∧
        (b.arrived ≤ b.given → b.ntile ≠ 0 → b.ntile ≤ rel → ∃ t, exec (.matrixCompletion n) s = .next t ∧
          UnitDone s t n u us .done ∧ SameRegs (t.thread x0) ((s.thread x0).setG g 0)) ∧
        (b.arrived ≤ b.given → b.ntile = 0 ∨ rel < b.ntile → ∃ t, exec (.matrixCompletion n) s = .next t ∧
          (t.tile n).mq.map (·.insn) = (s.tile n).mq.map (·.insn) ∧ ∀ y, t.thread y = s.thread y)) ∧
      (∀ x, u.insn = .munsub x → ((s.tile n).sub x).on = true →
        (∀ st, s.stream? p ((s.tile n).sub x).stream = some st → st.broken = false) →
        ∃ t, exec (.matrixCompletion n) s = .next t ∧ UnitDone s t n u us .done ∧ (t.tile n).sub x = Sub.zero ∧
          (∀ y, t.thread y = s.thread y) ∧ ∀ c, t.byte c = s.byte c))

/-- A COLL whose block and buffers pass their checks joins a collective and retires; a reserved block raises
invalid-operand (0x0B). COLLWAIT is held while the collective of its block is in flight and then returns that
collective's completion word, with none in flight the one that the block names (assumption 56). A collective
whose ranks have all joined writes 1 in every completion word and is gone, one with ranks on another device once
those have; one with disagreeing descriptors writes 3. A KCMD that passes its checks enters its unit's queue and
returns 0, with sixteen queued 1; KFENCE waits for the task's commands accepted before it; KSTAT returns the
unit's report. A command starts 200 tile cycles after it becomes the oldest, updates each line of its elements,
skips a poisoned line and sets its MAP bit, and writes its status dword at block + 16; one that an Avalanche
killed ends without it. (R240, R241, R242, R320, R321, R322, R354, R355, R356, R369, R371, R372.) -/
def Obligations.CollectivesAndKettles : Prop :=
    (∀ (s : State) (a : AReg) (near : Bool) (bc : List Nat), Clean s →
      let p := s.me.getA a
      let ds := dwordsOf 8 (s.readBytes bc)
      (s.access [0, 1, 2, 3] .load p true (ptrAddr p) 64 64).get 64 = .ok (near, bc) → bc.any isRemoteCell = false →
      s.nowHolds (ptrPath p) bc = false → s.poisoned bc = false →
      (cbBad ds = true → Raises s (.coll a) 0x0B p) ∧
      (∀ done pl b v, cbBad ds = false → s.collChecks p ds = .ok (done, pl, b, v) → b.src.any b.dst.contains = false →
        s.capFail s.myTag (granulesOf ((b.dst ++ [done]).filter fun c => !isRemoteCell c)) = none → s.dieCopy = false →
        v.releaseAt .fab = none → s.collsOfTile s.myPart s.cur.tile < 8 →
        ∃ t, exec (.coll a) s = .next t ∧ t.me = s.me.retireTo (next4 s) (s.counts? s.cur) ∧
          (∀ y, y ≠ s.cur → t.thread y = s.thread y) ∧ (∀ c, t.byte c = s.byte c) ∧
          ∃ c ∈ (t.part s.myPart).colls, ∃ q ∈ c.parts, q.tid = s.cur ∧ q.block = bc.headD 0 ∧
            q.rank = bits (ds.getD 0 0) 35 24 ∧ q.done = done ∧ q.src = b.src ∧ q.dst = b.dst ∧ t.agenda.any (fun e => e.ev == .collCompletion c.id) = true)) ∧
    (∀ (s : State) (d : GReg) (a : AReg) (near : Bool) (bc : List Nat), Clean s →
      let p := s.me.getA a
      (s.access [0, 1, 2, 3] .load p true (ptrAddr p) 64 64).get 64 = .ok (near, bc) →
      let own (q : CollPart) : Bool := q.tag == s.myTag && q.block == bc.headD 0
      let flying := (s.part s.myPart).colls.findSome? fun x => x.parts.find? own
      (∀ q, flying = some q → ∃ t, exec (.collwait d a) s = .next t ∧ Waits s t .held ∧ OnlyThread s t s.cur ∧
        t.me.outcome = some (BitVec.ofNat 64 q.done)) ∧
      (∀ v, flying = none → s.me.outcome = some v → s.nowHolds 0 (cellsFrom v.toNat 8) = false →
        (cellsFrom v.toNat 8).any isRemoteCell = false → s.poisoned (cellsFrom v.toNat 8) = false →
        ∃ t, exec (.collwait d a) s = .next t ∧ Retires s t (s.me.setG d (s.read64 v.toNat)) (next4 s)) ∧
      (∀ near' dc, flying = none → s.me.outcome = none → bc.any isRemoteCell = false → s.nowHolds (ptrPath p) bc = false →
        s.poisoned bc = false →
        let at_ := bits (s.read64 (bc.headD 0 + 40)) 50 0
        (s.access [0] .store (mkPtr 0 at_) true at_ 8 8).get 8 = .ok (near', dc) → dc.any isRemoteCell = false →
        s.nowHolds 0 dc = false → s.poisoned dc = false →
        ∃ t, exec (.collwait d a) s = .next t ∧ Retires s t (s.me.setG d (s.read64 (dc.headD 0))) (next4 s))) ∧
    (∀ (s : State) (id n : Nat) (c : Collective), Clean s →
      (List.range 8).findSome? (fun n => ((s.part n).colls.find? fun c => c.id = id).map fun c => (n, c)) = some (n, c) →
      (∀ q ∈ c.parts, Here (q.dst.filter fun x => !isRemoteCell x) ∧ Here (cellsFrom q.done 8)) →
      let here := (List.range c.plist.length).filter fun r => bits (c.plist.getD r 0) 31 16 == s.floor.device
      let all : Bool := here.all fun r => c.parts.any fun q => q.rank == r
      let apart (q : CollPart) : Prop := ∀ q' ∈ c.parts, q'.done = q.done ∨ q'.done + 8 ≤ q.done ∨ q.done + 8 ≤ q'.done
      (c.status = 0 → all = false → exec (.collCompletion id) s = .next s) ∧
      (c.status = 0 → all = true → here.length < c.plist.length → ∃ t, exec (.collCompletion id) s = .next t ∧
        ((∃ x ∈ (t.part n).colls, x.id = id) ∨ ∀ q ∈ c.parts, apart q → t.read64 q.done = 1)) ∧
      (c.status = 0 → all = true → here.length = c.plist.length → ∃ t, exec (.collCompletion id) s = .next t ∧ (∀ x ∈ (t.part n).colls, x.id ≠ id) ∧
        (∀ q ∈ c.parts, apart q → t.read64 q.done = 1) ∧
        (∀ x, (∀ q ∈ c.parts, x ∉ q.dst ∧ (x < q.done ∨ q.done + 8 ≤ x)) → t.byte x = s.byte x) ∧
        (∀ q, c.parts = [q] → ∀ x, t.byte x = written s.byte
          (((q.dst.zip ((s.collResult [q] q.rank).flatMap fun e =>
              bytesOfNat ((vfmtOf (bits q.d0 11 8)).width / 8) e.1)).filter fun w => !isRemoteCell w.1) ++ wordAt q.done 1) x)) ∧
      (c.status = 3 → ∃ t, exec (.collCompletion id) s = .next t ∧
        (∀ q ∈ c.parts, q.rank ∉ c.gone → apart q → t.read64 q.done = 3) ∧
        ∀ x, (∀ q ∈ c.parts, x < q.done ∨ q.done + 8 ≤ x) → t.byte x = s.byte x)) ∧
    (∀ (s : State) (d : GReg) (a : AReg) (r : GReg) (g : Grid) (near near' : Bool) (bc cs : List Nat) (u : Nat), Clean s →
      let p := s.me.getA a
      let q := s.g r
      let ds := dwordsOf 8 (s.readBytes bc)
      let base := cs.headD 0
      (ptrPath p ≠ 6 → Raises s (.kcmd d a r) 0x08 p) ∧
      (ptrPath p = 6 → ptrPath q ≤ 3 → kGrid (ptrFmt p) = some g → ptrK p = 0 → ptrAddr p % (g.width / 8) = 0 →
        ptrAddr q % 64 = 0 → (s.access [0, 1, 2, 3] .atomic q true (ptrAddr q) 64 64).get 64 = .ok (near, bc) →
        bc.any isRemoteCell = false → s.poisoned bc = false →
        (kBad g ds (ptrAddr p) = true → Raises s (.kcmd d a r) 0x0B q) ∧
        (kBad g ds (ptrAddr p) = false →
          (let n := bits (ds.getD 0 0) 31 8 * (g.width / 8)
           (s.access [6] .atomic p true (ptrAddr p) n (g.width / 8)).get n = .ok (near', cs)) → base < 2 ^ 63 →
          s.serving (kettleOf base) = some u → s.capFail s.myTag [base / 4096, cellGranule (bc.headD 0)] = none →
          s.dieCopy = false → s.dirtyLacks (ptrAddr p :: (if near then [] else [ptrAddr q])) = false →
          s.mustHold 6 cs = false → s.mustHold (ptrPath q) bc = false →
          (16 ≤ (s.kettle u).queue.length → ∃ t, exec (.kcmd d a r) s = .next t ∧
            Retires s t (s.me.setG d 1) (next4 s)) ∧
          ((s.kettle u).queue.length < 16 → s.release = none → ∃ t c, exec (.kcmd d a r) s = .next t ∧
            SameRegs t.me (s.me.setG d 0) ∧ t.me.pc = next4 s ∧ (t.kettle u).queue = (s.kettle u).queue ++ [c] ∧
            c.block = bc.headD 0 ∧ c.d0 = ds.getD 0 0 ∧ c.fact = ds.getD 1 0 ∧ c.fmt = ptrFmt p ∧ c.base = base ∧
            c.line = base / 256 % 16 ∧ c.map = 0 ∧ c.tag = s.myTag ∧ c.ord = s.nextId ∧ t.nextId = s.nextId + 1 ∧
            t.agenda.any (fun e => e.ev == .kettleCommandStart u) = true)))) ∧
    (∀ s : State,
      let mark := s.me.kmark.getD s.nextId
      let mine : Bool := s.kettles.any fun e => e.2.queue.any fun k => k.tag == s.myTag && decide (k.ord < mark)
      (mine = true → ∃ t, exec .kfence s = .next t ∧ Waits s t .held ∧ OnlyThread s t s.cur ∧ t.me.kmark = some mark) ∧
      (mine = false → s.release = none → ∃ t, exec .kfence s = .next t ∧ Retires s t { s.me with kmark := none } (next4 s))) ∧
    (∀ (s : State) (d : GReg) (a : AReg) (near : Bool) (cs : List Nat) (u : Nat),
      let p := s.me.getA a
      (s.access [0, 6] .load p true (ptrAddr p) 1 1).get 1 = .ok (near, cs) → cs.headD 0 < 2 ^ 63 →
      s.serving (kettleOf (cs.headD 0)) = some u → ∃ t, exec (.kstat d a) s = .next t ∧
        Retires s t (s.me.setG d (s.kstatWord (kettleOf (cs.headD 0)) u)) (next4 s)) ∧
    (∀ (s : State) (u : Nat) (c : KCommand) (cs : List KCommand), Clean s → (s.kettle u).queue = c :: cs →
      (c.active = false → ∃ t, exec (.kettleCommandStart u) s = .next t ∧
        (t.kettle u).queue = { c with active := true } :: cs ∧
        t.agenda.any (fun e => e.ev == .kettleLine u && e.due == s.now + 200) = true) ∧
      (c.active = true → c.lost = false → c.killed = false →
        let line := c.base / 4096 * 4096 + c.line * 256
        let b := ((kGrid c.fmt).getD gFp64).width / 8
        let more : Prop := c.line < kLastLine c
        let goes (t : State) : Prop :=
          (more → t.agenda.any (fun e => e.ev == .kettleLine u) = true ∧
            (t.kettle u).queue.map (·.line) = (c.line + 1) :: cs.map (·.line)) ∧
          (¬ more → t.agenda.any (fun e => e.ev == .kettleCommandComplete u) = true ∧
            (t.kettle u).queue.map (·.line) = c.line :: cs.map (·.line))
        Here (cellsFrom line 256) →
        (s.poisoned (cellsFrom line 256) = false → ∃ t, exec (.kettleLine u) s = .next t ∧ goes t ∧
          ∀ x, t.byte x = written s.byte ((kLineCells c c.line).flatMap fun e =>
            (cellsFrom e b).zip (bytesOfNat b (kElem (bits c.d0 7 0) ((kGrid c.fmt).getD gFp64) c.fact.toNat (s.readN e b)).1)) x) ∧
        (s.poisoned (cellsFrom line 256) = true → ∃ t, exec (.kettleLine u) s = .next t ∧ goes t ∧
          ((t.kettle u).queue.map (·.map)).head? = some (setBit c.map c.line true) ∧ ∀ x, t.byte x = s.byte x)) ∧
      (c.active = true → c.killed = true → ∃ t, exec (.kettleCommandComplete u) s = .next t ∧ (t.kettle u).queue = cs ∧
        ∀ x, t.byte x = s.byte x) ∧
      (c.active = true → c.killed = false → Here (cellsFrom (c.block + 16) 8) → ∃ t, exec (.kettleCommandComplete u) s = .next t ∧
        (t.kettle u).queue = cs ∧ (∀ x, t.byte x = written s.byte (wordAt (c.block + 16) (BitVec.ofNat 64 (kStatus c))) x) ∧
        (cs ≠ [] → t.agenda.any (fun e => e.ev == .kettleCommandStart u) = true)))

/-- An uncorrectable error in an HBM word or in a word of a protected bank granule poisons it and changes no byte;
one in a TLB empties it; one in a register bank stops the thread. Events of a structure are counted: the first
opens a window of 2^30 tile cycles, the third within it decides a retirement; a window that lapses counts none.
The scrubber changes no byte and no mark. The oldest record that has room, its notice too, is written as four
dwords at CTNH of its ring, CTNH advancing by one. CTNDONE frees the answered record; KILL begins the Avalanche
of the context that awaited it, CONTINUE changes nothing else while its control thread runs, and RERUN takes its
task out. (R154, R266, R267, R268, R269, R270, R274.) -/
def Obligations.ErrorsCounted : Prop :=
    (∀ (s : State) (cell : Nat), Clean s →
      (cell < hbmSize ∨ (2 ^ 63 ≤ cell ∧ cell < 2 ^ 64 ∧ SMap.get 0 s.gmode (cellGranule cell) ≠ 2) →
        ∃ t, exec (.uncorrectableError (.word cell)) s = .next t ∧ SMap.get false t.pois (cell / 8) = true ∧
          (∀ w, w ≠ cell / 8 → SMap.get false t.pois w = SMap.get false s.pois w) ∧ ∀ c, t.byte c = s.byte c) ∧
      (2 ^ 63 ≤ cell → cell < 2 ^ 64 → SMap.get 0 s.gmode (cellGranule cell) = 2 →
        ∃ t, exec (.uncorrectableError (.word cell)) s = .next t ∧
          ∀ c, c / 8 ≠ cell / 8 → t.byte c = s.byte c)) ∧
    (∀ (s : State) (m : Nat), ∃ t, exec (.uncorrectableError (.tlb m)) s = .next t ∧ (t.tile m).itlb = [] ∧
      (t.tile m).dtlb = [] ∧ ∀ c, t.byte c = s.byte c) ∧
    (∀ (s : State) (x : ThreadId), Clean s → (s.thread x).st ≠ .free →
      ∃ t, exec (.uncorrectableError (.registerBank x)) s = .next t ∧ (t.thread x).st = .stopped ∧
        (t.thread x).pc = (s.thread x).pc ∧ (t.thread x).g = Thread.zero.g ∧ ∀ c, t.byte c = s.byte c) ∧
    (∀ (s : State) (l : Nat),
      let n := SMap.get 0 s.floor.linkErrs l + 1
      (n ≤ Config.linkThreshold s.frees → ∃ t, exec (.correctableError (.link l)) s = .next t ∧
        SMap.get 0 t.floor.linkErrs l = n ∧ t.agenda = s.agenda ∧ ∀ y, t.thread y = s.thread y) ∧
      (Config.linkThreshold s.frees < n → ∃ t, exec (.correctableError (.link l)) s = .next t ∧
        SMap.get 0 t.floor.linkErrs l = 0 ∧ t.agenda.any (fun q => q.ev == .linkRetrain l) = true)) ∧
    (∀ (s : State) (u : Unit_), Clean s → (∀ l, u ≠ .link l) →
      (s.eventsHeld u = 0 → ∃ t, exec (.correctableError u) s = .next t ∧ t.counter u = { count := 1, start := s.unitTc u } ∧
        t.agenda.any (fun q => q.ev == .faultWindowLapse u && q.due == s.unitTc u + 2 ^ 30) = true ∧
        ∀ y, t.thread y = s.thread y) ∧
      (s.eventsHeld u = 1 → ∃ t, exec (.correctableError u) s = .next t ∧ (t.counter u).count = 2 ∧
        t.floor.retireQ = s.floor.retireQ ∧ ∀ y, t.thread y = s.thread y) ∧
      (s.eventsHeld u = 2 → ∃ t, exec (.correctableError u) s = .next t ∧ (t.counter u).count = 0 ∧
        t.floor.retireQ = s.floor.retireQ ++ [u] ∧ ∀ c, t.byte c = s.byte c)) ∧
    (∀ (s : State) (u : Unit_),
      ((s.counter u).count ≠ 0 → 2 ^ 30 ≤ s.unitTc u - (s.counter u).start → ∃ t, exec (.faultWindowLapse u) s = .next t ∧
        t.counter u = EventCount.zero ∧ t.eventsHeld u = 0 ∧ (∀ v, unitKey v ≠ unitKey u → t.counter v = s.counter v)) ∧
      ((s.counter u).count = 0 ∨ s.unitTc u - (s.counter u).start < 2 ^ 30 → exec (.faultWindowLapse u) s = .next s)) ∧
    (∀ (s : State) (m l : Nat), ∃ t, exec (.scrubLine m l) s = .next t ∧ (∀ c, t.byte c = s.byte c) ∧
      (∀ w, SMap.get false t.pois w = SMap.get false s.pois w) ∧ (∀ w, SMap.get [] t.poisTag w = SMap.get [] s.poisTag w) ∧
      ∀ y, t.thread y = s.thread y) ∧
    (∀ (s : State) (r : CtnRec), Clean s →
      let p := s.part r.part
      let at_ := bits p.ctnb 50 12 * 4096 + p.ctnHead % 2 ^ (bits p.ctnb 55 51 + 6) * 32
      (s.floor.ctnWait.find? (fun r => s.ctnRoom r.part && s.noticeRoom r.part) = some r → Here (cellsFrom at_ 32) →
        ∃ t, exec .containmentRecordWrite s = .next t ∧ (t.part r.part).ctnHead = (p.ctnHead + 1) % 2 ^ 32 ∧
          (t.part r.part).ctnRecs = p.ctnRecs ++ [r] ∧ t.floor.ctnWait.length + 1 = s.floor.ctnWait.length ∧
          (∀ y, SameRegs (t.thread y) (s.thread y)) ∧
          ∀ c, t.byte c = written s.byte (wordAt at_ r.d0 ++ wordAt (at_ + 8) r.d1 ++ wordAt (at_ + 16) r.d2 ++
            wordAt (at_ + 24) r.d3) c) ∧
      (s.floor.ctnWait.find? (fun r => s.ctnRoom r.part && s.noticeRoom r.part) = none → exec .containmentRecordWrite s = .next s)) ∧
    (∀ (s : State) (i : Nat), Clean s →
      let a := s.answerRecord s.myPart i
      (∀ r rest, (s.part s.myPart).ctnRecs = r :: rest → r.answered = false → i < 2 ^ 32 → (s.part s.myPart).ctnHead < 2 ^ 32 →
        rest.length < 2 ^ 31 → i = ((s.part s.myPart).ctnHead + 2 ^ 32 - (rest.length + 1)) % 2 ^ 32 →
        (a.1.part s.myPart).ctnRecs = rest.dropWhile (·.answered)) ∧
      (a.2 = none → exec (.ctndoneContinue i) s = .next a.1 ∧ exec (.ctndoneRerun i) s = .next a.1 ∧
        exec (.ctndoneKill i) s = .next a.1) ∧
      (∀ tag, a.2 = some tag →
        (∃ t, exec (.ctndoneKill i) s = .next t ∧ (t.ctx tag).dying = true ∧ ∀ c, t.byte c = s.byte c) ∧
        (a.1.controlStopped tag = false → exec (.ctndoneContinue i) s = .next a.1) ∧
        (a.1.controlStopped tag = true → ∃ t, exec (.ctndoneContinue i) s = .next t ∧ (t.ctx tag).dying = true) ∧
        (∀ k m, a.1.tileOfCtx tag = some m → (a.1.tile m).task = some k → k.node ≠ 0 →
          Clean (a.1.containEnd tag true) → ∃ t, exec (.ctndoneRerun i) s = .next t ∧ (t.tile m).task = none)))

/-- A kill packet empties the slots, units and message store of a tile that runs the context, touches no other
tile's threads and no byte, and its router's sweep ends 2,048 tile cycles later. After the last sweep the
confirmation follows in 40 tile cycles: the context is no longer dying or live, its tiles hold no task, its
records wait for the ring, and a KILL that waited returns 0 and retires. A thread pair that diverges leaves its
tile without publishing; a trailing twin takes its leading twin's results and traps and sends nothing, and the
leading one waits while the load-value queue is full and, before what must leave the tile once, until the
trailing one has come to it. A die pair whose copies differ gets a third copy; one that waits sets the limit
PLIM; past it a pair whose late copy is pre-empted or parked is forgotten and its node queued again, and
otherwise it waits on. (R46, R267, R271, R272, R273, R277, R278, R280.) -/
def Obligations.AvalancheRuns : Prop :=
    (∀ (s : State) (tag : Tag) (m : Nat),
      let here : Bool := (s.tile m).task.any fun k => k.tag == tag
      ∃ t, exec (.killPacketArrival tag m) s = .next t ∧ (∀ y, y.tile ≠ m → t.thread y = s.thread y) ∧
        (∀ c, t.byte c = s.byte c) ∧
        t.agenda.any (fun q => q.ev == .avalancheSweepEnd tag m && q.due == s.tc m + 2048) = true ∧
        (here = true → (t.tile m).slots = [] ∧ (t.tile m).vq = [] ∧ (t.tile m).mq = [] ∧ (t.tile m).store = [] ∧
          (t.tile m).task.map (·.phase) = some .ended) ∧
        (here = false → ∀ y, t.thread y = s.thread y)) ∧
    (∀ (s : State) (tag : Tag) (m : Nat), ∃ t, exec (.avalancheSweepEnd tag m) s = .next t ∧
      (t.ctx tag).sweeps = (s.ctx tag).sweeps.filter (fun x => x ≠ m) ∧
      ((s.ctx tag).dying = true → (∀ x ∈ (s.ctx tag).sweeps, x = m) →
        t.agenda.any (fun q => q.ev == .avalancheConfirm tag && q.due == s.now + 40) = true) ∧
      ∀ y, t.thread y = s.thread y) ∧
    (∀ (s : State) (tag : Tag),
      ((s.ctx tag).dying = false ∨ (s.ctx tag).sweeps ≠ [] → exec (.avalancheConfirm tag) s = .next s) ∧
      ((s.ctx tag).dying = true → (s.ctx tag).sweeps = [] → (s.ctx tag).isRoot = false → Clean s →
        SMap.wf Tile.zero s.tiles = true → (∀ e ∈ s.tiles, e.2.workQ = []) →
        (∀ e ∈ s.tiles, ∀ k, e.2.task = some k → k.tag = tag → k.pins = [] ∧ k.deliv = 0 ∧ k.copy = 0 ∧ k.node = 0) →
        s.windows = [] → s.capGranules = [] → (s.part (tagPart tag)).faults = [] →
        (∀ e ∈ s.tiles, e.2.guests = []) → (∀ e ∈ s.kettles, e.2.guests = []) →
        s.tableUsed (s.exportAt (tagPart tag) 0) = [] → s.launchOf (tagPart tag) (s.ctx tag).launch = none →
        ∃ t, exec (.avalancheConfirm tag) s = .next t ∧ (t.ctx tag).dying = false ∧ (t.ctx tag).live = false ∧
          (∀ m ∈ s.tilesOfCtx tag, (t.tile m).task = none) ∧ (∀ c, t.byte c = s.byte c) ∧
          (let told (r : CtnRec) : Prop := bits r.d0 30 24 = (s.ctx tag).cause.toNat
           ((∃ r ∈ (s.ctx tag).recs, told r) → t.floor.ctnWait = s.floor.ctnWait ++ (s.ctx tag).recs) ∧
           ((∀ r ∈ (s.ctx tag).recs, ¬ told r) →
             ∃ r, told r ∧ t.floor.ctnWait = s.floor.ctnWait ++ r :: (s.ctx tag).recs)) ∧
          ∀ x d, (s.ctx tag).killer = [(x, d)] → x.tile ∉ s.tilesOfCtx tag → (s.thread x).st = .awaiting →
            SameRegs (t.thread x) ((s.thread x).setG d 0) ∧ (t.thread x).pc = (s.thread x).pc + 4#51 ∧
            (t.thread x).st = .ready)) ∧
    (∀ (s : State) (x : ThreadId),
      ((s.tile x.tile).task.any (fun k => k.rdm == 1) = false → exec (.twinTimeout x) s = .next s) ∧
      (∀ k, SMap.wf Tile.zero s.tiles = true → (s.tile x.tile).task = some k → k.rdm = 1 → (s.ctx k.tag).dying = false →
        let r := s.countEvent (.core x.tile)
        let v := (r.1.record k.tag (if r.2.2 then 0x45 else 0x46) false
          { Strike.plain x.tile with count := r.2.1, last := r.2.2 }).modNode (tagPart k.tag) k.node
            fun d => { d with avoid := some x.tile }
        Clean (v.containEnd k.tag true) → ∃ t, exec (.twinTimeout x) s = .next t ∧ (t.tile x.tile).task = none ∧
          (t.thread x).st = .free)) ∧
    (∀ (s : State) (t : ThreadId) (rest : List TwinEntry),
      let th := s.thread t
      let q := s.twin (leadTwin t)
      let quiet (u : State) : Prop := (∀ c, u.byte c = s.byte c) ∧ u.agenda = s.agenda ∧ u.windows = s.windows
      (q.lvq = [] → trail s t = .next s.held) ∧
      (∀ ws pc, q.lvq = .value ws pc :: rest → ∃ u, trail s t = .next u ∧ quiet u ∧ (u.twin (leadTwin t)).lvq = rest ∧
        u.thread t = (ws.foldl Thread.write th).retireTo pc (s.counts? t)) ∧
      (∀ l b pc, q.lvq = .trap l b pc :: rest → ∃ u, trail s t = .next u ∧ quiet u ∧
        (b.epc = alignPc th.pc → b.late = true ∨ s.trapsApart t l b = false → u.thread t = { th.setBank l b with priv := l, pc := pc, st := .ready } ∧
          (u.twin (leadTwin t)).lvq = rest) ∧
        (b.epc ≠ alignPc th.pc ∨ (b.late = false ∧ s.trapsApart t l b = true) → u.thread t = th ∧ (u.twin (leadTwin t)).bad = true))) ∧
    (∀ (s : State) (t : ThreadId) (i : Instr), s.paired t.tile = true → t.slot ≤ 4 → twinOwn i = false →
      (s.twin t).full = true ∨ (twinOnce i = true ∧ ((s.twin t).lvq ≠ [] ∨ s.twinsAgree t i = false)) →
      s.before t i = .wait) ∧
    (∀ (s : State) (n node : Nat) (d : DiePair) (nd : Node) (l : Launch), Clean s →
      (s.part n).pairs.find? (fun d => d.node = node) = some d → d.bad.all (fun b => !b) = true →
      s.nodeAt n node = some nd → s.launchOf n nd.launch = some l →
      (d.exited.all id = false → d.expiry ≠ none → exec (.digestCompare n node) s = .next s) ∧
      (d.exited.all id = false → d.expiry = none → ∃ t, exec (.digestCompare n node) s = .next t ∧
        t.agenda.any (fun q => q.ev == .partnerWaitExpiry n node && q.due == s.now + 2 ^ bits (s.part n).rdncfg 60 56) = true ∧
        (∀ y, t.thread y = s.thread y) ∧ ∀ c, t.byte c = s.byte c) ∧
      (∀ sl m, d.exited.all id = true → d.tags.length = 2 →
        s.shadowDigest n (d.slots.getD 0 0) nd.dwords ≠ s.shadowDigest n (d.slots.getD 1 0) nd.dwords →
        (s.freeShadows n).head? = some sl → s.pairTile n d (s.thirdLayer n d) = some m → (s.tile m).workQ.length < 16 →
        ∃ t, exec (.digestCompare n node) s = .next t ∧
          ((t.part n).pairs.find? (fun d => d.node = node)).map (·.tags) = some (d.tags ++ [0]) ∧
          (t.tile m).workQ.length = (s.tile m).workQ.length + 1 ∧ ∀ c, t.byte c = s.byte c) ∧
      (∀ e, d.expiry = some e →
        (s.now < e ∨ d.exited.all id = true → exec (.partnerWaitExpiry n node) s = .next s) ∧
        (e ≤ s.now → d.exited.all id = false →
          let late := (d.tags.zipIdx.filter fun ti => !d.exited.getD ti.2 true).map (·.1)
          let tag := (late.find? (· ≠ 0)).getD (d.tags.headD 0)
          let v := s.record tag 0x49 false (Strike.plain (256 * d.layers.getD (d.tags.findIdx (· == tag)) 0))
          let u := late.foldl (fun s t => s.containEnd t false) v
          let w := u.mapTiles fun _ t => { t with workQ := t.workQ.filter fun w => !(w.task.node == node && w.task.copy != 0) }
          (late.any s.standsStill = false → ∃ t, exec (.partnerWaitExpiry n node) s = .next t ∧
            (∀ m, t.tile m = s.tile m) ∧ (∀ c, t.byte c = s.byte c) ∧ t.agenda.any (fun q =>
              q.ev == .partnerWaitExpiry n node && q.due == s.now + 2 ^ bits (s.part n).rdncfg 60 56) = true) ∧
          ∀ x, late.any s.standsStill = true → u.nodeAt n node = some x → ndDeliv x.dwords = false →
          (∀ e ∈ u.tiles, ∀ w ∈ e.2.workQ, w.fetched = true → w.task.node ≠ node) →
          Clean (((w.dropPair n node).enqueueNode n node).kick n) → ∃ t, exec (.partnerWaitExpiry n node) s = .next t ∧
            (t.part n).pairs.find? (fun d => d.node = node) = none ∧ (t.nodeAt n node).map (·.state) = some 2)))

/-- With the entry that WINCMD names well formed: open import and open export take a closed entry to open, close
with BUSY set and OUTST 0, and its completion closes it and clears BUSY; a command whose entry is malformed or
in another state changes nothing. A revoked import is marked 3. A remote request that the entry does not admit
changes nothing but that its refusal leaves as a frame; of an admitted one OUTST counts what still waits, and a
store writes its bytes. In recovery only the steward's queue is served. A host read answers with the bytes, a
host write writes them, a refused access answers nothing. A frame is dropped and counted, or accepted with its
sequence number and its request sent on; an unacknowledged one is sent again, three times at most, as long as no
acknowledgement comes, then the session is lost. A frame that leaves takes the next sequence number of its port,
and none leaves where that would pass 2^48 - 1 or while a lane of the port retrains; a request that leaves
through an import window counts in its OUTST. (R243, R244, R245, R246, R247, R248, R249, R250, R335.) -/
def Obligations.WindowsAndHostRun : Prop :=
    (∀ s : State, Clean s →
      let n := s.myPart
      let i := bits (s.part n).wincmd 14 3
      let im := bits (s.part n).winb 50 17 * 2 ^ 17 + i * 32
      let ex := bits (s.part n).expb 50 17 * 2 ^ 17 + i * 32
      let near (t : State) (at_ : Nat) : Prop := ∀ c, c < at_ ∨ at_ + 8 ≤ c → t.byte c = s.byte c
      (s.importGood n i = true → s.importSt n i = 0 → Here (cellsFrom im 8) → ∃ t, exec .winOpenImport s = .next t ∧
        t.importSt n i = 1 ∧ near t im) ∧
      (s.importGood n i = false ∨ s.importSt n i ≠ 0 → exec .winOpenImport s = .next s) ∧
      (s.importGood n i = true → Here (cellsFrom im 8) → ∃ t, exec .winCloseImport s = .next t ∧
        t.importSt n i = 0 ∧ near t im ∧ ∀ m ∈ s.tilesOf n, ∀ e ∈ (t.tile m).dtlb, ¬ (leafHome e.leaf = 2 ∧ leafWin e.leaf = i)) ∧
      (s.importGood n i = false → exec .winCloseImport s = .next s) ∧
      (s.exportGood n i = true → s.exportSt n i = 0 → Here (cellsFrom ex 8) → ∃ t, exec .winOpenExport s = .next t ∧
        t.exportSt n i = 1 ∧ near t ex) ∧
      (s.exportGood n i = false ∨ s.exportSt n i ≠ 0 → exec .winOpenExport s = .next s) ∧
      (s.exportGood n i = true → s.exportSt n i = 1 → Here (cellsFrom ex 24) → ∃ t, exec .winRevokeExport s = .next t ∧
        t.exportSt n i = 2 ∧ (t.part n).winBusy = true ∧ t.agenda.any (fun q => q.ev == .revokeComplete n i) = true ∧
        bits (t.read64 (ex + 16)) 31 0 = 0 ∧
        ∀ c, c < ex ∨ ex + 8 ≤ c → c < ex + 16 ∨ ex + 24 ≤ c → t.byte c = s.byte c) ∧
      (s.exportGood n i = false ∨ s.exportSt n i ≠ 1 → exec .winRevokeExport s = .next s)) ∧
    (∀ (s : State) (n i : Nat), Clean s → i < 4096 →
      (Here (cellsFrom (s.exportAt n i) 8) → ∃ t, exec (.revokeComplete n i) s = .next t ∧ (t.part n).winBusy = false ∧
        t.exportSt n i = (if s.exportSt n i = 2 then 0 else s.exportSt n i)) ∧
      (Here (cellsFrom (s.importAt n i) 8) → ∃ t, exec (.revokedNotice n i) s = .next t ∧
        t.importSt n i = (if s.importSt n i = 1 then 3 else s.importSt n i) ∧
        ∀ m ∈ s.tilesOf n, ∀ e ∈ (t.tile m).dtlb, ¬ (leafHome e.leaf = 2 ∧ leafWin e.leaf = i))) ∧
    (∀ (s : State) (r : RemoteReq), Clean s →
      let d (k : Nat) : Word := s.read64 (s.exportAt r.part r.exp + 8 * k)
      let admits : Prop := bits (d 0) 1 0 = 1 ∧ bits (d 0) 15 8 = r.owner.toNat ∧ bits (d 0) 31 16 = r.dev ∧
        r.offset + remoteBytes r.op ≤ 2 ^ bits (d 1) 5 0
      let tag := mkTag r.owner.toNat r.part (bits (d 0) 44 32)
      let go := s.proxyAccess r.part tag (remoteKind r.op) (bits (d 1) 50 12 * 4096 + r.offset) (remoteBytes r.op) (.remoteRequest r)
      let ot := s.exportAt r.part r.exp + 16
      let does (q : State → Prop) : Prop := ∃ t, exec (.remoteRequest r) s = .next t ∧ q t
      let counted (t : State) : Prop := bits (t.read64 ot) 31 0 =
        (((s.part r.part).faultQ ++ (s.part r.part).faults).filter (asksExport r.part (r.exp % 4096))).length % 2 ^ 32
      let apart (t : State) (old : Nat → Byte) : Prop := ∀ c, c < ot ∨ ot + 8 ≤ c → t.byte c = old c
      (¬ admits → exec (.remoteRequest r) s = .next (s.sendFrame r.dev r.owner.toNat)) ∧
      (Here (cellsFrom ot 8) →
        (∀ cs v k, admits → go = .cells cs v → r.op = .load k → does (fun t => counted t ∧ apart t s.byte)) ∧
        (admits → go = .bad → does (fun t => counted t ∧ apart t s.byte)) ∧
        (∀ cs v b, admits → go = .cells cs v → r.op = .store b → Here cs →
          (s.capFail tag (granulesOf cs) = none → does (fun t => counted t ∧ apart t (written s.byte (cs.zip b)))) ∧
          (s.capFail tag (granulesOf cs) ≠ none → does (fun t => counted t ∧ apart t s.byte))))) ∧
    (∀ (s : State) (a : HostAccess), Clean s →
      let q := s.liftQ a.queue
      let n := if a.queue < 8 then a.queue else ((List.range 8).find? fun n => pdescValid (s.pdesc n)).getD 0
      let tag := mkTag q.owner.toNat n q.proxy
      (s.floor.recovery = true → a.queue % 9 ≠ 8 → exec (.hostHbmAccess a) s = .next s) ∧
      (∀ cs v, s.floor.recovery = false ∨ a.queue % 9 = 8 → a.data = [] →
        s.proxyAccess n tag .load a.va a.read (.hostHbmAccess a) = .cells cs v →
        ∃ t, exec (.hostHbmAccess a) s = .next t ∧ (t.liftQ a.queue).answers = q.answers ++ [s.readBytes cs] ∧
          (∀ c, t.byte c = s.byte c) ∧ ∀ y, t.thread y = s.thread y) ∧
      (∀ cs v, s.floor.recovery = false ∨ a.queue % 9 = 8 → a.data ≠ [] →
        s.proxyAccess n tag .store a.va a.data.length (.hostHbmAccess a) = .cells cs v → Here cs →
        (s.capFail tag (granulesOf cs) = none → ∃ t, exec (.hostHbmAccess a) s = .next t ∧
          ∀ c, t.byte c = written s.byte (cs.zip a.data) c) ∧
        (s.capFail tag (granulesOf cs) ≠ none → ∃ t, exec (.hostHbmAccess a) s = .next t ∧
          (t.liftQ a.queue).answers = q.answers ++ [[]] ∧ ∀ c, t.byte c = s.byte c))) ∧
    (∀ (s : State) (f : Frame),
      let k := s.port f.port f.owner.toNat
      let known : Bool := (k.keys.getD (if f.epoch then 1 else 0) none).any fun key => authentic key f
      let first : Bool := k.fresh.getLsbD (if f.epoch then 1 else 0)
      let good : Bool := k.v && known && (f.epoch == k.rxep || first) && (first || decide (k.rxseq < f.seq))
      (good = false → ∃ t, exec (.frameIngress f) s = .next t ∧
        t.port f.port f.owner.toNat = { k with drop := Nat.min (k.drop + 1) (2 ^ 32 - 1) } ∧ t.agenda = s.agenda ∧
        ∀ y, t.thread y = s.thread y) ∧
      (good = true → ∃ t, exec (.frameIngress f) s = .next t ∧ (t.port f.port f.owner.toNat).rxseq = f.seq ∧
        (t.port f.port f.owner.toNat).rxep = f.epoch ∧ (t.port f.port f.owner.toNat).drop = k.drop ∧
        (∀ r, f.request = some r → f.dst = s.floor.device →
          t.agenda.any (fun q => q.ev == .remoteRequest { r with dev := f.src, owner := f.owner }) = true))) ∧
    (∀ (s : State) (p : Nat) (o : BitVec 8) (n : Nat), Clean s →
      let k := s.port p o.toNat
      let tries := SMap.get 0 k.tries n
      (k.lost = true → exec (.frameRetransmit p o n) s = .next s) ∧
      (k.lost = false → tries < 3 → ∃ t, exec (.frameRetransmit p o n) s = .next t ∧
        SMap.get 0 (t.port p o.toNat).tries n = tries + 1 ∧
        (Config.unacknowledged s.frees = true →
          t.agenda.any (fun q => q.ev == .frameRetransmit p o n && q.due == s.now + 4096) = true)) ∧
      (k.lost = false → 3 ≤ tries → s.floor.routes.any (fun r => r.2 == p) = false →
        ∃ t, exec (.frameRetransmit p o n) s = .next t ∧ (t.port p o.toNat).lost = true ∧ ∀ c, t.byte c = s.byte c)) ∧
    (∀ (s : State) (dev o : Nat),
      ((∀ p ∈ s.exits dev o, 2 ^ 48 ≤ (s.port p o).txseq ∨ s.portRetrains p = true) → s.sendFrame dev o = s) ∧
      (∀ p, s.exits dev o = [p] → (s.port p o).txseq < 2 ^ 48 → s.portRetrains p = false →
        (s.sendFrame dev o).port p o = { s.port p o with txseq := (s.port p o).txseq + 1 } ∧
        (∀ c, (s.sendFrame dev o).byte c = s.byte c) ∧ ∀ y, (s.sendFrame dev o).thread y = s.thread y)) ∧
    (∀ (s : State) (p : Pending) (w : Nat), s.leavesBy p = some w →
      let x := s.target (s.outgoing p.ev).1 w
      let at_ := s.importAt x.1 w + 16
      s.exits x.2.1 x.2.2 ≠ [] → Here (cellsFrom at_ 8) → ∃ t, s.sends p = some t ∧ (p.id, x.1, w) ∈ t.sent ∧
        bits (t.read64 at_) 31 0 = (bits (s.read64 at_) 31 0 + 1) % 2 ^ 32 ∧
        ∀ c, c < at_ ∨ at_ + 8 ≤ c → t.byte c = s.byte c)

/-- The floor die takes its readings, halves a die's clock from 105 degrees until below 95, lowers it from 95 on and
below a gap that breaks a limit (by how much: assumption 145), and samples again after 2^16 cycles. A link that
retrains ends within its limit; a failed one counts an event at its router (of an optical lane: assumption 144).
A stretched cycle changes nothing. Power-on with no verified firmware or configuration leaves the device in
recovery; otherwise the picked slots run and the body's roles are in force; memory is empty. An attestation is
refused while busy or outside HBM, and otherwise fills its report: identity, PDESC, STKROLE, count, the nonce
untouched. Key commands install, switch, validate and clear the entry of a port below 144, code 1 refusing; a
good image replaces the slot that does not run. (R323, R324, R325, R326, R329, R330, R331, R332, R333, R334,
R335.) -/
def Obligations.PlatformActs : Prop :=
    (∀ s : State, exec .droopStretch s = .next s ∧ ∃ t, exec .sensorSample s = .next t ∧
      t.agenda.any (fun q => q.ev == .sensorSample && q.due == s.now + 2 ^ 16) = true ∧
      (∀ y, t.thread y = s.thread y) ∧ (∀ c, t.byte c = s.byte c) ∧
      (∀ r, s.floor.sensorIn = [r] → (t.sensor r.die).temps = r.temps ∧ (t.sensor r.die).watts = r.watts ∧
        (105 ≤ hottest r → r.die ∈ t.floor.half) ∧ (hottest r < 95 → r.die ∉ t.floor.half) ∧
        (95 ≤ hottest r → hottest r < 105 → (r.die ∈ t.floor.half ↔ r.die ∈ s.floor.half)) ∧
        (95 ≤ hottest r → r.die < 16 → (t.sensor r.die).mhz ≤ (s.sensor r.die).mhz - 1)) ∧
      ∀ g, s.floor.gapIn = [g] → SMap.get GapReading.zero t.floor.gaps g.gap = g ∧
        (gapBad g = true → t.floor.cool = true ∧ ∀ z, z < 16 → z / 2 = g.gap →
          (t.sensor z).mhz ≤ (s.sensor z).mhz - 1)) ∧
    (∀ (s : State) (l : Nat), Clean s →
      (s.floor.retrain.contains l = true → exec (.linkRetrain l) s = .next s) ∧
      (s.floor.retrain.contains l = false → ∃ t ok, exec (.linkRetrain l) s = .next t ∧
        t.floor.retrain = s.floor.retrain ++ [l] ∧ t.agenda.any (fun q => q.ev == .linkRetrainDone l ok &&
          q.due == s.now + (if l < opticalLink then 4096 else 2 ^ 20)) = true) ∧
      (∀ ok, ∃ t, exec (.linkRetrainDone l ok) s = .next t ∧ l ∉ t.floor.retrain ∧
        (ok = true → ∀ u, t.counter u = s.counter u) ∧
        (ok = false → s.eventsHeld (.router (linkTile l)) = 0 → (t.counter (.router (linkTile l))).count = 1))) ∧
    (∀ s : State,
      let fl := s.floor.flash
      (s.fwOk fl[0] = false → s.fwOk fl[1] = false → ∃ t, exec .powerOnBoot s = .next t ∧ t.floor.recovery = true ∧
        t.mem = [] ∧ t.tiles = [] ∧ t.floor.flash = fl) ∧
      (s.cfOk fl[2] = false → s.cfOk fl[3] = false → ∃ t, exec .powerOnBoot s = .next t ∧ t.floor.recovery = true ∧
        t.mem = [] ∧ t.tiles = [] ∧ t.floor.flash = fl) ∧
      (∀ a b, pickSlot fl[0] fl[1] (s.fwOk fl[0]) (s.fwOk fl[1]) = some a →
        pickSlot fl[2] fl[3] (s.cfOk fl[2]) (s.cfOk fl[3]) = some b →
        ∃ t, exec .powerOnBoot s = .next t ∧ t.floor.recovery = false ∧ t.mem = [] ∧ t.tiles = [] ∧ t.floor.flash = fl ∧
          t.floor.fws = a ∧ t.floor.cfs = b ∧ t.floor.fwRun = (if a then fl[1] else fl[0]) ∧
          t.floor.role = (if b then fl[3] else fl[2]).cfg.roles)) ∧
    (∀ s : State,
      let p := s.part s.myPart
      (p.attBusy = true → ∃ t, exec .attestGo s = .next t ∧ (t.part s.myPart).attCode = 1 ∧
        (t.part s.myPart).attAt = p.attAt ∧ t.agenda = s.agenda) ∧
      (p.attBusy = false → hbmSize < bits p.attcmd 50 6 * 64 + 320 → ∃ t, exec .attestGo s = .next t ∧
        (t.part s.myPart).attCode = 2 ∧ t.agenda = s.agenda) ∧
      (p.attBusy = false → bits p.attcmd 50 6 * 64 + 320 ≤ hbmSize → ∃ t, exec .attestGo s = .next t ∧
        (t.part s.myPart).attBusy = true ∧ (t.part s.myPart).attCode = 0 ∧
        (t.part s.myPart).attAt = bits p.attcmd 50 6 * 64 ∧ t.agenda.any (fun q => q.ev == .attestComplete) = true)) ∧
    (∀ (s : State) (n : Nat), Clean s → (List.range 8).find? (fun n => (s.part n).attBusy) = some n →
      let at_ := (s.part n).attAt
      Here (cellsFrom at_ 320) → ∃ t, exec .attestComplete s = .next t ∧ (t.part n).attBusy = false ∧
        (∀ i, i < 24 → t.read64 (at_ + 8 * i) = s.identity i) ∧ t.read64 at_ = 1 ∧
        t.read64 (at_ + 0xE0) = s.pdesc n ∧ t.read64 (at_ + 0xE8) = s.floor.role.zeroExtend 64 ∧
        t.read64 (at_ + 0xF8) = BitVec.ofNat 64 (s.floor.attCount + 1) ∧
        (∀ i, 0xC0 ≤ i → i < 0xE0 → t.byte (at_ + i) = s.byte (at_ + i)) ∧
        ∀ c, c < at_ ∨ at_ + 320 ≤ c → t.byte c = s.byte c) ∧
    (∀ s : State, Clean s →
      let p := bits s.floor.keyRun 7 0
      let o := bits s.floor.keyRun 15 8
      let e := s.floor.keyRun.getLsbD 19
      let k := s.port p o
      let run := bits s.floor.keyRunAt 50 6 * 64
      let rec_ := s.readBytes (cellsFrom run 192)
      let refused (i : Instr) : Prop := ∃ t, exec i s = .next t ∧ t.floor.keyCode = 1 ∧ t.floor.keyBusy = false ∧
        t.floor.ports = s.floor.ports
      let does (i : Instr) (k' : PortKey) : Prop := ∃ t, exec i s = .next t ∧ t.floor.keyCode = 0 ∧
        t.floor.keyBusy = false ∧ t.port p o = k' ∧ ∀ c, t.byte c = s.byte c
      (144 ≤ p → refused .keyExchange ∧ refused .keySwitch ∧ refused .keySetV ∧ refused .keyClear) ∧
      (e = k.ep → refused .keyExchange) ∧
      (p < 144 → does .keySwitch { k with ep := e, txseq := 0, lost := false, tries := [] } ∧
        does .keySetV { k with v := true } ∧ does .keyClear { PortKey.zero with drop := k.drop }) ∧
      (p < 144 → e ≠ k.ep → k.keys.length = 2 → Here (cellsFrom run 224) →
        let init := s.floor.keyRun.getLsbD 20
        let x := sm2Exchange rec_ init s.floor.keyDone
        let ok : Bool := x.good && Config.sm2Confirms rec_ init s.floor.keyDone
        ∃ t, exec .keyExchange s = .next t ∧ t.floor.keyBusy = false ∧
          (∀ c, t.byte c = written s.byte (((cellsFrom (run + 0x80) 64).zip (pointBytes x.eph)) ++
            (cellsFrom (run + 0xC0) 32).zip x.confirm) c) ∧
          (ok = false → t.floor.keyCode = 2 ∧ t.floor.ports = s.floor.ports) ∧
          (ok = true → t.floor.keyCode = 0 ∧ (t.port p o).fresh.getLsbD (if e then 1 else 0) = true ∧
            ((t.port p o).keys.getD (if e then 1 else 0) none).isSome = true ∧
            (t.port p o).keys.getD (if e then 0 else 1) none = k.keys.getD (if e then 0 else 1) none))) ∧
    (∀ (s : State) (slot : Nat) (img : Image),
      let i := slot % 4
      let runs : Bool := s.floor.fwUp && decide (i = if s.floor.fws then 1 else 0) ||
        !s.floor.recovery && decide (i = if s.floor.cfs then 3 else 2)
      let good := if i < 2 then s.fwOk img else s.cfOk img
      (runs = true ∨ good = false → exec (.imageSlotWrite slot img) s = .next s) ∧
      (runs = false → good = true → ∃ t, exec (.imageSlotWrite slot img) s = .next t ∧
        (∀ j, (h : j < 4) → t.floor.flash[j] = if j = i then img else s.floor.flash[j]) ∧
        ∀ y, t.thread y = s.thread y))

namespace Sys2Proof.Claim
/-- The bytes `bs` lie at the pc of a thread, word by word, each word where a fetch of its address on path 0 finds it
(R298, R301), in storage that the device has. -/
def CodeAt (s : State) (t : ThreadId) (bs : List Byte) : Prop :=
  (s.thread t).pc.toNat % 4 = 0 ∧ ∀ k, 4 * k < bs.length →
    ∃ c, s.translate t .fetch ((s.thread t).pc.toNat + 4 * k) = .ok (.cell c) ∧ (isHbmCell c = true ∨ 2 ^ 63 ≤ c) ∧
      (List.range 4).map (fun j => s.byte (c + j)) = (bs.drop (4 * k)).take 4

/-- What a step does with the outcome of an instruction or an event from `s`: where a partition keeps a log, the
outcome is recorded or matched (R114); a run that met storage that does not exist ends in the fault. -/
def afterwards (s : State) (i : Instr) (o : Host.Outcome State Fault Refusal) : Host.Outcome State Fault Refusal :=
  match o with
  | .next u => ends (if s.logging.isEmpty then u else s.logged u i)
  | o => o

/-- The end of a step from `s`: trailing twins have what their leading ones hand on (R46), and a run that met storage that
does not exist ends in the fault. -/
def closed (s : State) (o : Host.Outcome State Fault Refusal) : Host.Outcome State Fault Refusal :=
  match o with
  | .next u => ends (s.feedTwins s.choose u)
  | o => o

/-- After an attempt of a thread its slot is the last of its tile to have issued, or has been found held (R43). -/
def rotated (t : ThreadId) (o : Host.Outcome State Fault Refusal) : Host.Outcome State Fault Refusal :=
  match o with
  | .next u => .next (u.issued t)
  | o => o

/-- The bytes of one word, least significant first. -/
def word (w : Nat) : List Byte := [BitVec.ofNat 8 w, BitVec.ofNat 8 (w / 256), BitVec.ofNat 8 (w / 65536),
  BitVec.ofNat 8 (w / 16777216)]

/-- Why bytes decode to no instruction. -/
def whyNot {α : Type} : Except DecodeError α → Option DecodeError
  | .error e => some e
  | .ok _ => none

end Sys2Proof.Claim

/-- Words of every format that the manual spells out decode to the instruction named, and words it reserves do not
decode: the zero word, a nonzero word of op 0, a reserved major opcode, a reserved fn, a condition code 6, a
format 8, a nonzero field shown as zero, AADDB with a15, FENCE with an empty mask, MSUB with W = 0. (R301, R307,
R338, R341, R349, R353, R161, R425, R426, R428, R429, R306.) -/
def Obligations.DecodeWords : Prop :=
    (decode (word 0x04414620)).toOption = some (.add 4 5 6 true, []) ∧
    (decode (word 0x04310504)).toOption = some (.div 3 4 5 false, []) ∧
    (decode (word 0x3C040000 ++ word 0x24900000)).toOption = some (.ext 0x40000 0x24900000, []) ∧
    (decode (word 0x40BFFFFB)).toOption = some (.br 1 false 0x3FFFFB, []) ∧
    (decode (word 0x50CC7002)).toOption = some (.aaddb 3 3 7, []) ∧
    (decode (word 0xAC090060)).toOption = some (.fence .dev 0x24, []) ∧
    (decode (word 0xE0610813)).toOption = some (.vfma .fp32 3 1 1 0, []) ∧
    (decode (word 0xE4432068)).toOption = some (.vsar .i16 2 3 4 0, []) ∧
    (decode (word 0xE023F01E)).toOption = some (.vcmp .eq .fp32 1 3 30 0, []) ∧
    (decode (word 0xEAC1D843)).toOption = some (.vmovg .i64 22 1 27, []) ∧
    (decode (word 0xF280E009)).toOption = some (.mpois 7 2 1, []) ∧
    (decode (word 0xFC402402)).toOption = some (.sigrd 4 2, []) ∧
    whyNot (decode (word 0)) = some .zeroWord ∧
    (∀ w ∈ [0x00000001, 0x38000000, 0x0400001F, 0x2C600000, 0xE4000080, 0x04000040, 0x53C00002, 0xAC000060, 0xF0000006],
      whyNot (decode (word w)) = some (.illegalWord (BitVec.ofNat 32 w)))

/-- For every instruction word of the machine, with every operand at every value that its encoding admits: the bytes
of its encoding followed by any bytes decode to the instruction and leave those bytes. So no bit of an operand
is lost, no two instructions share a word, and no word of one is read as another; an EXT pair takes eight bytes
and every other instruction four. (R298, R299, R300, R301, R302, R303, R304, R305, R306.) -/
def Obligations.DecodeOfEncode : Prop :=
    ∀ (i : Instr) (rest : List Byte), i.isWord = true → i.wf = true →
    decode (encodeBytes i ++ rest) = .ok (i, rest) ∧ (encodeBytes i).length = i.len

/-- Where the choice is a thread with no late fault to take first, whose pc is aligned and whose bytes there decode
to an instruction that need not wait, the step is exec of that instruction, after time has passed and the thread
has its turn; where the bytes are an undefined word, it is the illegal-instruction event with the word; an
instruction that must wait is held. The slot has then issued, or has been found held; an event makes the slots
found held be looked at again. In slots 11 to 15 the guest there runs its operation, and a trailing twin goes on
by one entry of what its leading twin handed on (R46); where no task runs thread-redundant nothing is handed on.
Where the choice is an event, the step is exec of that event, taken from the agenda, but for a request or an
answer in the floor channel whose partition field is not its tile's, which is dropped (R21), and but for the
completion of a request through an import window, which the request's leaving precedes (R246). Where nothing can
happen, only time passes. The outcome is recorded in the log of a partition that keeps one; the order of choices
and the passing of time are the model's (assumptions 1 and 2). (R43, R298, R301, R307.) -/
def Obligations.StepRunsDecoded : Prop :=
    (∀ (s : State) (t : ThreadId) (i : Instr) (bs : List Byte), s.choose = some (.thread t) → t.slot < 11 →
      let s0 := s.tick.turn t
      s0.trails t = false → s0.lateNow t = false → bs.length = i.len → CodeAt s0 t bs → decode bs = .ok (i, []) → s0.before t i = .run →
      step s = closed s (rotated t (afterwards s0 i (exec i s0)))) ∧
    (∀ (s : State) (t : ThreadId) (bs : List Byte) (e : DecodeError), s.choose = some (.thread t) → t.slot < 11 →
      let s0 := s.tick.turn t
      s0.trails t = false → s0.lateNow t = false → bs.length = 4 → CodeAt s0 t bs → decode bs = .error e → e ≠ .truncated →
      let i : Instr := .illegalInstruction (BitVec.ofNat 32 (natOfBytes bs))
      step s = closed s (rotated t (afterwards s0 i (exec i s0)))) ∧
    (∀ (s : State) (t : ThreadId) (i : Instr) (bs : List Byte), s.choose = some (.thread t) → t.slot < 11 →
      let s0 := s.tick.turn t
      s0.trails t = false → s0.lateNow t = false → bs.length = i.len → CodeAt s0 t bs → decode bs = .ok (i, []) → s0.before t i = .wait →
      s0.stray = none → step s = closed s (.next (s0.held.issued t))) ∧
    (∀ (s : State) (t : ThreadId) (r : GuestOp), s.choose = some (.thread t) → 11 ≤ t.slot →
      let s0 := { s.tick.turn t with src := r.tid.tile }
      s.guestIn t = some r → step s = closed s (rotated t (afterwards s0 (.atomicAtHome r) (exec (.atomicAtHome r) s0)))) ∧
    (∀ (s : State) (p : Pending), s.choose = some (.event p) →
      let s0 := { (s.takeEvent p).tick.retried with src := (eventTile p.ev).getD s.src }
      (∀ t, s.sends p = some t → step s = closed s (.next t.tick)) ∧
      (s.sends p = none → s0.floorDrops p.ev = none → step s = closed s (afterwards s0 p.ev (exec p.ev s0))) ∧
      (∀ t, s.sends p = none → s0.floorDrops p.ev = some t → step s = closed s (.next t))) ∧
    (∀ s : State, s.choose = none → step s = closed s (.next s.tick)) ∧
    (∀ (s : State) (t : ThreadId), s.choose = some (.thread t) → t.slot < 11 →
      let s0 := s.tick.turn t
      s0.trails t = true → step s = closed s (rotated t (trail s0 t))) ∧
    (∀ (s u : State) (c : Option Choice), (∀ e ∈ u.tiles, u.paired e.1 = false) → s.feedTwins c u = u)

/-- Seen from any thread, at reset: every general, address, predicate, mask and vector register and PC is zero (g0,
p0 and k0 reading their constants) and the slot is free; the special registers for which the manual gives a
reset value of zero read zero; ROLECMD reads DLIM 22, DSPCFG QLOG 16, GRACE 4096 and PREEN 1, QUANTUM the copy
of QLOG, RLOGB RESV 64 and RDNCFG PLIM 20; the full/empty bit of every word is empty, every bank byte is zero,
every bank granule is free, and the list of bytes has its canonical form. (R27, R39, R108, R118, R121, R146,
R168, R220, R253, R281, R294, R330.) -/
def Obligations.ResetState : Prop :=
    ∀ x : ThreadId, let s := { State.reset with cur := x }
    (∀ r : GReg, s.g r = 0) ∧ (∀ r : AReg, s.me.getA r = 0) ∧ (∀ r : PReg, s.me.getP r = decide (r = 0)) ∧
    (∀ r : KReg, s.me.getK r = if r = 0 then BitVec.allOnes 64 else 0) ∧ (∀ r : VReg, s.me.getV r = 0) ∧
    s.me.pc = 0 ∧ s.me.st = .free ∧
    (∀ n ∈ [0x005, 0x010, 0x011, 0x012, 0x38A, 0x38B, 0x38C, 0x393, 0x394, 0x395, 0x396, 0x397, 0x398, 0x399, 0x39A],
      s.sysRead n = 0) ∧
    (∀ n ∈ [0x3A0, 0x3A1, 0x3A2, 0x3A3, 0x3A8, 0x3B0, 0x3B1, 0x3C0, 0x3C1, 0x3C2, 0x3C3, 0x3C4, 0x3D0, 0x3D1, 0x3D2],
      s.sysRead n = 0) ∧
    (∀ n ∈ [0x3D3, 0x3D4, 0x3D5, 0x3D6, 0x3DC, 0x3DD, 0x3DE, 0x3E2, 0x3E3, 0x3E4, 0x3E5], s.sysRead n = 0) ∧
    s.sysRead 0x389 = 0x16000000 ∧ s.sysRead 0x390 = 0x808000040 ∧ s.sysRead 0x391 = 0x0010000000000000 ∧
    s.sysRead 0x392 = 0x4000000000000000 ∧ s.sysRead 0x3DF = 0x1400000000000000 ∧
    (∀ k, SMap.get false s.fe k = false) ∧ (∀ c, isBankCell c = true → s.byte c = 0) ∧
    (∀ gr, 2 ^ 51 ≤ gr → s.cap gr = 0) ∧ Memory.wf s.mem = true

/-- In every state whose list of bytes has its canonical form (cells strictly rising, no byte equal to what an
unlisted cell reads as), if a step goes on, whatever instruction or event it ran, the list of bytes of the next
state has that form, and no access of the step was left to storage that does not exist. So equal memories stay
equal data along every run. The form is the model's own (assumption 16). (R155, R2.) -/
def Obligations.StepKeepsMemory : Prop :=
    ∀ s t : State, Memory.wf s.mem = true → step s = .next t → Memory.wf t.mem = true ∧ t.stray = none
end

