-- ==== Sys2Proof/Laws/Store.lean ====
section
/-! SUPPORT. Sparse storage: a read after a write, and that every operation keeps the canonical form. -/

namespace Sys2Proof

variable {α : Type}

@[simp] theorem SMap.get_nil (d : α) (k : Nat) : SMap.get d [] k = d := rfl

theorem SMap.get_put (d : α) (m : SMap α) (k k' : Nat) (v : α) :
    SMap.get d (SMap.put m k v) k' = if k' = k then v else SMap.get d m k' := by
  induction m with
  | nil => by_cases h : k' = k <;> simp [SMap.put, SMap.get, h, Ne.symm]
  | cons e m ih =>
    obtain ⟨j, x⟩ := e
    unfold SMap.put
    by_cases hk : k' = k
    · subst hk
      by_cases h : j = k'
      · simp [h, SMap.get]
      · by_cases h2 : k' < j
        · simp [h, h2, SMap.get]
        · simpa [h, h2, SMap.get] using ih
    · by_cases h : j = k
      · subst h; simp [SMap.get, hk, Ne.symm hk]
      · by_cases h2 : k < j
        · simp [h, h2, SMap.get, hk, Ne.symm hk]
        · by_cases h3 : j = k'
          · subst h3; simp [h2, hk, SMap.get]
          · simpa [h, h2, h3, hk, SMap.get] using ih

theorem SMap.get_erase (d : α) (m : SMap α) (k k' : Nat) :
    SMap.get d (SMap.erase m k) k' = if k' = k then d else SMap.get d m k' := by
  induction m with
  | nil => simp [SMap.erase, SMap.get]
  | cons e m ih =>
    obtain ⟨j, x⟩ := e
    unfold SMap.erase
    by_cases h : j = k
    · subst h
      by_cases h' : k' = j
      · subst h'; simpa using ih
      · simp [ih, h', SMap.get, Ne.symm h']
    · by_cases h3 : j = k'
      · subst h3; simp [h, SMap.get]
      · simp [h, SMap.get, h3, ih]

/-- A read after a write: the value written at its key, what was there at any other. -/
theorem SMap.get_set [DecidableEq α] (d : α) (m : SMap α) (k k' : Nat) (v : α) :
    SMap.get d (SMap.set d m k v) k' = if k' = k then v else SMap.get d m k' := by
  unfold SMap.set
  split
  · rename_i h; subst h; rw [SMap.get_erase]
  · rw [SMap.get_put]

@[simp] theorem SMap.get_set_self [DecidableEq α] (d : α) (m : SMap α) (k : Nat) (v : α) :
    SMap.get d (SMap.set d m k v) k = v := by simp [SMap.get_set]

theorem SMap.get_set_ne [DecidableEq α] (d : α) (m : SMap α) {k k' : Nat} (v : α) (h : k' ≠ k) :
    SMap.get d (SMap.set d m k v) k' = SMap.get d m k' := by simp [SMap.get_set, h]

/-! ### The canonical form -/

variable [DecidableEq α]

/-- Nothing is lost by a lower bound. -/
theorem SMap.wfFrom_mono (d : α) (m : SMap α) (a : Nat) (b : Option Nat) (h : SMap.wfFrom d (some a) m = true)
    (hb : ∀ k, b = some k → k ≤ a) : SMap.wfFrom d b m = true := by
  cases m with
  | nil => rfl
  | cons e m =>
    obtain ⟨j, x⟩ := e
    simp only [SMap.wfFrom, Bool.and_eq_true, decide_eq_true_eq] at h ⊢
    refine ⟨⟨?_, h.1.2⟩, h.2⟩
    cases b with
    | none => rfl
    | some k => have := hb k rfl; have := h.1.1; simp; omega

theorem SMap.wfFrom_erase (d : α) (m : SMap α) (b : Option Nat) (k : Nat) (h : SMap.wfFrom d b m = true) :
    SMap.wfFrom d b (SMap.erase m k) = true := by
  induction m generalizing b with
  | nil => rfl
  | cons e m ih =>
    obtain ⟨j, x⟩ := e
    simp only [SMap.wfFrom, Bool.and_eq_true] at h
    unfold SMap.erase
    split
    · refine ih b (SMap.wfFrom_mono d m j b h.2 ?_)
      intro k' hk'; subst hk'
      have := h.1.1; simp at this; omega
    · simp only [SMap.wfFrom, Bool.and_eq_true]
      exact ⟨h.1, ih _ h.2⟩

theorem SMap.wfFrom_put (d : α) (m : SMap α) (b : Option Nat) (k : Nat) (v : α) (hv : v ≠ d)
    (hb : ∀ j, b = some j → j < k) (h : SMap.wfFrom d b m = true) :
    SMap.wfFrom d b (SMap.put m k v) = true := by
  induction m generalizing b with
  | nil =>
    simp only [SMap.put, SMap.wfFrom, Bool.and_eq_true]
    refine ⟨⟨?_, by simp [hv]⟩, trivial⟩
    cases b with
    | none => rfl
    | some j => simpa using hb j rfl
  | cons e m ih =>
    obtain ⟨j, x⟩ := e
    simp only [SMap.wfFrom, Bool.and_eq_true] at h
    unfold SMap.put
    split
    · rename_i hj; subst hj
      simp only [SMap.wfFrom, Bool.and_eq_true]
      refine ⟨⟨?_, by simp [hv]⟩, h.2⟩
      cases b with
        | none => rfl
        | some i => simpa using hb i rfl
    · split
      · rename_i hj hlt
        simp only [SMap.wfFrom, Bool.and_eq_true]
        refine ⟨⟨?_, by simp [hv]⟩, ⟨⟨by simpa using hlt, h.1.2⟩, h.2⟩⟩
        cases b with
          | none => rfl
          | some i => simpa using hb i rfl
      · rename_i hj hlt
        simp only [SMap.wfFrom, Bool.and_eq_true]
        refine ⟨h.1, ih (some j) ?_ h.2⟩
        intro j' hj'; cases hj'; omega

/-- A write keeps the canonical form. -/
theorem SMap.wf_set (d : α) (m : SMap α) (k : Nat) (v : α) (h : SMap.wf d m = true) :
    SMap.wf d (SMap.set d m k v) = true := by
  unfold SMap.set SMap.wf at *
  split
  · exact SMap.wfFrom_erase d m none k h
  · rename_i hv
    exact SMap.wfFrom_put d m none k v hv (by simp) h

theorem SMap.wfFrom_filter (d : α) (m : SMap α) (b : Option Nat) (p : Nat × α → Bool)
    (h : SMap.wfFrom d b m = true) : SMap.wfFrom d b (m.filter p) = true := by
  induction m generalizing b with
  | nil => rfl
  | cons e m ih =>
    obtain ⟨j, x⟩ := e
    simp only [SMap.wfFrom, Bool.and_eq_true] at h
    rw [List.filter_cons]
    split
    · simp only [SMap.wfFrom, Bool.and_eq_true]
      exact ⟨h.1, ih _ h.2⟩
    · refine ih b (SMap.wfFrom_mono d m j b h.2 ?_)
      intro k' hk'; subst hk'
      have := h.1.1; simp at this; omega

/-- Taking entries away keeps the canonical form. -/
theorem SMap.wf_filter (d : α) (m : SMap α) (p : Nat × α → Bool) (h : SMap.wf d m = true) :
    SMap.wf d (m.filter p) = true := SMap.wfFrom_filter d m none p h

omit [DecidableEq α] in
theorem SMap.get_filter (d : α) (m : SMap α) (q : Nat → Bool) (k : Nat) :
    SMap.get d (m.filter fun e => q e.1) k = if q k then SMap.get d m k else d := by
  induction m with
  | nil => simp
  | cons e m ih =>
    obtain ⟨j, x⟩ := e
    rw [List.filter_cons]
    by_cases hj : j = k
    · subst hj; by_cases hq : q j <;> simp [hq, SMap.get, ih]
    · by_cases hq : q j <;> simp [hq, SMap.get, hj, ih]

end Sys2Proof
end

