-- ==== Sys2Proof/Laws/State.lean ====
section
/-! SUPPORT. What each update of the state leaves of each field, so that no proof unfolds a record update; and
the reads of a tile, a thread and a partition after an update of one. -/

namespace Sys2Proof.Machine

variable (s : State)

@[simp] theorem State.setTile_now (n : Nat) (t : Tile) : (s.setTile n t).now = s.now := rfl
@[simp] theorem State.setTile_lags (n : Nat) (t : Tile) : (s.setTile n t).lags = s.lags := rfl
@[simp] theorem State.setTile_cur (n : Nat) (t : Tile) : (s.setTile n t).cur = s.cur := rfl
@[simp] theorem State.setTile_src (n : Nat) (t : Tile) : (s.setTile n t).src = s.src := rfl
@[simp] theorem State.setTile_wakers (n : Nat) (t : Tile) : (s.setTile n t).wakers = s.wakers := rfl
@[simp] theorem State.setTile_choices (n : Nat) (t : Tile) : (s.setTile n t).choices = s.choices := rfl
@[simp] theorem State.setTile_frees (n : Nat) (t : Tile) : (s.setTile n t).frees = s.frees := rfl
@[simp] theorem State.setTile_nextId (n : Nat) (t : Tile) : (s.setTile n t).nextId = s.nextId := rfl
@[simp] theorem State.setTile_stray (n : Nat) (t : Tile) : (s.setTile n t).stray = s.stray := rfl
@[simp] theorem State.setTile_agenda (n : Nat) (t : Tile) : (s.setTile n t).agenda = s.agenda := rfl
@[simp] theorem State.setTile_sent (n : Nat) (t : Tile) : (s.setTile n t).sent = s.sent := rfl
@[simp] theorem State.setTile_packets (n : Nat) (t : Tile) : (s.setTile n t).packets = s.packets := rfl
@[simp] theorem State.setTile_mem (n : Nat) (t : Tile) : (s.setTile n t).mem = s.mem := rfl
@[simp] theorem State.setTile_fe (n : Nat) (t : Tile) : (s.setTile n t).fe = s.fe := rfl
@[simp] theorem State.setTile_feq (n : Nat) (t : Tile) : (s.setTile n t).feq = s.feq := rfl
@[simp] theorem State.setTile_pois (n : Nat) (t : Tile) : (s.setTile n t).pois = s.pois := rfl
@[simp] theorem State.setTile_poisTag (n : Nat) (t : Tile) : (s.setTile n t).poisTag = s.poisTag := rfl
@[simp] theorem State.setTile_lineTag (n : Nat) (t : Tile) : (s.setTile n t).lineTag = s.lineTag := rfl
@[simp] theorem State.setTile_gmode (n : Nat) (t : Tile) : (s.setTile n t).gmode = s.gmode := rfl
@[simp] theorem State.setTile_bankCap (n : Nat) (t : Tile) : (s.setTile n t).bankCap = s.bankCap := rfl
@[simp] theorem State.setTile_vacated (n : Nat) (t : Tile) : (s.setTile n t).vacated = s.vacated := rfl
@[simp] theorem State.setTile_ctxs (n : Nat) (t : Tile) : (s.setTile n t).ctxs = s.ctxs := rfl
@[simp] theorem State.setTile_owners (n : Nat) (t : Tile) : (s.setTile n t).owners = s.owners := rfl
@[simp] theorem State.setTile_parts (n : Nat) (t : Tile) : (s.setTile n t).parts = s.parts := rfl
@[simp] theorem State.setTile_kettles (n : Nat) (t : Tile) : (s.setTile n t).kettles = s.kettles := rfl
@[simp] theorem State.setTile_l2 (n : Nat) (t : Tile) : (s.setTile n t).l2 = s.l2 := rfl
@[simp] theorem State.setTile_walks (n : Nat) (t : Tile) : (s.setTile n t).walks = s.walks := rfl
@[simp] theorem State.setTile_walkLast (n : Nat) (t : Tile) : (s.setTile n t).walkLast = s.walkLast := rfl
@[simp] theorem State.setTile_windows (n : Nat) (t : Tile) : (s.setTile n t).windows = s.windows := rfl
@[simp] theorem State.setTile_deliveries (n : Nat) (t : Tile) : (s.setTile n t).deliveries = s.deliveries := rfl
@[simp] theorem State.setTile_counts (n : Nat) (t : Tile) : (s.setTile n t).counts = s.counts := rfl
@[simp] theorem State.setTile_floor (n : Nat) (t : Tile) : (s.setTile n t).floor = s.floor := rfl

@[simp] theorem State.modTile_now (n : Nat) (f : Tile → Tile) : (s.modTile n f).now = s.now := rfl
@[simp] theorem State.modTile_lags (n : Nat) (f : Tile → Tile) : (s.modTile n f).lags = s.lags := rfl
@[simp] theorem State.modTile_cur (n : Nat) (f : Tile → Tile) : (s.modTile n f).cur = s.cur := rfl
@[simp] theorem State.modTile_src (n : Nat) (f : Tile → Tile) : (s.modTile n f).src = s.src := rfl
@[simp] theorem State.modTile_wakers (n : Nat) (f : Tile → Tile) : (s.modTile n f).wakers = s.wakers := rfl
@[simp] theorem State.modTile_choices (n : Nat) (f : Tile → Tile) : (s.modTile n f).choices = s.choices := rfl
@[simp] theorem State.modTile_frees (n : Nat) (f : Tile → Tile) : (s.modTile n f).frees = s.frees := rfl
@[simp] theorem State.modTile_nextId (n : Nat) (f : Tile → Tile) : (s.modTile n f).nextId = s.nextId := rfl
@[simp] theorem State.modTile_stray (n : Nat) (f : Tile → Tile) : (s.modTile n f).stray = s.stray := rfl
@[simp] theorem State.modTile_agenda (n : Nat) (f : Tile → Tile) : (s.modTile n f).agenda = s.agenda := rfl
@[simp] theorem State.modTile_sent (n : Nat) (f : Tile → Tile) : (s.modTile n f).sent = s.sent := rfl
@[simp] theorem State.modTile_packets (n : Nat) (f : Tile → Tile) : (s.modTile n f).packets = s.packets := rfl
@[simp] theorem State.modTile_mem (n : Nat) (f : Tile → Tile) : (s.modTile n f).mem = s.mem := rfl
@[simp] theorem State.modTile_fe (n : Nat) (f : Tile → Tile) : (s.modTile n f).fe = s.fe := rfl
@[simp] theorem State.modTile_feq (n : Nat) (f : Tile → Tile) : (s.modTile n f).feq = s.feq := rfl
@[simp] theorem State.modTile_pois (n : Nat) (f : Tile → Tile) : (s.modTile n f).pois = s.pois := rfl
@[simp] theorem State.modTile_poisTag (n : Nat) (f : Tile → Tile) : (s.modTile n f).poisTag = s.poisTag := rfl
@[simp] theorem State.modTile_lineTag (n : Nat) (f : Tile → Tile) : (s.modTile n f).lineTag = s.lineTag := rfl
@[simp] theorem State.modTile_gmode (n : Nat) (f : Tile → Tile) : (s.modTile n f).gmode = s.gmode := rfl
@[simp] theorem State.modTile_bankCap (n : Nat) (f : Tile → Tile) : (s.modTile n f).bankCap = s.bankCap := rfl
@[simp] theorem State.modTile_vacated (n : Nat) (f : Tile → Tile) : (s.modTile n f).vacated = s.vacated := rfl
@[simp] theorem State.modTile_ctxs (n : Nat) (f : Tile → Tile) : (s.modTile n f).ctxs = s.ctxs := rfl
@[simp] theorem State.modTile_owners (n : Nat) (f : Tile → Tile) : (s.modTile n f).owners = s.owners := rfl
@[simp] theorem State.modTile_parts (n : Nat) (f : Tile → Tile) : (s.modTile n f).parts = s.parts := rfl
@[simp] theorem State.modTile_kettles (n : Nat) (f : Tile → Tile) : (s.modTile n f).kettles = s.kettles := rfl
@[simp] theorem State.modTile_l2 (n : Nat) (f : Tile → Tile) : (s.modTile n f).l2 = s.l2 := rfl
@[simp] theorem State.modTile_walks (n : Nat) (f : Tile → Tile) : (s.modTile n f).walks = s.walks := rfl
@[simp] theorem State.modTile_walkLast (n : Nat) (f : Tile → Tile) : (s.modTile n f).walkLast = s.walkLast := rfl
@[simp] theorem State.modTile_windows (n : Nat) (f : Tile → Tile) : (s.modTile n f).windows = s.windows := rfl
@[simp] theorem State.modTile_deliveries (n : Nat) (f : Tile → Tile) : (s.modTile n f).deliveries = s.deliveries := rfl
@[simp] theorem State.modTile_counts (n : Nat) (f : Tile → Tile) : (s.modTile n f).counts = s.counts := rfl
@[simp] theorem State.modTile_floor (n : Nat) (f : Tile → Tile) : (s.modTile n f).floor = s.floor := rfl

@[simp] theorem State.setThread_now (t : ThreadId) (x : Thread) : (s.setThread t x).now = s.now := rfl
@[simp] theorem State.setThread_lags (t : ThreadId) (x : Thread) : (s.setThread t x).lags = s.lags := rfl
@[simp] theorem State.setThread_cur (t : ThreadId) (x : Thread) : (s.setThread t x).cur = s.cur := rfl
@[simp] theorem State.setThread_src (t : ThreadId) (x : Thread) : (s.setThread t x).src = s.src := rfl
@[simp] theorem State.setThread_wakers (t : ThreadId) (x : Thread) : (s.setThread t x).wakers = s.wakers := rfl
@[simp] theorem State.setThread_choices (t : ThreadId) (x : Thread) : (s.setThread t x).choices = s.choices := rfl
@[simp] theorem State.setThread_frees (t : ThreadId) (x : Thread) : (s.setThread t x).frees = s.frees := rfl
@[simp] theorem State.setThread_nextId (t : ThreadId) (x : Thread) : (s.setThread t x).nextId = s.nextId := rfl
@[simp] theorem State.setThread_stray (t : ThreadId) (x : Thread) : (s.setThread t x).stray = s.stray := rfl
@[simp] theorem State.setThread_agenda (t : ThreadId) (x : Thread) : (s.setThread t x).agenda = s.agenda := rfl
@[simp] theorem State.setThread_sent (t : ThreadId) (x : Thread) : (s.setThread t x).sent = s.sent := rfl
@[simp] theorem State.setThread_packets (t : ThreadId) (x : Thread) : (s.setThread t x).packets = s.packets := rfl
@[simp] theorem State.setThread_mem (t : ThreadId) (x : Thread) : (s.setThread t x).mem = s.mem := rfl
@[simp] theorem State.setThread_fe (t : ThreadId) (x : Thread) : (s.setThread t x).fe = s.fe := rfl
@[simp] theorem State.setThread_feq (t : ThreadId) (x : Thread) : (s.setThread t x).feq = s.feq := rfl
@[simp] theorem State.setThread_pois (t : ThreadId) (x : Thread) : (s.setThread t x).pois = s.pois := rfl
@[simp] theorem State.setThread_poisTag (t : ThreadId) (x : Thread) : (s.setThread t x).poisTag = s.poisTag := rfl
@[simp] theorem State.setThread_lineTag (t : ThreadId) (x : Thread) : (s.setThread t x).lineTag = s.lineTag := rfl
@[simp] theorem State.setThread_gmode (t : ThreadId) (x : Thread) : (s.setThread t x).gmode = s.gmode := rfl
@[simp] theorem State.setThread_bankCap (t : ThreadId) (x : Thread) : (s.setThread t x).bankCap = s.bankCap := rfl
@[simp] theorem State.setThread_vacated (t : ThreadId) (x : Thread) : (s.setThread t x).vacated = s.vacated := rfl
@[simp] theorem State.setThread_ctxs (t : ThreadId) (x : Thread) : (s.setThread t x).ctxs = s.ctxs := rfl
@[simp] theorem State.setThread_owners (t : ThreadId) (x : Thread) : (s.setThread t x).owners = s.owners := rfl
@[simp] theorem State.setThread_parts (t : ThreadId) (x : Thread) : (s.setThread t x).parts = s.parts := rfl
@[simp] theorem State.setThread_kettles (t : ThreadId) (x : Thread) : (s.setThread t x).kettles = s.kettles := rfl
@[simp] theorem State.setThread_l2 (t : ThreadId) (x : Thread) : (s.setThread t x).l2 = s.l2 := rfl
@[simp] theorem State.setThread_walks (t : ThreadId) (x : Thread) : (s.setThread t x).walks = s.walks := rfl
@[simp] theorem State.setThread_walkLast (t : ThreadId) (x : Thread) : (s.setThread t x).walkLast = s.walkLast := rfl
@[simp] theorem State.setThread_windows (t : ThreadId) (x : Thread) : (s.setThread t x).windows = s.windows := rfl
@[simp] theorem State.setThread_deliveries (t : ThreadId) (x : Thread) : (s.setThread t x).deliveries = s.deliveries := rfl
@[simp] theorem State.setThread_counts (t : ThreadId) (x : Thread) : (s.setThread t x).counts = s.counts := rfl
@[simp] theorem State.setThread_floor (t : ThreadId) (x : Thread) : (s.setThread t x).floor = s.floor := rfl

@[simp] theorem State.modThread_now (t : ThreadId) (f : Thread → Thread) : (s.modThread t f).now = s.now := rfl
@[simp] theorem State.modThread_lags (t : ThreadId) (f : Thread → Thread) : (s.modThread t f).lags = s.lags := rfl
@[simp] theorem State.modThread_cur (t : ThreadId) (f : Thread → Thread) : (s.modThread t f).cur = s.cur := rfl
@[simp] theorem State.modThread_src (t : ThreadId) (f : Thread → Thread) : (s.modThread t f).src = s.src := rfl
@[simp] theorem State.modThread_wakers (t : ThreadId) (f : Thread → Thread) : (s.modThread t f).wakers = s.wakers := rfl
@[simp] theorem State.modThread_choices (t : ThreadId) (f : Thread → Thread) : (s.modThread t f).choices = s.choices := rfl
@[simp] theorem State.modThread_frees (t : ThreadId) (f : Thread → Thread) : (s.modThread t f).frees = s.frees := rfl
@[simp] theorem State.modThread_nextId (t : ThreadId) (f : Thread → Thread) : (s.modThread t f).nextId = s.nextId := rfl
@[simp] theorem State.modThread_stray (t : ThreadId) (f : Thread → Thread) : (s.modThread t f).stray = s.stray := rfl
@[simp] theorem State.modThread_agenda (t : ThreadId) (f : Thread → Thread) : (s.modThread t f).agenda = s.agenda := rfl
@[simp] theorem State.modThread_sent (t : ThreadId) (f : Thread → Thread) : (s.modThread t f).sent = s.sent := rfl
@[simp] theorem State.modThread_packets (t : ThreadId) (f : Thread → Thread) : (s.modThread t f).packets = s.packets := rfl
@[simp] theorem State.modThread_mem (t : ThreadId) (f : Thread → Thread) : (s.modThread t f).mem = s.mem := rfl
@[simp] theorem State.modThread_fe (t : ThreadId) (f : Thread → Thread) : (s.modThread t f).fe = s.fe := rfl
@[simp] theorem State.modThread_feq (t : ThreadId) (f : Thread → Thread) : (s.modThread t f).feq = s.feq := rfl
@[simp] theorem State.modThread_pois (t : ThreadId) (f : Thread → Thread) : (s.modThread t f).pois = s.pois := rfl
@[simp] theorem State.modThread_poisTag (t : ThreadId) (f : Thread → Thread) : (s.modThread t f).poisTag = s.poisTag := rfl
@[simp] theorem State.modThread_lineTag (t : ThreadId) (f : Thread → Thread) : (s.modThread t f).lineTag = s.lineTag := rfl
@[simp] theorem State.modThread_gmode (t : ThreadId) (f : Thread → Thread) : (s.modThread t f).gmode = s.gmode := rfl
@[simp] theorem State.modThread_bankCap (t : ThreadId) (f : Thread → Thread) : (s.modThread t f).bankCap = s.bankCap := rfl
@[simp] theorem State.modThread_vacated (t : ThreadId) (f : Thread → Thread) : (s.modThread t f).vacated = s.vacated := rfl
@[simp] theorem State.modThread_ctxs (t : ThreadId) (f : Thread → Thread) : (s.modThread t f).ctxs = s.ctxs := rfl
@[simp] theorem State.modThread_owners (t : ThreadId) (f : Thread → Thread) : (s.modThread t f).owners = s.owners := rfl
@[simp] theorem State.modThread_parts (t : ThreadId) (f : Thread → Thread) : (s.modThread t f).parts = s.parts := rfl
@[simp] theorem State.modThread_kettles (t : ThreadId) (f : Thread → Thread) : (s.modThread t f).kettles = s.kettles := rfl
@[simp] theorem State.modThread_l2 (t : ThreadId) (f : Thread → Thread) : (s.modThread t f).l2 = s.l2 := rfl
@[simp] theorem State.modThread_walks (t : ThreadId) (f : Thread → Thread) : (s.modThread t f).walks = s.walks := rfl
@[simp] theorem State.modThread_walkLast (t : ThreadId) (f : Thread → Thread) : (s.modThread t f).walkLast = s.walkLast := rfl
@[simp] theorem State.modThread_windows (t : ThreadId) (f : Thread → Thread) : (s.modThread t f).windows = s.windows := rfl
@[simp] theorem State.modThread_deliveries (t : ThreadId) (f : Thread → Thread) : (s.modThread t f).deliveries = s.deliveries := rfl
@[simp] theorem State.modThread_counts (t : ThreadId) (f : Thread → Thread) : (s.modThread t f).counts = s.counts := rfl
@[simp] theorem State.modThread_floor (t : ThreadId) (f : Thread → Thread) : (s.modThread t f).floor = s.floor := rfl

@[simp] theorem State.modMe_now (f : Thread → Thread) : (s.modMe f).now = s.now := rfl
@[simp] theorem State.modMe_lags (f : Thread → Thread) : (s.modMe f).lags = s.lags := rfl
@[simp] theorem State.modMe_cur (f : Thread → Thread) : (s.modMe f).cur = s.cur := rfl
@[simp] theorem State.modMe_src (f : Thread → Thread) : (s.modMe f).src = s.src := rfl
@[simp] theorem State.modMe_wakers (f : Thread → Thread) : (s.modMe f).wakers = s.wakers := rfl
@[simp] theorem State.modMe_choices (f : Thread → Thread) : (s.modMe f).choices = s.choices := rfl
@[simp] theorem State.modMe_frees (f : Thread → Thread) : (s.modMe f).frees = s.frees := rfl
@[simp] theorem State.modMe_nextId (f : Thread → Thread) : (s.modMe f).nextId = s.nextId := rfl
@[simp] theorem State.modMe_stray (f : Thread → Thread) : (s.modMe f).stray = s.stray := rfl
@[simp] theorem State.modMe_agenda (f : Thread → Thread) : (s.modMe f).agenda = s.agenda := rfl
@[simp] theorem State.modMe_sent (f : Thread → Thread) : (s.modMe f).sent = s.sent := rfl
@[simp] theorem State.modMe_packets (f : Thread → Thread) : (s.modMe f).packets = s.packets := rfl
@[simp] theorem State.modMe_mem (f : Thread → Thread) : (s.modMe f).mem = s.mem := rfl
@[simp] theorem State.modMe_fe (f : Thread → Thread) : (s.modMe f).fe = s.fe := rfl
@[simp] theorem State.modMe_feq (f : Thread → Thread) : (s.modMe f).feq = s.feq := rfl
@[simp] theorem State.modMe_pois (f : Thread → Thread) : (s.modMe f).pois = s.pois := rfl
@[simp] theorem State.modMe_poisTag (f : Thread → Thread) : (s.modMe f).poisTag = s.poisTag := rfl
@[simp] theorem State.modMe_lineTag (f : Thread → Thread) : (s.modMe f).lineTag = s.lineTag := rfl
@[simp] theorem State.modMe_gmode (f : Thread → Thread) : (s.modMe f).gmode = s.gmode := rfl
@[simp] theorem State.modMe_bankCap (f : Thread → Thread) : (s.modMe f).bankCap = s.bankCap := rfl
@[simp] theorem State.modMe_vacated (f : Thread → Thread) : (s.modMe f).vacated = s.vacated := rfl
@[simp] theorem State.modMe_ctxs (f : Thread → Thread) : (s.modMe f).ctxs = s.ctxs := rfl
@[simp] theorem State.modMe_owners (f : Thread → Thread) : (s.modMe f).owners = s.owners := rfl
@[simp] theorem State.modMe_parts (f : Thread → Thread) : (s.modMe f).parts = s.parts := rfl
@[simp] theorem State.modMe_kettles (f : Thread → Thread) : (s.modMe f).kettles = s.kettles := rfl
@[simp] theorem State.modMe_l2 (f : Thread → Thread) : (s.modMe f).l2 = s.l2 := rfl
@[simp] theorem State.modMe_walks (f : Thread → Thread) : (s.modMe f).walks = s.walks := rfl
@[simp] theorem State.modMe_walkLast (f : Thread → Thread) : (s.modMe f).walkLast = s.walkLast := rfl
@[simp] theorem State.modMe_windows (f : Thread → Thread) : (s.modMe f).windows = s.windows := rfl
@[simp] theorem State.modMe_deliveries (f : Thread → Thread) : (s.modMe f).deliveries = s.deliveries := rfl
@[simp] theorem State.modMe_counts (f : Thread → Thread) : (s.modMe f).counts = s.counts := rfl
@[simp] theorem State.modMe_floor (f : Thread → Thread) : (s.modMe f).floor = s.floor := rfl

@[simp] theorem State.modMyTile_now (f : Tile → Tile) : (s.modMyTile f).now = s.now := rfl
@[simp] theorem State.modMyTile_lags (f : Tile → Tile) : (s.modMyTile f).lags = s.lags := rfl
@[simp] theorem State.modMyTile_cur (f : Tile → Tile) : (s.modMyTile f).cur = s.cur := rfl
@[simp] theorem State.modMyTile_src (f : Tile → Tile) : (s.modMyTile f).src = s.src := rfl
@[simp] theorem State.modMyTile_wakers (f : Tile → Tile) : (s.modMyTile f).wakers = s.wakers := rfl
@[simp] theorem State.modMyTile_choices (f : Tile → Tile) : (s.modMyTile f).choices = s.choices := rfl
@[simp] theorem State.modMyTile_frees (f : Tile → Tile) : (s.modMyTile f).frees = s.frees := rfl
@[simp] theorem State.modMyTile_nextId (f : Tile → Tile) : (s.modMyTile f).nextId = s.nextId := rfl
@[simp] theorem State.modMyTile_stray (f : Tile → Tile) : (s.modMyTile f).stray = s.stray := rfl
@[simp] theorem State.modMyTile_agenda (f : Tile → Tile) : (s.modMyTile f).agenda = s.agenda := rfl
@[simp] theorem State.modMyTile_sent (f : Tile → Tile) : (s.modMyTile f).sent = s.sent := rfl
@[simp] theorem State.modMyTile_packets (f : Tile → Tile) : (s.modMyTile f).packets = s.packets := rfl
@[simp] theorem State.modMyTile_mem (f : Tile → Tile) : (s.modMyTile f).mem = s.mem := rfl
@[simp] theorem State.modMyTile_fe (f : Tile → Tile) : (s.modMyTile f).fe = s.fe := rfl
@[simp] theorem State.modMyTile_feq (f : Tile → Tile) : (s.modMyTile f).feq = s.feq := rfl
@[simp] theorem State.modMyTile_pois (f : Tile → Tile) : (s.modMyTile f).pois = s.pois := rfl
@[simp] theorem State.modMyTile_poisTag (f : Tile → Tile) : (s.modMyTile f).poisTag = s.poisTag := rfl
@[simp] theorem State.modMyTile_lineTag (f : Tile → Tile) : (s.modMyTile f).lineTag = s.lineTag := rfl
@[simp] theorem State.modMyTile_gmode (f : Tile → Tile) : (s.modMyTile f).gmode = s.gmode := rfl
@[simp] theorem State.modMyTile_bankCap (f : Tile → Tile) : (s.modMyTile f).bankCap = s.bankCap := rfl
@[simp] theorem State.modMyTile_vacated (f : Tile → Tile) : (s.modMyTile f).vacated = s.vacated := rfl
@[simp] theorem State.modMyTile_ctxs (f : Tile → Tile) : (s.modMyTile f).ctxs = s.ctxs := rfl
@[simp] theorem State.modMyTile_owners (f : Tile → Tile) : (s.modMyTile f).owners = s.owners := rfl
@[simp] theorem State.modMyTile_parts (f : Tile → Tile) : (s.modMyTile f).parts = s.parts := rfl
@[simp] theorem State.modMyTile_kettles (f : Tile → Tile) : (s.modMyTile f).kettles = s.kettles := rfl
@[simp] theorem State.modMyTile_l2 (f : Tile → Tile) : (s.modMyTile f).l2 = s.l2 := rfl
@[simp] theorem State.modMyTile_walks (f : Tile → Tile) : (s.modMyTile f).walks = s.walks := rfl
@[simp] theorem State.modMyTile_walkLast (f : Tile → Tile) : (s.modMyTile f).walkLast = s.walkLast := rfl
@[simp] theorem State.modMyTile_windows (f : Tile → Tile) : (s.modMyTile f).windows = s.windows := rfl
@[simp] theorem State.modMyTile_deliveries (f : Tile → Tile) : (s.modMyTile f).deliveries = s.deliveries := rfl
@[simp] theorem State.modMyTile_counts (f : Tile → Tile) : (s.modMyTile f).counts = s.counts := rfl
@[simp] theorem State.modMyTile_floor (f : Tile → Tile) : (s.modMyTile f).floor = s.floor := rfl

@[simp] theorem State.setG_now (r : GReg) (v : Word) : (s.setG r v).now = s.now := rfl
@[simp] theorem State.setG_lags (r : GReg) (v : Word) : (s.setG r v).lags = s.lags := rfl
@[simp] theorem State.setG_cur (r : GReg) (v : Word) : (s.setG r v).cur = s.cur := rfl
@[simp] theorem State.setG_src (r : GReg) (v : Word) : (s.setG r v).src = s.src := rfl
@[simp] theorem State.setG_wakers (r : GReg) (v : Word) : (s.setG r v).wakers = s.wakers := rfl
@[simp] theorem State.setG_choices (r : GReg) (v : Word) : (s.setG r v).choices = s.choices := rfl
@[simp] theorem State.setG_frees (r : GReg) (v : Word) : (s.setG r v).frees = s.frees := rfl
@[simp] theorem State.setG_nextId (r : GReg) (v : Word) : (s.setG r v).nextId = s.nextId := rfl
@[simp] theorem State.setG_stray (r : GReg) (v : Word) : (s.setG r v).stray = s.stray := rfl
@[simp] theorem State.setG_agenda (r : GReg) (v : Word) : (s.setG r v).agenda = s.agenda := rfl
@[simp] theorem State.setG_sent (r : GReg) (v : Word) : (s.setG r v).sent = s.sent := rfl
@[simp] theorem State.setG_packets (r : GReg) (v : Word) : (s.setG r v).packets = s.packets := rfl
@[simp] theorem State.setG_mem (r : GReg) (v : Word) : (s.setG r v).mem = s.mem := rfl
@[simp] theorem State.setG_fe (r : GReg) (v : Word) : (s.setG r v).fe = s.fe := rfl
@[simp] theorem State.setG_feq (r : GReg) (v : Word) : (s.setG r v).feq = s.feq := rfl
@[simp] theorem State.setG_pois (r : GReg) (v : Word) : (s.setG r v).pois = s.pois := rfl
@[simp] theorem State.setG_poisTag (r : GReg) (v : Word) : (s.setG r v).poisTag = s.poisTag := rfl
@[simp] theorem State.setG_lineTag (r : GReg) (v : Word) : (s.setG r v).lineTag = s.lineTag := rfl
@[simp] theorem State.setG_gmode (r : GReg) (v : Word) : (s.setG r v).gmode = s.gmode := rfl
@[simp] theorem State.setG_bankCap (r : GReg) (v : Word) : (s.setG r v).bankCap = s.bankCap := rfl
@[simp] theorem State.setG_vacated (r : GReg) (v : Word) : (s.setG r v).vacated = s.vacated := rfl
@[simp] theorem State.setG_ctxs (r : GReg) (v : Word) : (s.setG r v).ctxs = s.ctxs := rfl
@[simp] theorem State.setG_owners (r : GReg) (v : Word) : (s.setG r v).owners = s.owners := rfl
@[simp] theorem State.setG_parts (r : GReg) (v : Word) : (s.setG r v).parts = s.parts := rfl
@[simp] theorem State.setG_kettles (r : GReg) (v : Word) : (s.setG r v).kettles = s.kettles := rfl
@[simp] theorem State.setG_l2 (r : GReg) (v : Word) : (s.setG r v).l2 = s.l2 := rfl
@[simp] theorem State.setG_walks (r : GReg) (v : Word) : (s.setG r v).walks = s.walks := rfl
@[simp] theorem State.setG_walkLast (r : GReg) (v : Word) : (s.setG r v).walkLast = s.walkLast := rfl
@[simp] theorem State.setG_windows (r : GReg) (v : Word) : (s.setG r v).windows = s.windows := rfl
@[simp] theorem State.setG_deliveries (r : GReg) (v : Word) : (s.setG r v).deliveries = s.deliveries := rfl
@[simp] theorem State.setG_counts (r : GReg) (v : Word) : (s.setG r v).counts = s.counts := rfl
@[simp] theorem State.setG_floor (r : GReg) (v : Word) : (s.setG r v).floor = s.floor := rfl

@[simp] theorem State.retireTo_now (t : ThreadId) (pc : Pc) : (s.retireTo t pc).now = s.now := rfl
@[simp] theorem State.retireTo_lags (t : ThreadId) (pc : Pc) : (s.retireTo t pc).lags = s.lags := rfl
@[simp] theorem State.retireTo_cur (t : ThreadId) (pc : Pc) : (s.retireTo t pc).cur = s.cur := rfl
@[simp] theorem State.retireTo_src (t : ThreadId) (pc : Pc) : (s.retireTo t pc).src = s.src := rfl
@[simp] theorem State.retireTo_wakers (t : ThreadId) (pc : Pc) : (s.retireTo t pc).wakers = s.wakers := rfl
@[simp] theorem State.retireTo_choices (t : ThreadId) (pc : Pc) : (s.retireTo t pc).choices = s.choices := rfl
@[simp] theorem State.retireTo_frees (t : ThreadId) (pc : Pc) : (s.retireTo t pc).frees = s.frees := rfl
@[simp] theorem State.retireTo_nextId (t : ThreadId) (pc : Pc) : (s.retireTo t pc).nextId = s.nextId := rfl
@[simp] theorem State.retireTo_stray (t : ThreadId) (pc : Pc) : (s.retireTo t pc).stray = s.stray := rfl
@[simp] theorem State.retireTo_agenda (t : ThreadId) (pc : Pc) : (s.retireTo t pc).agenda = s.agenda := rfl
@[simp] theorem State.retireTo_sent (t : ThreadId) (pc : Pc) : (s.retireTo t pc).sent = s.sent := rfl
@[simp] theorem State.retireTo_packets (t : ThreadId) (pc : Pc) : (s.retireTo t pc).packets = s.packets := rfl
@[simp] theorem State.retireTo_mem (t : ThreadId) (pc : Pc) : (s.retireTo t pc).mem = s.mem := rfl
@[simp] theorem State.retireTo_fe (t : ThreadId) (pc : Pc) : (s.retireTo t pc).fe = s.fe := rfl
@[simp] theorem State.retireTo_feq (t : ThreadId) (pc : Pc) : (s.retireTo t pc).feq = s.feq := rfl
@[simp] theorem State.retireTo_pois (t : ThreadId) (pc : Pc) : (s.retireTo t pc).pois = s.pois := rfl
@[simp] theorem State.retireTo_poisTag (t : ThreadId) (pc : Pc) : (s.retireTo t pc).poisTag = s.poisTag := rfl
@[simp] theorem State.retireTo_lineTag (t : ThreadId) (pc : Pc) : (s.retireTo t pc).lineTag = s.lineTag := rfl
@[simp] theorem State.retireTo_gmode (t : ThreadId) (pc : Pc) : (s.retireTo t pc).gmode = s.gmode := rfl
@[simp] theorem State.retireTo_bankCap (t : ThreadId) (pc : Pc) : (s.retireTo t pc).bankCap = s.bankCap := rfl
@[simp] theorem State.retireTo_vacated (t : ThreadId) (pc : Pc) : (s.retireTo t pc).vacated = s.vacated := rfl
@[simp] theorem State.retireTo_ctxs (t : ThreadId) (pc : Pc) : (s.retireTo t pc).ctxs = s.ctxs := rfl
@[simp] theorem State.retireTo_owners (t : ThreadId) (pc : Pc) : (s.retireTo t pc).owners = s.owners := rfl
@[simp] theorem State.retireTo_parts (t : ThreadId) (pc : Pc) : (s.retireTo t pc).parts = s.parts := rfl
@[simp] theorem State.retireTo_kettles (t : ThreadId) (pc : Pc) : (s.retireTo t pc).kettles = s.kettles := rfl
@[simp] theorem State.retireTo_l2 (t : ThreadId) (pc : Pc) : (s.retireTo t pc).l2 = s.l2 := rfl
@[simp] theorem State.retireTo_walks (t : ThreadId) (pc : Pc) : (s.retireTo t pc).walks = s.walks := rfl
@[simp] theorem State.retireTo_walkLast (t : ThreadId) (pc : Pc) : (s.retireTo t pc).walkLast = s.walkLast := rfl
@[simp] theorem State.retireTo_windows (t : ThreadId) (pc : Pc) : (s.retireTo t pc).windows = s.windows := rfl
@[simp] theorem State.retireTo_deliveries (t : ThreadId) (pc : Pc) : (s.retireTo t pc).deliveries = s.deliveries := rfl
@[simp] theorem State.retireTo_counts (t : ThreadId) (pc : Pc) : (s.retireTo t pc).counts = s.counts := rfl
@[simp] theorem State.retireTo_floor (t : ThreadId) (pc : Pc) : (s.retireTo t pc).floor = s.floor := rfl

@[simp] theorem State.retireLen_now (n : Nat) : (s.retireLen n).now = s.now := rfl
@[simp] theorem State.retireLen_lags (n : Nat) : (s.retireLen n).lags = s.lags := rfl
@[simp] theorem State.retireLen_cur (n : Nat) : (s.retireLen n).cur = s.cur := rfl
@[simp] theorem State.retireLen_src (n : Nat) : (s.retireLen n).src = s.src := rfl
@[simp] theorem State.retireLen_wakers (n : Nat) : (s.retireLen n).wakers = s.wakers := rfl
@[simp] theorem State.retireLen_choices (n : Nat) : (s.retireLen n).choices = s.choices := rfl
@[simp] theorem State.retireLen_frees (n : Nat) : (s.retireLen n).frees = s.frees := rfl
@[simp] theorem State.retireLen_nextId (n : Nat) : (s.retireLen n).nextId = s.nextId := rfl
@[simp] theorem State.retireLen_stray (n : Nat) : (s.retireLen n).stray = s.stray := rfl
@[simp] theorem State.retireLen_agenda (n : Nat) : (s.retireLen n).agenda = s.agenda := rfl
@[simp] theorem State.retireLen_sent (n : Nat) : (s.retireLen n).sent = s.sent := rfl
@[simp] theorem State.retireLen_packets (n : Nat) : (s.retireLen n).packets = s.packets := rfl
@[simp] theorem State.retireLen_mem (n : Nat) : (s.retireLen n).mem = s.mem := rfl
@[simp] theorem State.retireLen_fe (n : Nat) : (s.retireLen n).fe = s.fe := rfl
@[simp] theorem State.retireLen_feq (n : Nat) : (s.retireLen n).feq = s.feq := rfl
@[simp] theorem State.retireLen_pois (n : Nat) : (s.retireLen n).pois = s.pois := rfl
@[simp] theorem State.retireLen_poisTag (n : Nat) : (s.retireLen n).poisTag = s.poisTag := rfl
@[simp] theorem State.retireLen_lineTag (n : Nat) : (s.retireLen n).lineTag = s.lineTag := rfl
@[simp] theorem State.retireLen_gmode (n : Nat) : (s.retireLen n).gmode = s.gmode := rfl
@[simp] theorem State.retireLen_bankCap (n : Nat) : (s.retireLen n).bankCap = s.bankCap := rfl
@[simp] theorem State.retireLen_vacated (n : Nat) : (s.retireLen n).vacated = s.vacated := rfl
@[simp] theorem State.retireLen_ctxs (n : Nat) : (s.retireLen n).ctxs = s.ctxs := rfl
@[simp] theorem State.retireLen_owners (n : Nat) : (s.retireLen n).owners = s.owners := rfl
@[simp] theorem State.retireLen_parts (n : Nat) : (s.retireLen n).parts = s.parts := rfl
@[simp] theorem State.retireLen_kettles (n : Nat) : (s.retireLen n).kettles = s.kettles := rfl
@[simp] theorem State.retireLen_l2 (n : Nat) : (s.retireLen n).l2 = s.l2 := rfl
@[simp] theorem State.retireLen_walks (n : Nat) : (s.retireLen n).walks = s.walks := rfl
@[simp] theorem State.retireLen_walkLast (n : Nat) : (s.retireLen n).walkLast = s.walkLast := rfl
@[simp] theorem State.retireLen_windows (n : Nat) : (s.retireLen n).windows = s.windows := rfl
@[simp] theorem State.retireLen_deliveries (n : Nat) : (s.retireLen n).deliveries = s.deliveries := rfl
@[simp] theorem State.retireLen_counts (n : Nat) : (s.retireLen n).counts = s.counts := rfl
@[simp] theorem State.retireLen_floor (n : Nat) : (s.retireLen n).floor = s.floor := rfl

@[simp] theorem State.retire_now : (s.retire).now = s.now := rfl
@[simp] theorem State.retire_lags : (s.retire).lags = s.lags := rfl
@[simp] theorem State.retire_cur : (s.retire).cur = s.cur := rfl
@[simp] theorem State.retire_src : (s.retire).src = s.src := rfl
@[simp] theorem State.retire_wakers : (s.retire).wakers = s.wakers := rfl
@[simp] theorem State.retire_choices : (s.retire).choices = s.choices := rfl
@[simp] theorem State.retire_frees : (s.retire).frees = s.frees := rfl
@[simp] theorem State.retire_nextId : (s.retire).nextId = s.nextId := rfl
@[simp] theorem State.retire_stray : (s.retire).stray = s.stray := rfl
@[simp] theorem State.retire_agenda : (s.retire).agenda = s.agenda := rfl
@[simp] theorem State.retire_sent : (s.retire).sent = s.sent := rfl
@[simp] theorem State.retire_packets : (s.retire).packets = s.packets := rfl
@[simp] theorem State.retire_mem : (s.retire).mem = s.mem := rfl
@[simp] theorem State.retire_fe : (s.retire).fe = s.fe := rfl
@[simp] theorem State.retire_feq : (s.retire).feq = s.feq := rfl
@[simp] theorem State.retire_pois : (s.retire).pois = s.pois := rfl
@[simp] theorem State.retire_poisTag : (s.retire).poisTag = s.poisTag := rfl
@[simp] theorem State.retire_lineTag : (s.retire).lineTag = s.lineTag := rfl
@[simp] theorem State.retire_gmode : (s.retire).gmode = s.gmode := rfl
@[simp] theorem State.retire_bankCap : (s.retire).bankCap = s.bankCap := rfl
@[simp] theorem State.retire_vacated : (s.retire).vacated = s.vacated := rfl
@[simp] theorem State.retire_ctxs : (s.retire).ctxs = s.ctxs := rfl
@[simp] theorem State.retire_owners : (s.retire).owners = s.owners := rfl
@[simp] theorem State.retire_parts : (s.retire).parts = s.parts := rfl
@[simp] theorem State.retire_kettles : (s.retire).kettles = s.kettles := rfl
@[simp] theorem State.retire_l2 : (s.retire).l2 = s.l2 := rfl
@[simp] theorem State.retire_walks : (s.retire).walks = s.walks := rfl
@[simp] theorem State.retire_walkLast : (s.retire).walkLast = s.walkLast := rfl
@[simp] theorem State.retire_windows : (s.retire).windows = s.windows := rfl
@[simp] theorem State.retire_deliveries : (s.retire).deliveries = s.deliveries := rfl
@[simp] theorem State.retire_counts : (s.retire).counts = s.counts := rfl
@[simp] theorem State.retire_floor : (s.retire).floor = s.floor := rfl

@[simp] theorem State.retireLast_now : (s.retireLast).now = s.now := rfl
@[simp] theorem State.retireLast_lags : (s.retireLast).lags = s.lags := rfl
@[simp] theorem State.retireLast_cur : (s.retireLast).cur = s.cur := rfl
@[simp] theorem State.retireLast_src : (s.retireLast).src = s.src := rfl
@[simp] theorem State.retireLast_wakers : (s.retireLast).wakers = s.wakers := rfl
@[simp] theorem State.retireLast_choices : (s.retireLast).choices = s.choices := rfl
@[simp] theorem State.retireLast_frees : (s.retireLast).frees = s.frees := rfl
@[simp] theorem State.retireLast_nextId : (s.retireLast).nextId = s.nextId := rfl
@[simp] theorem State.retireLast_stray : (s.retireLast).stray = s.stray := rfl
@[simp] theorem State.retireLast_agenda : (s.retireLast).agenda = s.agenda := rfl
@[simp] theorem State.retireLast_sent : (s.retireLast).sent = s.sent := rfl
@[simp] theorem State.retireLast_packets : (s.retireLast).packets = s.packets := rfl
@[simp] theorem State.retireLast_mem : (s.retireLast).mem = s.mem := rfl
@[simp] theorem State.retireLast_fe : (s.retireLast).fe = s.fe := rfl
@[simp] theorem State.retireLast_feq : (s.retireLast).feq = s.feq := rfl
@[simp] theorem State.retireLast_pois : (s.retireLast).pois = s.pois := rfl
@[simp] theorem State.retireLast_poisTag : (s.retireLast).poisTag = s.poisTag := rfl
@[simp] theorem State.retireLast_lineTag : (s.retireLast).lineTag = s.lineTag := rfl
@[simp] theorem State.retireLast_gmode : (s.retireLast).gmode = s.gmode := rfl
@[simp] theorem State.retireLast_bankCap : (s.retireLast).bankCap = s.bankCap := rfl
@[simp] theorem State.retireLast_vacated : (s.retireLast).vacated = s.vacated := rfl
@[simp] theorem State.retireLast_ctxs : (s.retireLast).ctxs = s.ctxs := rfl
@[simp] theorem State.retireLast_owners : (s.retireLast).owners = s.owners := rfl
@[simp] theorem State.retireLast_parts : (s.retireLast).parts = s.parts := rfl
@[simp] theorem State.retireLast_kettles : (s.retireLast).kettles = s.kettles := rfl
@[simp] theorem State.retireLast_l2 : (s.retireLast).l2 = s.l2 := rfl
@[simp] theorem State.retireLast_walks : (s.retireLast).walks = s.walks := rfl
@[simp] theorem State.retireLast_walkLast : (s.retireLast).walkLast = s.walkLast := rfl
@[simp] theorem State.retireLast_windows : (s.retireLast).windows = s.windows := rfl
@[simp] theorem State.retireLast_deliveries : (s.retireLast).deliveries = s.deliveries := rfl
@[simp] theorem State.retireLast_counts : (s.retireLast).counts = s.counts := rfl
@[simp] theorem State.retireLast_floor : (s.retireLast).floor = s.floor := rfl

@[simp] theorem State.held_now : (s.held).now = s.now := rfl
@[simp] theorem State.held_lags : (s.held).lags = s.lags := rfl
@[simp] theorem State.held_cur : (s.held).cur = s.cur := rfl
@[simp] theorem State.held_src : (s.held).src = s.src := rfl
@[simp] theorem State.held_wakers : (s.held).wakers = s.wakers := rfl
@[simp] theorem State.held_choices : (s.held).choices = s.choices := rfl
@[simp] theorem State.held_frees : (s.held).frees = s.frees := rfl
@[simp] theorem State.held_nextId : (s.held).nextId = s.nextId := rfl
@[simp] theorem State.held_stray : (s.held).stray = s.stray := rfl
@[simp] theorem State.held_agenda : (s.held).agenda = s.agenda := rfl
@[simp] theorem State.held_sent : (s.held).sent = s.sent := rfl
@[simp] theorem State.held_packets : (s.held).packets = s.packets := rfl
@[simp] theorem State.held_mem : (s.held).mem = s.mem := rfl
@[simp] theorem State.held_fe : (s.held).fe = s.fe := rfl
@[simp] theorem State.held_feq : (s.held).feq = s.feq := rfl
@[simp] theorem State.held_pois : (s.held).pois = s.pois := rfl
@[simp] theorem State.held_poisTag : (s.held).poisTag = s.poisTag := rfl
@[simp] theorem State.held_lineTag : (s.held).lineTag = s.lineTag := rfl
@[simp] theorem State.held_gmode : (s.held).gmode = s.gmode := rfl
@[simp] theorem State.held_bankCap : (s.held).bankCap = s.bankCap := rfl
@[simp] theorem State.held_vacated : (s.held).vacated = s.vacated := rfl
@[simp] theorem State.held_ctxs : (s.held).ctxs = s.ctxs := rfl
@[simp] theorem State.held_owners : (s.held).owners = s.owners := rfl
@[simp] theorem State.held_parts : (s.held).parts = s.parts := rfl
@[simp] theorem State.held_kettles : (s.held).kettles = s.kettles := rfl
@[simp] theorem State.held_l2 : (s.held).l2 = s.l2 := rfl
@[simp] theorem State.held_walks : (s.held).walks = s.walks := rfl
@[simp] theorem State.held_walkLast : (s.held).walkLast = s.walkLast := rfl
@[simp] theorem State.held_windows : (s.held).windows = s.windows := rfl
@[simp] theorem State.held_deliveries : (s.held).deliveries = s.deliveries := rfl
@[simp] theorem State.held_counts : (s.held).counts = s.counts := rfl
@[simp] theorem State.held_floor : (s.held).floor = s.floor := rfl

@[simp] theorem State.await_now : (s.await).now = s.now := rfl
@[simp] theorem State.await_lags : (s.await).lags = s.lags := rfl
@[simp] theorem State.await_cur : (s.await).cur = s.cur := rfl
@[simp] theorem State.await_src : (s.await).src = s.src := rfl
@[simp] theorem State.await_wakers : (s.await).wakers = s.wakers := rfl
@[simp] theorem State.await_choices : (s.await).choices = s.choices := rfl
@[simp] theorem State.await_frees : (s.await).frees = s.frees := rfl
@[simp] theorem State.await_nextId : (s.await).nextId = s.nextId := rfl
@[simp] theorem State.await_stray : (s.await).stray = s.stray := rfl
@[simp] theorem State.await_agenda : (s.await).agenda = s.agenda := rfl
@[simp] theorem State.await_sent : (s.await).sent = s.sent := rfl
@[simp] theorem State.await_packets : (s.await).packets = s.packets := rfl
@[simp] theorem State.await_mem : (s.await).mem = s.mem := rfl
@[simp] theorem State.await_fe : (s.await).fe = s.fe := rfl
@[simp] theorem State.await_feq : (s.await).feq = s.feq := rfl
@[simp] theorem State.await_pois : (s.await).pois = s.pois := rfl
@[simp] theorem State.await_poisTag : (s.await).poisTag = s.poisTag := rfl
@[simp] theorem State.await_lineTag : (s.await).lineTag = s.lineTag := rfl
@[simp] theorem State.await_gmode : (s.await).gmode = s.gmode := rfl
@[simp] theorem State.await_bankCap : (s.await).bankCap = s.bankCap := rfl
@[simp] theorem State.await_vacated : (s.await).vacated = s.vacated := rfl
@[simp] theorem State.await_ctxs : (s.await).ctxs = s.ctxs := rfl
@[simp] theorem State.await_owners : (s.await).owners = s.owners := rfl
@[simp] theorem State.await_parts : (s.await).parts = s.parts := rfl
@[simp] theorem State.await_kettles : (s.await).kettles = s.kettles := rfl
@[simp] theorem State.await_l2 : (s.await).l2 = s.l2 := rfl
@[simp] theorem State.await_walks : (s.await).walks = s.walks := rfl
@[simp] theorem State.await_walkLast : (s.await).walkLast = s.walkLast := rfl
@[simp] theorem State.await_windows : (s.await).windows = s.windows := rfl
@[simp] theorem State.await_deliveries : (s.await).deliveries = s.deliveries := rfl
@[simp] theorem State.await_counts : (s.await).counts = s.counts := rfl
@[simp] theorem State.await_floor : (s.await).floor = s.floor := rfl

@[simp] theorem State.enterHandler_now (t : ThreadId) (h : Priv) (c : Nat) (v : Word) (l : Bool) : (s.enterHandler t h c v l).now = s.now := rfl
@[simp] theorem State.enterHandler_lags (t : ThreadId) (h : Priv) (c : Nat) (v : Word) (l : Bool) : (s.enterHandler t h c v l).lags = s.lags := rfl
@[simp] theorem State.enterHandler_cur (t : ThreadId) (h : Priv) (c : Nat) (v : Word) (l : Bool) : (s.enterHandler t h c v l).cur = s.cur := rfl
@[simp] theorem State.enterHandler_src (t : ThreadId) (h : Priv) (c : Nat) (v : Word) (l : Bool) : (s.enterHandler t h c v l).src = s.src := rfl
@[simp] theorem State.enterHandler_wakers (t : ThreadId) (h : Priv) (c : Nat) (v : Word) (l : Bool) : (s.enterHandler t h c v l).wakers = s.wakers := rfl
@[simp] theorem State.enterHandler_choices (t : ThreadId) (h : Priv) (c : Nat) (v : Word) (l : Bool) : (s.enterHandler t h c v l).choices = s.choices := rfl
@[simp] theorem State.enterHandler_frees (t : ThreadId) (h : Priv) (c : Nat) (v : Word) (l : Bool) : (s.enterHandler t h c v l).frees = s.frees := rfl
@[simp] theorem State.enterHandler_nextId (t : ThreadId) (h : Priv) (c : Nat) (v : Word) (l : Bool) : (s.enterHandler t h c v l).nextId = s.nextId := rfl
@[simp] theorem State.enterHandler_stray (t : ThreadId) (h : Priv) (c : Nat) (v : Word) (l : Bool) : (s.enterHandler t h c v l).stray = s.stray := rfl
@[simp] theorem State.enterHandler_agenda (t : ThreadId) (h : Priv) (c : Nat) (v : Word) (l : Bool) : (s.enterHandler t h c v l).agenda = s.agenda := rfl
@[simp] theorem State.enterHandler_sent (t : ThreadId) (h : Priv) (c : Nat) (v : Word) (l : Bool) : (s.enterHandler t h c v l).sent = s.sent := rfl
@[simp] theorem State.enterHandler_packets (t : ThreadId) (h : Priv) (c : Nat) (v : Word) (l : Bool) : (s.enterHandler t h c v l).packets = s.packets := rfl
@[simp] theorem State.enterHandler_mem (t : ThreadId) (h : Priv) (c : Nat) (v : Word) (l : Bool) : (s.enterHandler t h c v l).mem = s.mem := rfl
@[simp] theorem State.enterHandler_fe (t : ThreadId) (h : Priv) (c : Nat) (v : Word) (l : Bool) : (s.enterHandler t h c v l).fe = s.fe := rfl
@[simp] theorem State.enterHandler_feq (t : ThreadId) (h : Priv) (c : Nat) (v : Word) (l : Bool) : (s.enterHandler t h c v l).feq = s.feq := rfl
@[simp] theorem State.enterHandler_pois (t : ThreadId) (h : Priv) (c : Nat) (v : Word) (l : Bool) : (s.enterHandler t h c v l).pois = s.pois := rfl
@[simp] theorem State.enterHandler_poisTag (t : ThreadId) (h : Priv) (c : Nat) (v : Word) (l : Bool) : (s.enterHandler t h c v l).poisTag = s.poisTag := rfl
@[simp] theorem State.enterHandler_lineTag (t : ThreadId) (h : Priv) (c : Nat) (v : Word) (l : Bool) : (s.enterHandler t h c v l).lineTag = s.lineTag := rfl
@[simp] theorem State.enterHandler_gmode (t : ThreadId) (h : Priv) (c : Nat) (v : Word) (l : Bool) : (s.enterHandler t h c v l).gmode = s.gmode := rfl
@[simp] theorem State.enterHandler_bankCap (t : ThreadId) (h : Priv) (c : Nat) (v : Word) (l : Bool) : (s.enterHandler t h c v l).bankCap = s.bankCap := rfl
@[simp] theorem State.enterHandler_vacated (t : ThreadId) (h : Priv) (c : Nat) (v : Word) (l : Bool) : (s.enterHandler t h c v l).vacated = s.vacated := rfl
@[simp] theorem State.enterHandler_ctxs (t : ThreadId) (h : Priv) (c : Nat) (v : Word) (l : Bool) : (s.enterHandler t h c v l).ctxs = s.ctxs := rfl
@[simp] theorem State.enterHandler_owners (t : ThreadId) (h : Priv) (c : Nat) (v : Word) (l : Bool) : (s.enterHandler t h c v l).owners = s.owners := rfl
@[simp] theorem State.enterHandler_parts (t : ThreadId) (h : Priv) (c : Nat) (v : Word) (l : Bool) : (s.enterHandler t h c v l).parts = s.parts := rfl
@[simp] theorem State.enterHandler_kettles (t : ThreadId) (h : Priv) (c : Nat) (v : Word) (l : Bool) : (s.enterHandler t h c v l).kettles = s.kettles := rfl
@[simp] theorem State.enterHandler_l2 (t : ThreadId) (h : Priv) (c : Nat) (v : Word) (l : Bool) : (s.enterHandler t h c v l).l2 = s.l2 := rfl
@[simp] theorem State.enterHandler_walks (t : ThreadId) (h : Priv) (c : Nat) (v : Word) (l : Bool) : (s.enterHandler t h c v l).walks = s.walks := rfl
@[simp] theorem State.enterHandler_walkLast (t : ThreadId) (h : Priv) (c : Nat) (v : Word) (l : Bool) : (s.enterHandler t h c v l).walkLast = s.walkLast := rfl
@[simp] theorem State.enterHandler_windows (t : ThreadId) (h : Priv) (c : Nat) (v : Word) (l : Bool) : (s.enterHandler t h c v l).windows = s.windows := rfl
@[simp] theorem State.enterHandler_deliveries (t : ThreadId) (h : Priv) (c : Nat) (v : Word) (l : Bool) : (s.enterHandler t h c v l).deliveries = s.deliveries := rfl
@[simp] theorem State.enterHandler_counts (t : ThreadId) (h : Priv) (c : Nat) (v : Word) (l : Bool) : (s.enterHandler t h c v l).counts = s.counts := rfl
@[simp] theorem State.enterHandler_floor (t : ThreadId) (h : Priv) (c : Nat) (v : Word) (l : Bool) : (s.enterHandler t h c v l).floor = s.floor := rfl

@[simp] theorem State.eret_now : (s.eret).now = s.now := rfl
@[simp] theorem State.eret_lags : (s.eret).lags = s.lags := rfl
@[simp] theorem State.eret_cur : (s.eret).cur = s.cur := rfl
@[simp] theorem State.eret_src : (s.eret).src = s.src := rfl
@[simp] theorem State.eret_wakers : (s.eret).wakers = s.wakers := rfl
@[simp] theorem State.eret_choices : (s.eret).choices = s.choices := rfl
@[simp] theorem State.eret_frees : (s.eret).frees = s.frees := rfl
@[simp] theorem State.eret_nextId : (s.eret).nextId = s.nextId := rfl
@[simp] theorem State.eret_stray : (s.eret).stray = s.stray := rfl
@[simp] theorem State.eret_agenda : (s.eret).agenda = s.agenda := rfl
@[simp] theorem State.eret_sent : (s.eret).sent = s.sent := rfl
@[simp] theorem State.eret_packets : (s.eret).packets = s.packets := rfl
@[simp] theorem State.eret_mem : (s.eret).mem = s.mem := rfl
@[simp] theorem State.eret_fe : (s.eret).fe = s.fe := rfl
@[simp] theorem State.eret_feq : (s.eret).feq = s.feq := rfl
@[simp] theorem State.eret_pois : (s.eret).pois = s.pois := rfl
@[simp] theorem State.eret_poisTag : (s.eret).poisTag = s.poisTag := rfl
@[simp] theorem State.eret_lineTag : (s.eret).lineTag = s.lineTag := rfl
@[simp] theorem State.eret_gmode : (s.eret).gmode = s.gmode := rfl
@[simp] theorem State.eret_bankCap : (s.eret).bankCap = s.bankCap := rfl
@[simp] theorem State.eret_vacated : (s.eret).vacated = s.vacated := rfl
@[simp] theorem State.eret_ctxs : (s.eret).ctxs = s.ctxs := rfl
@[simp] theorem State.eret_owners : (s.eret).owners = s.owners := rfl
@[simp] theorem State.eret_parts : (s.eret).parts = s.parts := rfl
@[simp] theorem State.eret_kettles : (s.eret).kettles = s.kettles := rfl
@[simp] theorem State.eret_l2 : (s.eret).l2 = s.l2 := rfl
@[simp] theorem State.eret_walks : (s.eret).walks = s.walks := rfl
@[simp] theorem State.eret_walkLast : (s.eret).walkLast = s.walkLast := rfl
@[simp] theorem State.eret_windows : (s.eret).windows = s.windows := rfl
@[simp] theorem State.eret_deliveries : (s.eret).deliveries = s.deliveries := rfl
@[simp] theorem State.eret_counts : (s.eret).counts = s.counts := rfl
@[simp] theorem State.eret_floor : (s.eret).floor = s.floor := rfl

@[simp] theorem State.modTwin_now (t : ThreadId) (f : Twin → Twin) : (s.modTwin t f).now = s.now := rfl
@[simp] theorem State.modTwin_lags (t : ThreadId) (f : Twin → Twin) : (s.modTwin t f).lags = s.lags := rfl
@[simp] theorem State.modTwin_cur (t : ThreadId) (f : Twin → Twin) : (s.modTwin t f).cur = s.cur := rfl
@[simp] theorem State.modTwin_src (t : ThreadId) (f : Twin → Twin) : (s.modTwin t f).src = s.src := rfl
@[simp] theorem State.modTwin_wakers (t : ThreadId) (f : Twin → Twin) : (s.modTwin t f).wakers = s.wakers := rfl
@[simp] theorem State.modTwin_choices (t : ThreadId) (f : Twin → Twin) : (s.modTwin t f).choices = s.choices := rfl
@[simp] theorem State.modTwin_frees (t : ThreadId) (f : Twin → Twin) : (s.modTwin t f).frees = s.frees := rfl
@[simp] theorem State.modTwin_nextId (t : ThreadId) (f : Twin → Twin) : (s.modTwin t f).nextId = s.nextId := rfl
@[simp] theorem State.modTwin_stray (t : ThreadId) (f : Twin → Twin) : (s.modTwin t f).stray = s.stray := rfl
@[simp] theorem State.modTwin_agenda (t : ThreadId) (f : Twin → Twin) : (s.modTwin t f).agenda = s.agenda := rfl
@[simp] theorem State.modTwin_sent (t : ThreadId) (f : Twin → Twin) : (s.modTwin t f).sent = s.sent := rfl
@[simp] theorem State.modTwin_packets (t : ThreadId) (f : Twin → Twin) : (s.modTwin t f).packets = s.packets := rfl
@[simp] theorem State.modTwin_mem (t : ThreadId) (f : Twin → Twin) : (s.modTwin t f).mem = s.mem := rfl
@[simp] theorem State.modTwin_fe (t : ThreadId) (f : Twin → Twin) : (s.modTwin t f).fe = s.fe := rfl
@[simp] theorem State.modTwin_feq (t : ThreadId) (f : Twin → Twin) : (s.modTwin t f).feq = s.feq := rfl
@[simp] theorem State.modTwin_pois (t : ThreadId) (f : Twin → Twin) : (s.modTwin t f).pois = s.pois := rfl
@[simp] theorem State.modTwin_poisTag (t : ThreadId) (f : Twin → Twin) : (s.modTwin t f).poisTag = s.poisTag := rfl
@[simp] theorem State.modTwin_lineTag (t : ThreadId) (f : Twin → Twin) : (s.modTwin t f).lineTag = s.lineTag := rfl
@[simp] theorem State.modTwin_gmode (t : ThreadId) (f : Twin → Twin) : (s.modTwin t f).gmode = s.gmode := rfl
@[simp] theorem State.modTwin_bankCap (t : ThreadId) (f : Twin → Twin) : (s.modTwin t f).bankCap = s.bankCap := rfl
@[simp] theorem State.modTwin_vacated (t : ThreadId) (f : Twin → Twin) : (s.modTwin t f).vacated = s.vacated := rfl
@[simp] theorem State.modTwin_ctxs (t : ThreadId) (f : Twin → Twin) : (s.modTwin t f).ctxs = s.ctxs := rfl
@[simp] theorem State.modTwin_owners (t : ThreadId) (f : Twin → Twin) : (s.modTwin t f).owners = s.owners := rfl
@[simp] theorem State.modTwin_parts (t : ThreadId) (f : Twin → Twin) : (s.modTwin t f).parts = s.parts := rfl
@[simp] theorem State.modTwin_kettles (t : ThreadId) (f : Twin → Twin) : (s.modTwin t f).kettles = s.kettles := rfl
@[simp] theorem State.modTwin_l2 (t : ThreadId) (f : Twin → Twin) : (s.modTwin t f).l2 = s.l2 := rfl
@[simp] theorem State.modTwin_walks (t : ThreadId) (f : Twin → Twin) : (s.modTwin t f).walks = s.walks := rfl
@[simp] theorem State.modTwin_walkLast (t : ThreadId) (f : Twin → Twin) : (s.modTwin t f).walkLast = s.walkLast := rfl
@[simp] theorem State.modTwin_windows (t : ThreadId) (f : Twin → Twin) : (s.modTwin t f).windows = s.windows := rfl
@[simp] theorem State.modTwin_deliveries (t : ThreadId) (f : Twin → Twin) : (s.modTwin t f).deliveries = s.deliveries := rfl
@[simp] theorem State.modTwin_counts (t : ThreadId) (f : Twin → Twin) : (s.modTwin t f).counts = s.counts := rfl
@[simp] theorem State.modTwin_floor (t : ThreadId) (f : Twin → Twin) : (s.modTwin t f).floor = s.floor := rfl

@[simp] theorem State.setPart_now (n : Nat) (x : Partition) : (s.setPart n x).now = s.now := rfl
@[simp] theorem State.setPart_lags (n : Nat) (x : Partition) : (s.setPart n x).lags = s.lags := rfl
@[simp] theorem State.setPart_cur (n : Nat) (x : Partition) : (s.setPart n x).cur = s.cur := rfl
@[simp] theorem State.setPart_src (n : Nat) (x : Partition) : (s.setPart n x).src = s.src := rfl
@[simp] theorem State.setPart_wakers (n : Nat) (x : Partition) : (s.setPart n x).wakers = s.wakers := rfl
@[simp] theorem State.setPart_choices (n : Nat) (x : Partition) : (s.setPart n x).choices = s.choices := rfl
@[simp] theorem State.setPart_frees (n : Nat) (x : Partition) : (s.setPart n x).frees = s.frees := rfl
@[simp] theorem State.setPart_nextId (n : Nat) (x : Partition) : (s.setPart n x).nextId = s.nextId := rfl
@[simp] theorem State.setPart_stray (n : Nat) (x : Partition) : (s.setPart n x).stray = s.stray := rfl
@[simp] theorem State.setPart_agenda (n : Nat) (x : Partition) : (s.setPart n x).agenda = s.agenda := rfl
@[simp] theorem State.setPart_sent (n : Nat) (x : Partition) : (s.setPart n x).sent = s.sent := rfl
@[simp] theorem State.setPart_packets (n : Nat) (x : Partition) : (s.setPart n x).packets = s.packets := rfl
@[simp] theorem State.setPart_mem (n : Nat) (x : Partition) : (s.setPart n x).mem = s.mem := rfl
@[simp] theorem State.setPart_fe (n : Nat) (x : Partition) : (s.setPart n x).fe = s.fe := rfl
@[simp] theorem State.setPart_feq (n : Nat) (x : Partition) : (s.setPart n x).feq = s.feq := rfl
@[simp] theorem State.setPart_pois (n : Nat) (x : Partition) : (s.setPart n x).pois = s.pois := rfl
@[simp] theorem State.setPart_poisTag (n : Nat) (x : Partition) : (s.setPart n x).poisTag = s.poisTag := rfl
@[simp] theorem State.setPart_lineTag (n : Nat) (x : Partition) : (s.setPart n x).lineTag = s.lineTag := rfl
@[simp] theorem State.setPart_gmode (n : Nat) (x : Partition) : (s.setPart n x).gmode = s.gmode := rfl
@[simp] theorem State.setPart_bankCap (n : Nat) (x : Partition) : (s.setPart n x).bankCap = s.bankCap := rfl
@[simp] theorem State.setPart_vacated (n : Nat) (x : Partition) : (s.setPart n x).vacated = s.vacated := rfl
@[simp] theorem State.setPart_tiles (n : Nat) (x : Partition) : (s.setPart n x).tiles = s.tiles := rfl
@[simp] theorem State.setPart_ctxs (n : Nat) (x : Partition) : (s.setPart n x).ctxs = s.ctxs := rfl
@[simp] theorem State.setPart_owners (n : Nat) (x : Partition) : (s.setPart n x).owners = s.owners := rfl
@[simp] theorem State.setPart_kettles (n : Nat) (x : Partition) : (s.setPart n x).kettles = s.kettles := rfl
@[simp] theorem State.setPart_l2 (n : Nat) (x : Partition) : (s.setPart n x).l2 = s.l2 := rfl
@[simp] theorem State.setPart_walks (n : Nat) (x : Partition) : (s.setPart n x).walks = s.walks := rfl
@[simp] theorem State.setPart_walkLast (n : Nat) (x : Partition) : (s.setPart n x).walkLast = s.walkLast := rfl
@[simp] theorem State.setPart_windows (n : Nat) (x : Partition) : (s.setPart n x).windows = s.windows := rfl
@[simp] theorem State.setPart_deliveries (n : Nat) (x : Partition) : (s.setPart n x).deliveries = s.deliveries := rfl
@[simp] theorem State.setPart_counts (n : Nat) (x : Partition) : (s.setPart n x).counts = s.counts := rfl
@[simp] theorem State.setPart_floor (n : Nat) (x : Partition) : (s.setPart n x).floor = s.floor := rfl

@[simp] theorem State.modPart_now (n : Nat) (f : Partition → Partition) : (s.modPart n f).now = s.now := rfl
@[simp] theorem State.modPart_lags (n : Nat) (f : Partition → Partition) : (s.modPart n f).lags = s.lags := rfl
@[simp] theorem State.modPart_cur (n : Nat) (f : Partition → Partition) : (s.modPart n f).cur = s.cur := rfl
@[simp] theorem State.modPart_src (n : Nat) (f : Partition → Partition) : (s.modPart n f).src = s.src := rfl
@[simp] theorem State.modPart_wakers (n : Nat) (f : Partition → Partition) : (s.modPart n f).wakers = s.wakers := rfl
@[simp] theorem State.modPart_choices (n : Nat) (f : Partition → Partition) : (s.modPart n f).choices = s.choices := rfl
@[simp] theorem State.modPart_frees (n : Nat) (f : Partition → Partition) : (s.modPart n f).frees = s.frees := rfl
@[simp] theorem State.modPart_nextId (n : Nat) (f : Partition → Partition) : (s.modPart n f).nextId = s.nextId := rfl
@[simp] theorem State.modPart_stray (n : Nat) (f : Partition → Partition) : (s.modPart n f).stray = s.stray := rfl
@[simp] theorem State.modPart_agenda (n : Nat) (f : Partition → Partition) : (s.modPart n f).agenda = s.agenda := rfl
@[simp] theorem State.modPart_sent (n : Nat) (f : Partition → Partition) : (s.modPart n f).sent = s.sent := rfl
@[simp] theorem State.modPart_packets (n : Nat) (f : Partition → Partition) : (s.modPart n f).packets = s.packets := rfl
@[simp] theorem State.modPart_mem (n : Nat) (f : Partition → Partition) : (s.modPart n f).mem = s.mem := rfl
@[simp] theorem State.modPart_fe (n : Nat) (f : Partition → Partition) : (s.modPart n f).fe = s.fe := rfl
@[simp] theorem State.modPart_feq (n : Nat) (f : Partition → Partition) : (s.modPart n f).feq = s.feq := rfl
@[simp] theorem State.modPart_pois (n : Nat) (f : Partition → Partition) : (s.modPart n f).pois = s.pois := rfl
@[simp] theorem State.modPart_poisTag (n : Nat) (f : Partition → Partition) : (s.modPart n f).poisTag = s.poisTag := rfl
@[simp] theorem State.modPart_lineTag (n : Nat) (f : Partition → Partition) : (s.modPart n f).lineTag = s.lineTag := rfl
@[simp] theorem State.modPart_gmode (n : Nat) (f : Partition → Partition) : (s.modPart n f).gmode = s.gmode := rfl
@[simp] theorem State.modPart_bankCap (n : Nat) (f : Partition → Partition) : (s.modPart n f).bankCap = s.bankCap := rfl
@[simp] theorem State.modPart_vacated (n : Nat) (f : Partition → Partition) : (s.modPart n f).vacated = s.vacated := rfl
@[simp] theorem State.modPart_tiles (n : Nat) (f : Partition → Partition) : (s.modPart n f).tiles = s.tiles := rfl
@[simp] theorem State.modPart_ctxs (n : Nat) (f : Partition → Partition) : (s.modPart n f).ctxs = s.ctxs := rfl
@[simp] theorem State.modPart_owners (n : Nat) (f : Partition → Partition) : (s.modPart n f).owners = s.owners := rfl
@[simp] theorem State.modPart_kettles (n : Nat) (f : Partition → Partition) : (s.modPart n f).kettles = s.kettles := rfl
@[simp] theorem State.modPart_l2 (n : Nat) (f : Partition → Partition) : (s.modPart n f).l2 = s.l2 := rfl
@[simp] theorem State.modPart_walks (n : Nat) (f : Partition → Partition) : (s.modPart n f).walks = s.walks := rfl
@[simp] theorem State.modPart_walkLast (n : Nat) (f : Partition → Partition) : (s.modPart n f).walkLast = s.walkLast := rfl
@[simp] theorem State.modPart_windows (n : Nat) (f : Partition → Partition) : (s.modPart n f).windows = s.windows := rfl
@[simp] theorem State.modPart_deliveries (n : Nat) (f : Partition → Partition) : (s.modPart n f).deliveries = s.deliveries := rfl
@[simp] theorem State.modPart_counts (n : Nat) (f : Partition → Partition) : (s.modPart n f).counts = s.counts := rfl
@[simp] theorem State.modPart_floor (n : Nat) (f : Partition → Partition) : (s.modPart n f).floor = s.floor := rfl

@[simp] theorem State.modFloor_now (f : Floor → Floor) : (s.modFloor f).now = s.now := rfl
@[simp] theorem State.modFloor_lags (f : Floor → Floor) : (s.modFloor f).lags = s.lags := rfl
@[simp] theorem State.modFloor_cur (f : Floor → Floor) : (s.modFloor f).cur = s.cur := rfl
@[simp] theorem State.modFloor_src (f : Floor → Floor) : (s.modFloor f).src = s.src := rfl
@[simp] theorem State.modFloor_wakers (f : Floor → Floor) : (s.modFloor f).wakers = s.wakers := rfl
@[simp] theorem State.modFloor_choices (f : Floor → Floor) : (s.modFloor f).choices = s.choices := rfl
@[simp] theorem State.modFloor_frees (f : Floor → Floor) : (s.modFloor f).frees = s.frees := rfl
@[simp] theorem State.modFloor_nextId (f : Floor → Floor) : (s.modFloor f).nextId = s.nextId := rfl
@[simp] theorem State.modFloor_stray (f : Floor → Floor) : (s.modFloor f).stray = s.stray := rfl
@[simp] theorem State.modFloor_agenda (f : Floor → Floor) : (s.modFloor f).agenda = s.agenda := rfl
@[simp] theorem State.modFloor_sent (f : Floor → Floor) : (s.modFloor f).sent = s.sent := rfl
@[simp] theorem State.modFloor_packets (f : Floor → Floor) : (s.modFloor f).packets = s.packets := rfl
@[simp] theorem State.modFloor_mem (f : Floor → Floor) : (s.modFloor f).mem = s.mem := rfl
@[simp] theorem State.modFloor_fe (f : Floor → Floor) : (s.modFloor f).fe = s.fe := rfl
@[simp] theorem State.modFloor_feq (f : Floor → Floor) : (s.modFloor f).feq = s.feq := rfl
@[simp] theorem State.modFloor_pois (f : Floor → Floor) : (s.modFloor f).pois = s.pois := rfl
@[simp] theorem State.modFloor_poisTag (f : Floor → Floor) : (s.modFloor f).poisTag = s.poisTag := rfl
@[simp] theorem State.modFloor_lineTag (f : Floor → Floor) : (s.modFloor f).lineTag = s.lineTag := rfl
@[simp] theorem State.modFloor_gmode (f : Floor → Floor) : (s.modFloor f).gmode = s.gmode := rfl
@[simp] theorem State.modFloor_bankCap (f : Floor → Floor) : (s.modFloor f).bankCap = s.bankCap := rfl
@[simp] theorem State.modFloor_vacated (f : Floor → Floor) : (s.modFloor f).vacated = s.vacated := rfl
@[simp] theorem State.modFloor_tiles (f : Floor → Floor) : (s.modFloor f).tiles = s.tiles := rfl
@[simp] theorem State.modFloor_ctxs (f : Floor → Floor) : (s.modFloor f).ctxs = s.ctxs := rfl
@[simp] theorem State.modFloor_owners (f : Floor → Floor) : (s.modFloor f).owners = s.owners := rfl
@[simp] theorem State.modFloor_parts (f : Floor → Floor) : (s.modFloor f).parts = s.parts := rfl
@[simp] theorem State.modFloor_kettles (f : Floor → Floor) : (s.modFloor f).kettles = s.kettles := rfl
@[simp] theorem State.modFloor_l2 (f : Floor → Floor) : (s.modFloor f).l2 = s.l2 := rfl
@[simp] theorem State.modFloor_walks (f : Floor → Floor) : (s.modFloor f).walks = s.walks := rfl
@[simp] theorem State.modFloor_walkLast (f : Floor → Floor) : (s.modFloor f).walkLast = s.walkLast := rfl
@[simp] theorem State.modFloor_windows (f : Floor → Floor) : (s.modFloor f).windows = s.windows := rfl
@[simp] theorem State.modFloor_deliveries (f : Floor → Floor) : (s.modFloor f).deliveries = s.deliveries := rfl
@[simp] theorem State.modFloor_counts (f : Floor → Floor) : (s.modFloor f).counts = s.counts := rfl

@[simp] theorem State.modCtx_now (t : Tag) (f : Ctx → Ctx) : (s.modCtx t f).now = s.now := rfl
@[simp] theorem State.modCtx_lags (t : Tag) (f : Ctx → Ctx) : (s.modCtx t f).lags = s.lags := rfl
@[simp] theorem State.modCtx_cur (t : Tag) (f : Ctx → Ctx) : (s.modCtx t f).cur = s.cur := rfl
@[simp] theorem State.modCtx_src (t : Tag) (f : Ctx → Ctx) : (s.modCtx t f).src = s.src := rfl
@[simp] theorem State.modCtx_wakers (t : Tag) (f : Ctx → Ctx) : (s.modCtx t f).wakers = s.wakers := rfl
@[simp] theorem State.modCtx_choices (t : Tag) (f : Ctx → Ctx) : (s.modCtx t f).choices = s.choices := rfl
@[simp] theorem State.modCtx_frees (t : Tag) (f : Ctx → Ctx) : (s.modCtx t f).frees = s.frees := rfl
@[simp] theorem State.modCtx_nextId (t : Tag) (f : Ctx → Ctx) : (s.modCtx t f).nextId = s.nextId := rfl
@[simp] theorem State.modCtx_stray (t : Tag) (f : Ctx → Ctx) : (s.modCtx t f).stray = s.stray := rfl
@[simp] theorem State.modCtx_agenda (t : Tag) (f : Ctx → Ctx) : (s.modCtx t f).agenda = s.agenda := rfl
@[simp] theorem State.modCtx_sent (t : Tag) (f : Ctx → Ctx) : (s.modCtx t f).sent = s.sent := rfl
@[simp] theorem State.modCtx_packets (t : Tag) (f : Ctx → Ctx) : (s.modCtx t f).packets = s.packets := rfl
@[simp] theorem State.modCtx_mem (t : Tag) (f : Ctx → Ctx) : (s.modCtx t f).mem = s.mem := rfl
@[simp] theorem State.modCtx_fe (t : Tag) (f : Ctx → Ctx) : (s.modCtx t f).fe = s.fe := rfl
@[simp] theorem State.modCtx_feq (t : Tag) (f : Ctx → Ctx) : (s.modCtx t f).feq = s.feq := rfl
@[simp] theorem State.modCtx_pois (t : Tag) (f : Ctx → Ctx) : (s.modCtx t f).pois = s.pois := rfl
@[simp] theorem State.modCtx_poisTag (t : Tag) (f : Ctx → Ctx) : (s.modCtx t f).poisTag = s.poisTag := rfl
@[simp] theorem State.modCtx_lineTag (t : Tag) (f : Ctx → Ctx) : (s.modCtx t f).lineTag = s.lineTag := rfl
@[simp] theorem State.modCtx_gmode (t : Tag) (f : Ctx → Ctx) : (s.modCtx t f).gmode = s.gmode := rfl
@[simp] theorem State.modCtx_bankCap (t : Tag) (f : Ctx → Ctx) : (s.modCtx t f).bankCap = s.bankCap := rfl
@[simp] theorem State.modCtx_vacated (t : Tag) (f : Ctx → Ctx) : (s.modCtx t f).vacated = s.vacated := rfl
@[simp] theorem State.modCtx_tiles (t : Tag) (f : Ctx → Ctx) : (s.modCtx t f).tiles = s.tiles := rfl
@[simp] theorem State.modCtx_owners (t : Tag) (f : Ctx → Ctx) : (s.modCtx t f).owners = s.owners := rfl
@[simp] theorem State.modCtx_parts (t : Tag) (f : Ctx → Ctx) : (s.modCtx t f).parts = s.parts := rfl
@[simp] theorem State.modCtx_kettles (t : Tag) (f : Ctx → Ctx) : (s.modCtx t f).kettles = s.kettles := rfl
@[simp] theorem State.modCtx_l2 (t : Tag) (f : Ctx → Ctx) : (s.modCtx t f).l2 = s.l2 := rfl
@[simp] theorem State.modCtx_walks (t : Tag) (f : Ctx → Ctx) : (s.modCtx t f).walks = s.walks := rfl
@[simp] theorem State.modCtx_walkLast (t : Tag) (f : Ctx → Ctx) : (s.modCtx t f).walkLast = s.walkLast := rfl
@[simp] theorem State.modCtx_windows (t : Tag) (f : Ctx → Ctx) : (s.modCtx t f).windows = s.windows := rfl
@[simp] theorem State.modCtx_deliveries (t : Tag) (f : Ctx → Ctx) : (s.modCtx t f).deliveries = s.deliveries := rfl
@[simp] theorem State.modCtx_counts (t : Tag) (f : Ctx → Ctx) : (s.modCtx t f).counts = s.counts := rfl
@[simp] theorem State.modCtx_floor (t : Tag) (f : Ctx → Ctx) : (s.modCtx t f).floor = s.floor := rfl

@[simp] theorem State.modOwner_now (t : Tag) (f : OwnerRegs → OwnerRegs) : (s.modOwner t f).now = s.now := rfl
@[simp] theorem State.modOwner_lags (t : Tag) (f : OwnerRegs → OwnerRegs) : (s.modOwner t f).lags = s.lags := rfl
@[simp] theorem State.modOwner_cur (t : Tag) (f : OwnerRegs → OwnerRegs) : (s.modOwner t f).cur = s.cur := rfl
@[simp] theorem State.modOwner_src (t : Tag) (f : OwnerRegs → OwnerRegs) : (s.modOwner t f).src = s.src := rfl
@[simp] theorem State.modOwner_wakers (t : Tag) (f : OwnerRegs → OwnerRegs) : (s.modOwner t f).wakers = s.wakers := rfl
@[simp] theorem State.modOwner_choices (t : Tag) (f : OwnerRegs → OwnerRegs) : (s.modOwner t f).choices = s.choices := rfl
@[simp] theorem State.modOwner_frees (t : Tag) (f : OwnerRegs → OwnerRegs) : (s.modOwner t f).frees = s.frees := rfl
@[simp] theorem State.modOwner_nextId (t : Tag) (f : OwnerRegs → OwnerRegs) : (s.modOwner t f).nextId = s.nextId := rfl
@[simp] theorem State.modOwner_stray (t : Tag) (f : OwnerRegs → OwnerRegs) : (s.modOwner t f).stray = s.stray := rfl
@[simp] theorem State.modOwner_agenda (t : Tag) (f : OwnerRegs → OwnerRegs) : (s.modOwner t f).agenda = s.agenda := rfl
@[simp] theorem State.modOwner_sent (t : Tag) (f : OwnerRegs → OwnerRegs) : (s.modOwner t f).sent = s.sent := rfl
@[simp] theorem State.modOwner_packets (t : Tag) (f : OwnerRegs → OwnerRegs) : (s.modOwner t f).packets = s.packets := rfl
@[simp] theorem State.modOwner_mem (t : Tag) (f : OwnerRegs → OwnerRegs) : (s.modOwner t f).mem = s.mem := rfl
@[simp] theorem State.modOwner_fe (t : Tag) (f : OwnerRegs → OwnerRegs) : (s.modOwner t f).fe = s.fe := rfl
@[simp] theorem State.modOwner_feq (t : Tag) (f : OwnerRegs → OwnerRegs) : (s.modOwner t f).feq = s.feq := rfl
@[simp] theorem State.modOwner_pois (t : Tag) (f : OwnerRegs → OwnerRegs) : (s.modOwner t f).pois = s.pois := rfl
@[simp] theorem State.modOwner_poisTag (t : Tag) (f : OwnerRegs → OwnerRegs) : (s.modOwner t f).poisTag = s.poisTag := rfl
@[simp] theorem State.modOwner_lineTag (t : Tag) (f : OwnerRegs → OwnerRegs) : (s.modOwner t f).lineTag = s.lineTag := rfl
@[simp] theorem State.modOwner_gmode (t : Tag) (f : OwnerRegs → OwnerRegs) : (s.modOwner t f).gmode = s.gmode := rfl
@[simp] theorem State.modOwner_bankCap (t : Tag) (f : OwnerRegs → OwnerRegs) : (s.modOwner t f).bankCap = s.bankCap := rfl
@[simp] theorem State.modOwner_vacated (t : Tag) (f : OwnerRegs → OwnerRegs) : (s.modOwner t f).vacated = s.vacated := rfl
@[simp] theorem State.modOwner_tiles (t : Tag) (f : OwnerRegs → OwnerRegs) : (s.modOwner t f).tiles = s.tiles := rfl
@[simp] theorem State.modOwner_ctxs (t : Tag) (f : OwnerRegs → OwnerRegs) : (s.modOwner t f).ctxs = s.ctxs := rfl
@[simp] theorem State.modOwner_parts (t : Tag) (f : OwnerRegs → OwnerRegs) : (s.modOwner t f).parts = s.parts := rfl
@[simp] theorem State.modOwner_kettles (t : Tag) (f : OwnerRegs → OwnerRegs) : (s.modOwner t f).kettles = s.kettles := rfl
@[simp] theorem State.modOwner_l2 (t : Tag) (f : OwnerRegs → OwnerRegs) : (s.modOwner t f).l2 = s.l2 := rfl
@[simp] theorem State.modOwner_walks (t : Tag) (f : OwnerRegs → OwnerRegs) : (s.modOwner t f).walks = s.walks := rfl
@[simp] theorem State.modOwner_walkLast (t : Tag) (f : OwnerRegs → OwnerRegs) : (s.modOwner t f).walkLast = s.walkLast := rfl
@[simp] theorem State.modOwner_windows (t : Tag) (f : OwnerRegs → OwnerRegs) : (s.modOwner t f).windows = s.windows := rfl
@[simp] theorem State.modOwner_deliveries (t : Tag) (f : OwnerRegs → OwnerRegs) : (s.modOwner t f).deliveries = s.deliveries := rfl
@[simp] theorem State.modOwner_counts (t : Tag) (f : OwnerRegs → OwnerRegs) : (s.modOwner t f).counts = s.counts := rfl
@[simp] theorem State.modOwner_floor (t : Tag) (f : OwnerRegs → OwnerRegs) : (s.modOwner t f).floor = s.floor := rfl

@[simp] theorem State.modKettle_now (u : Nat) (f : Kettle → Kettle) : (s.modKettle u f).now = s.now := rfl
@[simp] theorem State.modKettle_lags (u : Nat) (f : Kettle → Kettle) : (s.modKettle u f).lags = s.lags := rfl
@[simp] theorem State.modKettle_cur (u : Nat) (f : Kettle → Kettle) : (s.modKettle u f).cur = s.cur := rfl
@[simp] theorem State.modKettle_src (u : Nat) (f : Kettle → Kettle) : (s.modKettle u f).src = s.src := rfl
@[simp] theorem State.modKettle_wakers (u : Nat) (f : Kettle → Kettle) : (s.modKettle u f).wakers = s.wakers := rfl
@[simp] theorem State.modKettle_choices (u : Nat) (f : Kettle → Kettle) : (s.modKettle u f).choices = s.choices := rfl
@[simp] theorem State.modKettle_frees (u : Nat) (f : Kettle → Kettle) : (s.modKettle u f).frees = s.frees := rfl
@[simp] theorem State.modKettle_nextId (u : Nat) (f : Kettle → Kettle) : (s.modKettle u f).nextId = s.nextId := rfl
@[simp] theorem State.modKettle_stray (u : Nat) (f : Kettle → Kettle) : (s.modKettle u f).stray = s.stray := rfl
@[simp] theorem State.modKettle_agenda (u : Nat) (f : Kettle → Kettle) : (s.modKettle u f).agenda = s.agenda := rfl
@[simp] theorem State.modKettle_sent (u : Nat) (f : Kettle → Kettle) : (s.modKettle u f).sent = s.sent := rfl
@[simp] theorem State.modKettle_packets (u : Nat) (f : Kettle → Kettle) : (s.modKettle u f).packets = s.packets := rfl
@[simp] theorem State.modKettle_mem (u : Nat) (f : Kettle → Kettle) : (s.modKettle u f).mem = s.mem := rfl
@[simp] theorem State.modKettle_fe (u : Nat) (f : Kettle → Kettle) : (s.modKettle u f).fe = s.fe := rfl
@[simp] theorem State.modKettle_feq (u : Nat) (f : Kettle → Kettle) : (s.modKettle u f).feq = s.feq := rfl
@[simp] theorem State.modKettle_pois (u : Nat) (f : Kettle → Kettle) : (s.modKettle u f).pois = s.pois := rfl
@[simp] theorem State.modKettle_poisTag (u : Nat) (f : Kettle → Kettle) : (s.modKettle u f).poisTag = s.poisTag := rfl
@[simp] theorem State.modKettle_lineTag (u : Nat) (f : Kettle → Kettle) : (s.modKettle u f).lineTag = s.lineTag := rfl
@[simp] theorem State.modKettle_gmode (u : Nat) (f : Kettle → Kettle) : (s.modKettle u f).gmode = s.gmode := rfl
@[simp] theorem State.modKettle_bankCap (u : Nat) (f : Kettle → Kettle) : (s.modKettle u f).bankCap = s.bankCap := rfl
@[simp] theorem State.modKettle_vacated (u : Nat) (f : Kettle → Kettle) : (s.modKettle u f).vacated = s.vacated := rfl
@[simp] theorem State.modKettle_tiles (u : Nat) (f : Kettle → Kettle) : (s.modKettle u f).tiles = s.tiles := rfl
@[simp] theorem State.modKettle_ctxs (u : Nat) (f : Kettle → Kettle) : (s.modKettle u f).ctxs = s.ctxs := rfl
@[simp] theorem State.modKettle_owners (u : Nat) (f : Kettle → Kettle) : (s.modKettle u f).owners = s.owners := rfl
@[simp] theorem State.modKettle_parts (u : Nat) (f : Kettle → Kettle) : (s.modKettle u f).parts = s.parts := rfl
@[simp] theorem State.modKettle_l2 (u : Nat) (f : Kettle → Kettle) : (s.modKettle u f).l2 = s.l2 := rfl
@[simp] theorem State.modKettle_walks (u : Nat) (f : Kettle → Kettle) : (s.modKettle u f).walks = s.walks := rfl
@[simp] theorem State.modKettle_walkLast (u : Nat) (f : Kettle → Kettle) : (s.modKettle u f).walkLast = s.walkLast := rfl
@[simp] theorem State.modKettle_windows (u : Nat) (f : Kettle → Kettle) : (s.modKettle u f).windows = s.windows := rfl
@[simp] theorem State.modKettle_deliveries (u : Nat) (f : Kettle → Kettle) : (s.modKettle u f).deliveries = s.deliveries := rfl
@[simp] theorem State.modKettle_counts (u : Nat) (f : Kettle → Kettle) : (s.modKettle u f).counts = s.counts := rfl
@[simp] theorem State.modKettle_floor (u : Nat) (f : Kettle → Kettle) : (s.modKettle u f).floor = s.floor := rfl

@[simp] theorem State.postAt_now (d : Nat) (e : Instr) : (s.postAt d e).now = s.now := rfl
@[simp] theorem State.postAt_lags (d : Nat) (e : Instr) : (s.postAt d e).lags = s.lags := rfl
@[simp] theorem State.postAt_cur (d : Nat) (e : Instr) : (s.postAt d e).cur = s.cur := rfl
@[simp] theorem State.postAt_src (d : Nat) (e : Instr) : (s.postAt d e).src = s.src := rfl
@[simp] theorem State.postAt_wakers (d : Nat) (e : Instr) : (s.postAt d e).wakers = s.wakers := rfl
@[simp] theorem State.postAt_choices (d : Nat) (e : Instr) : (s.postAt d e).choices = s.choices := rfl
@[simp] theorem State.postAt_frees (d : Nat) (e : Instr) : (s.postAt d e).frees = s.frees := rfl
@[simp] theorem State.postAt_stray (d : Nat) (e : Instr) : (s.postAt d e).stray = s.stray := rfl
@[simp] theorem State.postAt_sent (d : Nat) (e : Instr) : (s.postAt d e).sent = s.sent := rfl
@[simp] theorem State.postAt_packets (d : Nat) (e : Instr) : (s.postAt d e).packets = s.packets := rfl
@[simp] theorem State.postAt_mem (d : Nat) (e : Instr) : (s.postAt d e).mem = s.mem := rfl
@[simp] theorem State.postAt_fe (d : Nat) (e : Instr) : (s.postAt d e).fe = s.fe := rfl
@[simp] theorem State.postAt_feq (d : Nat) (e : Instr) : (s.postAt d e).feq = s.feq := rfl
@[simp] theorem State.postAt_pois (d : Nat) (e : Instr) : (s.postAt d e).pois = s.pois := rfl
@[simp] theorem State.postAt_poisTag (d : Nat) (e : Instr) : (s.postAt d e).poisTag = s.poisTag := rfl
@[simp] theorem State.postAt_lineTag (d : Nat) (e : Instr) : (s.postAt d e).lineTag = s.lineTag := rfl
@[simp] theorem State.postAt_gmode (d : Nat) (e : Instr) : (s.postAt d e).gmode = s.gmode := rfl
@[simp] theorem State.postAt_bankCap (d : Nat) (e : Instr) : (s.postAt d e).bankCap = s.bankCap := rfl
@[simp] theorem State.postAt_vacated (d : Nat) (e : Instr) : (s.postAt d e).vacated = s.vacated := rfl
@[simp] theorem State.postAt_tiles (d : Nat) (e : Instr) : (s.postAt d e).tiles = s.tiles := rfl
@[simp] theorem State.postAt_ctxs (d : Nat) (e : Instr) : (s.postAt d e).ctxs = s.ctxs := rfl
@[simp] theorem State.postAt_owners (d : Nat) (e : Instr) : (s.postAt d e).owners = s.owners := rfl
@[simp] theorem State.postAt_parts (d : Nat) (e : Instr) : (s.postAt d e).parts = s.parts := rfl
@[simp] theorem State.postAt_kettles (d : Nat) (e : Instr) : (s.postAt d e).kettles = s.kettles := rfl
@[simp] theorem State.postAt_l2 (d : Nat) (e : Instr) : (s.postAt d e).l2 = s.l2 := rfl
@[simp] theorem State.postAt_walks (d : Nat) (e : Instr) : (s.postAt d e).walks = s.walks := rfl
@[simp] theorem State.postAt_walkLast (d : Nat) (e : Instr) : (s.postAt d e).walkLast = s.walkLast := rfl
@[simp] theorem State.postAt_windows (d : Nat) (e : Instr) : (s.postAt d e).windows = s.windows := rfl
@[simp] theorem State.postAt_deliveries (d : Nat) (e : Instr) : (s.postAt d e).deliveries = s.deliveries := rfl
@[simp] theorem State.postAt_counts (d : Nat) (e : Instr) : (s.postAt d e).counts = s.counts := rfl
@[simp] theorem State.postAt_floor (d : Nat) (e : Instr) : (s.postAt d e).floor = s.floor := rfl

@[simp] theorem State.post_now (e : Instr) : (s.post e).now = s.now := rfl
@[simp] theorem State.post_lags (e : Instr) : (s.post e).lags = s.lags := rfl
@[simp] theorem State.post_cur (e : Instr) : (s.post e).cur = s.cur := rfl
@[simp] theorem State.post_src (e : Instr) : (s.post e).src = s.src := rfl
@[simp] theorem State.post_wakers (e : Instr) : (s.post e).wakers = s.wakers := rfl
@[simp] theorem State.post_choices (e : Instr) : (s.post e).choices = s.choices := rfl
@[simp] theorem State.post_frees (e : Instr) : (s.post e).frees = s.frees := rfl
@[simp] theorem State.post_stray (e : Instr) : (s.post e).stray = s.stray := rfl
@[simp] theorem State.post_sent (e : Instr) : (s.post e).sent = s.sent := rfl
@[simp] theorem State.post_packets (e : Instr) : (s.post e).packets = s.packets := rfl
@[simp] theorem State.post_mem (e : Instr) : (s.post e).mem = s.mem := rfl
@[simp] theorem State.post_fe (e : Instr) : (s.post e).fe = s.fe := rfl
@[simp] theorem State.post_feq (e : Instr) : (s.post e).feq = s.feq := rfl
@[simp] theorem State.post_pois (e : Instr) : (s.post e).pois = s.pois := rfl
@[simp] theorem State.post_poisTag (e : Instr) : (s.post e).poisTag = s.poisTag := rfl
@[simp] theorem State.post_lineTag (e : Instr) : (s.post e).lineTag = s.lineTag := rfl
@[simp] theorem State.post_gmode (e : Instr) : (s.post e).gmode = s.gmode := rfl
@[simp] theorem State.post_bankCap (e : Instr) : (s.post e).bankCap = s.bankCap := rfl
@[simp] theorem State.post_vacated (e : Instr) : (s.post e).vacated = s.vacated := rfl
@[simp] theorem State.post_tiles (e : Instr) : (s.post e).tiles = s.tiles := rfl
@[simp] theorem State.post_ctxs (e : Instr) : (s.post e).ctxs = s.ctxs := rfl
@[simp] theorem State.post_owners (e : Instr) : (s.post e).owners = s.owners := rfl
@[simp] theorem State.post_parts (e : Instr) : (s.post e).parts = s.parts := rfl
@[simp] theorem State.post_kettles (e : Instr) : (s.post e).kettles = s.kettles := rfl
@[simp] theorem State.post_l2 (e : Instr) : (s.post e).l2 = s.l2 := rfl
@[simp] theorem State.post_walks (e : Instr) : (s.post e).walks = s.walks := rfl
@[simp] theorem State.post_walkLast (e : Instr) : (s.post e).walkLast = s.walkLast := rfl
@[simp] theorem State.post_windows (e : Instr) : (s.post e).windows = s.windows := rfl
@[simp] theorem State.post_deliveries (e : Instr) : (s.post e).deliveries = s.deliveries := rfl
@[simp] theorem State.post_counts (e : Instr) : (s.post e).counts = s.counts := rfl
@[simp] theorem State.post_floor (e : Instr) : (s.post e).floor = s.floor := rfl

/-! ### Tiles and threads -/

theorem State.tile_setTile (n m : Nat) (t : Tile) :
    (s.setTile n t).tile m = if m = n then t else s.tile m := SMap.get_set ..

@[simp] theorem State.tile_setTile_self (n : Nat) (t : Tile) : (s.setTile n t).tile n = t := by
  simp [State.tile_setTile]

theorem State.tile_modTile (n m : Nat) (f : Tile → Tile) :
    (s.modTile n f).tile m = if m = n then f (s.tile n) else s.tile m := State.tile_setTile ..

@[simp] theorem State.tile_modTile_self (n : Nat) (f : Tile → Tile) : (s.modTile n f).tile n = f (s.tile n) := by
  simp [State.tile_modTile]

theorem Tile.thread_setThread (t : Tile) (k j : Nat) (x : Thread) :
    (t.setThread k x).thread j = if j = k then x else t.thread j := SMap.get_set ..

@[simp] theorem Tile.thread_setThread_self (t : Tile) (k : Nat) (x : Thread) : (t.setThread k x).thread k = x := by
  simp [Tile.thread_setThread]

theorem ThreadId.eq_iff (a b : ThreadId) : a = b ↔ a.tile = b.tile ∧ a.slot = b.slot := by
  cases a; cases b; simp

theorem State.thread_setThread (a b : ThreadId) (x : Thread) :
    (s.setThread a x).thread b = if b = a then x else s.thread b := by
  unfold State.setThread State.thread
  rw [State.tile_modTile]
  by_cases h : b.tile = a.tile
  · simp only [h, if_true, Tile.thread_setThread, ThreadId.eq_iff, true_and]
  · simp [h, ThreadId.eq_iff]

@[simp] theorem State.thread_setThread_self (a : ThreadId) (x : Thread) : (s.setThread a x).thread a = x := by
  simp [State.thread_setThread]

theorem State.thread_modThread (a b : ThreadId) (f : Thread → Thread) :
    (s.modThread a f).thread b = if b = a then f (s.thread a) else s.thread b := State.thread_setThread ..

@[simp] theorem State.thread_modThread_self (a : ThreadId) (f : Thread → Thread) :
    (s.modThread a f).thread a = f (s.thread a) := by simp [State.thread_modThread]

@[simp] theorem State.me_modMe (f : Thread → Thread) : (s.modMe f).me = f s.me := State.thread_modThread_self ..

/-- A tile after the change of a thread: only that slot of that tile differs. -/
theorem State.tile_setThread (a : ThreadId) (n : Nat) (x : Thread) :
    (s.setThread a x).tile n = if n = a.tile then (s.tile a.tile).setThread a.slot x else s.tile n :=
  State.tile_modTile ..

theorem State.part_setPart (n m : Nat) (x : Partition) :
    (s.setPart n x).part m = if m % 8 = n % 8 then x else s.part m := by
  unfold State.setPart State.part
  simp only [Vector.getElem_set]
  by_cases h : n % 8 = m % 8 <;> simp [h, eq_comm]

@[simp] theorem State.part_setPart_self (n : Nat) (x : Partition) : (s.setPart n x).part n = x := by
  simp [State.part_setPart]

theorem State.part_modPart (n m : Nat) (f : Partition → Partition) :
    (s.modPart n f).part m = if m % 8 = n % 8 then f (s.part n) else s.part m := State.part_setPart ..

@[simp] theorem State.part_modPart_self (n : Nat) (f : Partition → Partition) :
    (s.modPart n f).part n = f (s.part n) := by simp [State.part_modPart]

theorem State.ctx_modCtx (t u : Tag) (f : Ctx → Ctx) :
    (s.modCtx t f).ctx u = if u = t then f (s.ctx t) else s.ctx u := by
  unfold State.modCtx State.ctx
  simp only [SMap.get_set]
  by_cases h : u = t
  · simp [h]
  · have : u.toNat ≠ t.toNat := fun h' => h (BitVec.eq_of_toNat_eq h')
    simp [h, this]

@[simp] theorem State.ctx_modCtx_self (t : Tag) (f : Ctx → Ctx) : (s.modCtx t f).ctx t = f (s.ctx t) := by
  simp [State.ctx_modCtx]

/-! ### Registers -/

variable (t : Thread)

theorem Thread.getG_setG (r q : GReg) (v : Word) :
    (t.setG r v).getG q = if q = 0 then 0 else if q = r then v else t.getG q := by
  unfold Thread.setG Thread.getG
  by_cases hq : q = 0
  · simp [hq]
  · by_cases hr : r = 0
    · subst hr; simp [hq]
    · simp only [hq, hr, if_false]
      by_cases h : q = r
      · subst h; simp
      · have : r.val ≠ q.val := fun h' => h (Fin.ext h'.symm)
        simp [h, this]

/-- g0 reads 0 (R294). -/
@[simp] theorem Thread.getG_zero : t.getG 0 = 0 := rfl
@[simp] theorem Thread.setG_zero (v : Word) : t.setG 0 v = t := rfl

theorem Thread.setG_of_ne (r : GReg) (v : Word) (h : r ≠ 0) : t.setG r v = { t with g := t.g.set r v, mres := t.mres.filter (· ≠ r) } := by
  unfold Thread.setG; rw [if_neg h]

theorem Thread.getA_setA (r q : AReg) (v : Word) :
    (t.setA r v).getA q = if q = r then v else t.getA q := by
  unfold Thread.setA Thread.getA
  by_cases h : q = r
  · subst h; simp
  · have : r.val ≠ q.val := fun h' => h (Fin.ext h'.symm)
    simp [h, this]

theorem Thread.getV_setV (r q : VReg) (v : VWord) :
    (t.setV r v).getV q = if q = r then v else t.getV q := by
  unfold Thread.setV Thread.getV
  by_cases h : q = r
  · subst h; simp
  · have : r.val ≠ q.val := fun h' => h (Fin.ext h'.symm)
    simp [h, this]

theorem Thread.getK_setK (r q : KReg) (v : Word) :
    (t.setK r v).getK q = if q = 0 then BitVec.allOnes 64 else if q = r then v else t.getK q := by
  unfold Thread.setK Thread.getK
  by_cases hq : q = 0
  · simp [hq]
  · by_cases hr : r = 0
    · subst hr; simp [hq]
    · simp only [hq, hr, if_false]
      by_cases h : q = r
      · subst h; simp
      · have : r.val ≠ q.val := fun h' => h (Fin.ext h'.symm)
        simp [h, this]

/-! ### Retiring, holding, waiting, traps: what becomes of the executing thread -/

theorem State.thread_retireTo (a b : ThreadId) (pc : Pc) :
    (s.retireTo a pc).thread b =
      if b = a then (s.thread a).retireTo pc (s.counts? a) else s.thread b := by
  have h := s.thread_setThread a b ((s.thread a).retireTo pc (s.counts? a))
  rw [← h]
  unfold State.retireTo State.setThread State.thread
  simp only [State.tile_modTile]
  split <;> rfl

@[simp] theorem State.thread_retireTo_self (a : ThreadId) (pc : Pc) :
    (s.retireTo a pc).thread a = (s.thread a).retireTo pc (s.counts? a) := by simp [State.thread_retireTo]

theorem State.tile_retireTo (a : ThreadId) (pc : Pc) (n : Nat) :
    (s.retireTo a pc).tile n =
      if n = a.tile then
        { s.tile n with slots := ((s.retireTo a pc).tile n).slots, retired := (s.tile n).retired + 1 }
      else s.tile n := by
  unfold State.retireTo
  simp only [State.tile_modTile]
  split
  · subst n; rfl
  · rfl

theorem State.thread_enterHandler (a b : ThreadId) (h : Priv) (c : Nat) (v : Word) (l : Bool) :
    (s.enterHandler a h c v l).thread b =
      if b = a then (s.thread a).enter h (s.trapBase a h) c v l else s.thread b :=
  State.thread_modThread ..

/-- A trap that finds its handler ready enters it (R254). -/
theorem State.takeTrap_ready (a : ThreadId) (tr : Bool) (c : Nat) (v : Word) (l : Bool)
    (h : s.trapReady a (trapTarget tr (s.thread a).priv) = true) :
    s.takeTrap a tr c v l = s.enterHandler a (trapTarget tr (s.thread a).priv) c v l := by
  simp [State.takeTrap, h]

/-- A trap to a supervisor that is not ready goes to the steward as double-fault (R255). -/
theorem State.takeTrap_double (a : ThreadId) (tr : Bool) (c : Nat) (v : Word) (l : Bool)
    (ht : trapTarget tr (s.thread a).priv = .supervisor) (h : s.trapReady a .supervisor = false)
    (hs : s.trapReady a .steward = true) :
    s.takeTrap a tr c v l = s.enterHandler a .steward cDoubleFault (BitVec.ofNat 64 c) l := by
  simp [State.takeTrap, ht, h, hs]

/-- A change of what lies between the twins of a pair leaves every thread as it is, and is read back (R46). -/
@[simp] theorem State.thread_modTwin (a b : ThreadId) (f : Twin → Twin) : (s.modTwin a f).thread b = s.thread b := by
  simp only [State.modTwin, State.thread, State.tile_modTile]
  split
  · rename_i h; rw [h]; rfl
  · rfl

@[simp] theorem State.twin_modTwin (a : ThreadId) (f : Twin → Twin) : (s.modTwin a f).twin a = f (s.twin a) := by
  simp [State.modTwin, State.twin, State.tile_modTile]


end Sys2Proof.Machine
end

