-- ==== Sys2Proof/Laws/Claims.lean ====
section
/-! SUPPORT. How an instruction that retires, and one that traps, meets the words of the claims: one lemma for each
shared way of completing. -/

namespace Sys2Proof.Machine

open Sys2Proof.Claim

theorem only_refl (s : State) (x : ThreadId) : OnlyThread s s x := ⟨rfl, fun _ => rfl, fun _ _ => rfl, fun _ _ => rfl, rfl⟩

theorem only_trans {s t u : State} {x : ThreadId} (h : OnlyThread s t x) (k : OnlyThread t u x) : OnlyThread s u x where
  rest := by
    have h1 := h.rest; have h2 := k.rest
    rw [h2, h1]
  bytes c := (k.bytes c).trans (h.bytes c)
  others y hy := (k.others y hy).trans (h.others y hy)
  tiles n hn := (k.tiles n hn).trans (h.tiles n hn)
  tile := by
    have h1 := h.tile; have h2 := k.tile
    rw [h2, h1]

theorem only_modThread (s : State) (x : ThreadId) (f : Thread → Thread) : OnlyThread s (s.modThread x f) x where
  rest := rfl
  bytes _ := rfl
  others y hy := by simp [State.thread_modThread, hy]
  tiles n hn := by simp [State.modThread, State.tile_setThread, hn]
  tile := by simp [State.modThread, State.tile_setThread, Tile.setThread]

theorem only_retireTo (s : State) (x : ThreadId) (pc : Pc) : OnlyThread s (s.retireTo x pc) x where
  rest := rfl
  bytes _ := rfl
  others y hy := by simp [State.thread_retireTo, hy]
  tiles n hn := by rw [State.tile_retireTo]; simp [hn]
  tile := by
    have := s.tile_retireTo x pc x.tile
    simp only [if_true] at this
    rw [this]

theorem counts_modMe (s : State) (f : Thread → Thread) (h : (f s.me).priv = s.me.priv) :
    (s.modMe f).counts? s.cur = s.counts? s.cur := by
  have hm : ((s.modMe f).thread s.cur) = f s.me := State.me_modMe s f
  unfold State.counts?
  rw [hm, h]
  rfl

theorem retires_of (s : State) (f : Thread → Thread) (pc : Pc) (h : (f s.me).priv = s.me.priv) :
    Retires s ((s.modMe f).retireTo s.cur pc) (f s.me) pc where
  only := only_trans (only_modThread s s.cur f) (only_retireTo _ _ _)
  me := by
    show ((s.modMe f).retireTo s.cur pc).thread s.cur = _
    rw [State.thread_retireTo_self, counts_modMe s f h]
    show ((s.modMe f).me).retireTo _ _ = _
    rw [State.me_modMe]
  count := by
    show (((s.modMe f).retireTo s.cur pc).tile s.cur.tile).retired = _
    rw [State.tile_retireTo]
    simp only [if_true]
    show ((s.modMe f).tile s.cur.tile).retired + 1 = _
    have := (only_modThread s s.cur f).tile
    show ((s.modThread s.cur f).tile s.cur.tile).retired + 1 = _
    simp [State.modThread, State.tile_setThread, Tile.setThread]; rfl

theorem retires_id (s : State) (pc : Pc) : Retires s (s.retireTo s.cur pc) s.me pc where
  only := only_retireTo _ _ _
  me := State.thread_retireTo_self ..
  count := by
    show ((s.retireTo s.cur pc).tile s.cur.tile).retired = _
    rw [State.tile_retireTo]; simp only [if_true]; rfl

theorem target_eq (s : State) : trapTarget false s.me.priv = target s := by
  unfold target trapTarget; cases s.me.priv <;> rfl

theorem enters_of (s : State) (c : Nat) (v : Word) (h : CanTrap s) : Enters s (s.trap c v) (target s) c v := by
  have e : s.trap c v = s.enterHandler s.cur (target s) c v false := by
    unfold State.trap
    have := s.takeTrap_ready s.cur false c v false (by rw [show (s.thread s.cur).priv = s.me.priv from rfl, target_eq]; exact h)
    rw [this, show (s.thread s.cur).priv = s.me.priv from rfl, target_eq]
  rw [e]
  refine ⟨only_modThread _ _ _, ?_, ?_⟩
  · exact (State.thread_enterHandler ..).trans (by simp; rfl)
  · show ((s.modThread s.cur _).tile s.cur.tile).retired = _
    simp [State.modThread, State.tile_setThread, Tile.setThread]; rfl

@[simp] theorem Thread.setG_priv (t : Thread) (r v) : (t.setG r v).priv = t.priv := by unfold Thread.setG; split <;> rfl
@[simp] theorem Thread.setP_priv (t : Thread) (r v) : (t.setP r v).priv = t.priv := by unfold Thread.setP; split <;> rfl

theorem setRet_spec (s : State) (d : GReg) (v : Word) (n : Nat) :
    ∃ t, setRet d v n s = .next t ∧ Retires s t (s.me.setG d v) (s.me.pc + BitVec.ofNat 51 n) := by
  refine ⟨_, rfl, ?_⟩
  have := retires_of s (·.setG d v) (s.me.pc + BitVec.ofNat 51 n) (by simp)
  have hp : (s.setG d v).me.pc = s.me.pc := by
    show (s.modMe _).me.pc = _; rw [State.me_modMe]; unfold Thread.setG; split <;> rfl
  show Retires s ((s.setG d v).retireTo s.cur ((s.setG d v).me.pc + BitVec.ofNat 51 n)) _ _
  rw [hp]; exact this

theorem setRet_of (s : State) (d : GReg) (v w : Word) (n : Nat) (h : v = w) :
    ∃ t, setRet d v n s = .next t ∧ Retires s t (s.me.setG d w) (s.me.pc + BitVec.ofNat 51 n) := h ▸ setRet_spec s d v n

@[simp] theorem Thread.setA_priv (t : Thread) (r v) : (t.setA r v).priv = t.priv := rfl
@[simp] theorem Thread.setA_pc (t : Thread) (r v) : (t.setA r v).pc = t.pc := rfl
@[simp] theorem Thread.setG_pc (t : Thread) (r v) : (t.setG r v).pc = t.pc := by unfold Thread.setG; split <;> rfl
@[simp] theorem Thread.setP_pc (t : Thread) (r v) : (t.setP r v).pc = t.pc := by unfold Thread.setP; split <;> rfl

/-- A change of registers and the retirement of an instruction of `n` bytes. -/
theorem retires_len (s : State) (f : Thread → Thread) (n : Nat) (h : (f s.me).priv = s.me.priv)
    (hp : (f s.me).pc = s.me.pc) :
    Retires s ((s.modMe f).retireLen n) (f s.me) (s.me.pc + BitVec.ofNat 51 n) := by
  have := retires_of s f (s.me.pc + BitVec.ofNat 51 n) h
  have e : (s.modMe f).me.pc = s.me.pc := by rw [State.me_modMe]; exact hp
  show Retires s ((s.modMe f).retireTo s.cur ((s.modMe f).me.pc + BitVec.ofNat 51 n)) _ _
  rw [e]; exact this

end Sys2Proof.Machine
end

