-- ==== Sys2Proof/Laws/Memory.lean ====
section
/-! SUPPORT. Every operation on memory keeps the canonical form of the list of bytes, which reset has, and what the
writes of bytes leave at every cell. -/

namespace Sys2Proof.Machine

/-! ### Ranges of a sparse array -/

section
variable {α : Type} [DecidableEq α]

/-- No entry of a canonical array is a default value. -/
theorem SMap.ne_of_wfFrom (d : α) (m : SMap α) (b : Option Nat) (h : SMap.wfFrom d b m = true) (e : Nat × α)
    (he : e ∈ m) : e.2 ≠ d := by
  induction m generalizing b with
  | nil => cases he
  | cons x m ih =>
    obtain ⟨j, v⟩ := x
    simp only [SMap.wfFrom, Bool.and_eq_true] at h
    rcases List.mem_cons.mp he with rfl | hm
    · simpa using h.1.2
    · exact ih (some j) h.2 hm

/-- Entries with values that are not the default, listed anew under other keys. -/
theorem SMap.wf_puts (d : α) (es : List (Nat × α)) (key : Nat → Nat) (m : SMap α) (hv : ∀ e ∈ es, e.2 ≠ d)
    (h : SMap.wf d m = true) : SMap.wf d (es.foldl (fun m e => SMap.put m (key e.1) e.2) m) = true := by
  induction es generalizing m with
  | nil => exact h
  | cons e es ih =>
    exact ih _ (fun x hx => hv x (List.mem_cons_of_mem _ hx))
      (SMap.wfFrom_put d m none _ _ (hv e List.mem_cons_self) (fun _ hj => nomatch hj) h)

theorem moveRange_wf (d : α) (m : SMap α) (lo hi n : Nat) (h : SMap.wf d m = true) :
    SMap.wf d (moveRange m lo hi n) = true :=
  SMap.wf_puts d _ (fun k => hi + (k - lo)) _
    (fun e he => SMap.ne_of_wfFrom d m none h e (List.mem_filter.mp he).1) (SMap.wf_filter d m _ h)

theorem cutRange_wf (d : α) (m : SMap α) (lo n : Nat) (h : SMap.wf d m = true) : SMap.wf d (cutRange m lo n) = true :=
  SMap.wf_filter d m _ h

theorem copyRange_wf (d : α) (m : SMap α) (lo hi n : Nat) (h : SMap.wf d m = true) :
    SMap.wf d (copyRange m lo hi n) = true :=
  SMap.wf_puts d _ (fun k => hi + (k - lo)) _
    (fun e he => SMap.ne_of_wfFrom d m none h e (List.mem_filter.mp he).1) (cutRange_wf d m hi n h)
end

/-! ### Folds over states -/

/-- A property that each step of a fold keeps. -/
theorem foldl_keeps {α β : Type} (P : β → Prop) (f : β → α → β) (l : List α) (b : β) (hb : P b)
    (hf : ∀ b x, x ∈ l → P b → P (f b x)) : P (l.foldl f b) := by
  induction l generalizing b with
  | nil => exact hb
  | cons x l ih =>
    exact ih _ (hf b x List.mem_cons_self hb) fun b y hy => hf b y (List.mem_cons_of_mem _ hy)

/-- A fold of steps that leave memory alone leaves it alone. -/
theorem foldl_mem {α : Type} (f : State → α → State) (l : List α) (s : State) (hf : ∀ s x, (f s x).mem = s.mem) :
    (l.foldl f s).mem = s.mem := by
  induction l generalizing s with
  | nil => rfl
  | cons x l ih => exact (ih _).trans (hf s x)

/-! ### The writes of bytes -/

theorem reset_memory : Memory.wf State.reset.mem = true := rfl

@[simp] theorem touch_mem (s : State) (c : Nat) : (s.touch c).mem = s.mem := by unfold State.touch; split <;> rfl

theorem setByte_mem (s : State) (c : Nat) (b : Byte) : (s.setByte c b).mem = SMap.set 0 s.mem c b := rfl

theorem setByte_wf (s : State) (c : Nat) (b : Byte) (h : Memory.wf s.mem = true) : Memory.wf (s.setByte c b).mem = true :=
  SMap.wf_set 0 s.mem c b h

/-- A byte reads as last written, and every other byte as before. -/
theorem setByte_byte (s : State) (c x : Nat) (b : Byte) :
    (s.setByte c b).byte x = if x = c then b else s.byte x := SMap.get_set 0 s.mem c x b

@[simp] theorem unpoison_mem (s : State) (c : Nat) : (s.unpoison c).mem = s.mem := by
  simp only [State.unpoison]
@[simp] theorem poisonWord_mem (s : State) (c : Nat) : (s.poisonWord c).mem = s.mem := by
  simp only [State.poisonWord]; split <;> rfl

theorem store1_mem (s : State) (tag : Tag) (c : Nat) (b : Byte) : (s.store1 tag c b).mem = SMap.set 0 s.mem c b := by
  unfold State.store1
  split <;> simp [setByte_mem]

theorem store1_wf (s : State) (tag : Tag) (c : Nat) (b : Byte) (h : Memory.wf s.mem = true) :
    Memory.wf (s.store1 tag c b).mem = true := by
  rw [store1_mem]; exact SMap.wf_set 0 s.mem c b h

@[simp] theorem wake_mem (s : State) (t : ThreadId) : (s.wake t).mem = s.mem := by
  simp only [State.wake, State.postOnce, State.post, State.postAt]
  repeat (first | rfl | split)

@[simp] theorem wakeIf_mem (s : State) (f : ThreadId → Park → Bool) : (s.wakeIf f).mem = s.mem := by
  refine foldl_mem _ _ _ fun s t => ?_
  split
  · split
    · exact wake_mem ..
    · rfl
  · rfl

@[simp] theorem hitMonitors_mem (s : State) (ls : List Nat) : (s.hitMonitors ls).mem = s.mem := by
  refine foldl_mem _ _ _ fun s t => ?_
  dsimp only
  split
  · split <;> simp
  · rfl

theorem storeCells_wf (s : State) (tag : Tag) (bs : List (Nat × Byte)) (h : Memory.wf s.mem = true) :
    Memory.wf (s.storeCells tag bs).mem = true := by
  unfold State.storeCells
  rw [hitMonitors_mem]
  exact foldl_keeps (fun s => Memory.wf s.mem = true) _ _ _ h fun s (cb : Nat × Byte) _ hs => store1_wf s tag cb.1 cb.2 hs

/-- The bytes after a store: the last value written at a cell, and as before elsewhere. -/
theorem storeCells_byte (s : State) (tag : Tag) (bs : List (Nat × Byte)) (c : Nat) :
    (s.storeCells tag bs).byte c = bs.foldl (fun old w => if c = w.1 then w.2 else old) (s.byte c) := by
  unfold State.storeCells State.byte
  rw [hitMonitors_mem]
  induction bs generalizing s with
  | nil => rfl
  | cons w bs ih =>
    simp only [List.foldl_cons]
    rw [ih, store1_mem, SMap.get_set]

theorem writeN_wf (s : State) (tag : Tag) (c n v : Nat) (h : Memory.wf s.mem = true) :
    Memory.wf (s.writeN tag c n v).mem = true := storeCells_wf s tag _ h
theorem write64_wf (s : State) (tag : Tag) (c : Nat) (v : Word) (h : Memory.wf s.mem = true) :
    Memory.wf (s.write64 tag c v).mem = true := writeN_wf s tag c 8 v.toNat h

theorem setCap_wf (s : State) (gr : Nat) (r : Word) (h : Memory.wf s.mem = true) : Memory.wf (s.setCap gr r).mem = true := by
  unfold State.setCap
  split
  · exact foldl_keeps (fun s => Memory.wf s.mem = true) _ _ _ h fun s (cb : Nat × Byte) _ hs => setByte_wf s cb.1 cb.2 hs
  · exact h

theorem zeroGranule_wf (s : State) (gr : Nat) (h : Memory.wf s.mem = true) : Memory.wf (s.zeroGranule gr).mem = true := by
  simp only [State.zeroGranule]
  rw [wakeIf_mem]
  exact SMap.wf_filter 0 s.mem _ h

/-! ### The moves of whole granules and dies -/

theorem moveGranule_wf (s : State) (a b : Nat) (h : Memory.wf s.mem = true) : Memory.wf (s.moveGranule a b).mem = true := by
  unfold State.moveGranule
  split
  · exact h
  · exact moveRange_wf 0 _ _ _ _ (moveRange_wf 0 s.mem _ _ _ h)

theorem zeroDie_wf (s : State) (z : Nat) (h : Memory.wf s.mem = true) : Memory.wf (s.zeroDie z).mem = true :=
  cutRange_wf 0 _ _ _ (cutRange_wf 0 s.mem _ _ h)

@[simp] theorem vacateDie_mem (s : State) (z : Nat) : (s.vacateDie z).mem = s.mem := rfl
@[simp] theorem emptyDie_mem (s : State) (z : Nat) : (s.emptyDie z).mem = s.mem := wakeIf_mem ..

/-- The device at power on holds no byte (R330). -/
theorem powerOn_mem (s : State) : s.powerOn.mem = [] := rfl

/-- A frame that leaves changes nothing but its port, the agenda and the counters (R244, R245). -/
theorem State.sendFrame_frame (s : State) (dev owner : Nat) :
    (s.sendFrame dev owner).mem = s.mem ∧ (s.sendFrame dev owner).tiles = s.tiles ∧
    (s.sendFrame dev owner).parts = s.parts ∧ (s.sendFrame dev owner).ctxs = s.ctxs ∧
    (s.sendFrame dev owner).stray = s.stray := by
  unfold State.sendFrame
  extract_lets ps
  split
  · exact ⟨rfl, rfl, rfl, rfl, rfl⟩
  · extract_lets seq again t
    split <;> exact ⟨rfl, rfl, rfl, rfl, rfl⟩

end Sys2Proof.Machine
end

