-- ==== Sys2Proof/Tests/Slice0.lean ====
section
/-! SUPPORT. Tests of the model against the worked examples of the manual, and a witness for the hypotheses of
each statement. Words, operands and results come from the examples of spec/, named beside each. -/

namespace Sys2Proof.Test

open Sys2Proof Sys2Proof.Machine Sys2Proof.Claim

set_option Elab.async false

/-! ### Words (the examples of spec/11_encoding.md to 18_ref_v_y.md) -/

/-- Every word decodes to its instruction, and every instruction encodes to its word. -/
def readsAs (l : List (Nat × Instr)) : Bool :=
  l.all fun p => decodeTableWord 32 p.1 == some p.2 && encode p.2 == [BitVec.ofNat 32 p.1]

/-- Examples of scalar (R341, R359, R402, R404, R434). -/
theorem test_decode_scalar : readsAs [
    (0x04414620, .add 4 5 6 true), (0x0431000E, .clz 3 4), (0x04310504, .div 3 4 5 false),
    (0x04310508, .xor 3 4 5), (0x0861BFFF, .addi 6 6 (-1)), (0x0CF3FFFF, .andi 15 15 0x3FFF),
    (0x1060C075, .ori 6 3 0x75), (0x14208001, .xori 2 2 1), (0x1820805F, .shli 2 2 true 31),
    (0x1CF0C004, .shri 15 3 false 4), (0x2830C012, .limh 3 3 0x12)] = true := by decide +kernel

/-- Examples of predicates (R353, R395, R349, R368). -/
theorem test_decode_predicates : readsAs [
    (0x2D410500, .cmp 2 .ltu 4 5), (0x30918000, .cmpi 1 .ne 6 0), (0x3594C000, .plog 3 1 2 6),
    (0x40BFFFFB, .br 1 false (-5)), (0x41400003, .br 2 true 3), (0x47F00010, .jal 63 16),
    (0x480FC000, .jr 0 63 0), (0x48518002, .jr 5 6 2)] = true := by decide +kernel

/-- Examples of memory (R338, R374, R378, R405, R408, R410). -/
theorem test_decode_memory : readsAs [
    (0x50CC7002, .aaddb 3 3 7), (0x50803005, .atag 2 0 3), (0x6041A003, .ld 4 1 .wu 3),
    (0x6550C001, .st 21 0 .d 1), (0x64315FFF, .st 3 1 .h (-1)), (0x6C532001, .ste 5 3 .fp32 1),
    (0x70222000, .ldv 2 2 .fp32 0), (0x7446C000, .stv 4 6 .i16 0), (0x78322520, .ldvx 3 2 .fp32 5 1),
    (0x7C322520, .stvx 3 2 .fp32 5 1)] = true := by decide +kernel

/-- Examples of full/empty, copies and barrier objects (R169, R171, R339, R364). -/
theorem test_decode_full_empty : readsAs [
    (0x80522001, .fill 5 2 1), (0x80260000, .take 2 6 0), (0x8041A002, .feprobe 4 1 2),
    (0x8C366000, .bowait 3 6 0), (0x888D0401, .acopy 2 3 4 1 true), (0x88518001, .acopy 1 4 6 0 true)] = true := by decide +kernel

/-- Examples of messages and work (R76, R228, R396, R407). -/
theorem test_decode_messages_and_work : readsAs [
    (0xA0014600, .send 5 6), (0xA031C404, .recvt 3 4 7), (0xA0030D06, .reply 12 13), (0xA0400702, .recv 4 7),
    (0xA0500705, .probe 5 7), (0xA4018500, .spawn 6 5 0), (0xA9455601, .start 20 21 22),
    (0xA9418002, .hjoin 20 6), (0xA9400000, .waitwork 20)] = true := by decide +kernel

/-- Examples of synchronisation (R161, R174, R346, R386). -/
theorem test_decode_synchronisation : readsAs [
    (0xAC090060, .fence .dev 0x24), (0xAC3FC060, .fence .dev 0xFF), (0xAC004060, .fence .dev 1),
    (0xADF70001, .monarm 31 28), (0xAD818002, .monwait 24 6), (0xAC008064, .barw .plane 2),
    (0xAD808665, .barwt .plane 24 2 6), (0xAC014006, .cbsync 5)] = true := by decide +kernel

/-- Examples of atomics, tickets and capabilities (R165, R177, R179, R191, R343, R350). -/
theorem test_decode_atomics : readsAs [
    (0xC0540630, .amo .add false .dev 5 4 6), (0xC0510680, .amo .add true .thr 5 1 6),
    (0xC4810A31, .cas128 .dev 8 1 10), (0xD0020980, .red .add true 2 9), (0xD0020103, .red .xor false 2 1),
    (0xC9425561, .tfadd .fp32 20 2 21 22), (0xC80224AB, .tfmax .bf16x2 0 2 9 10),
    (0xCCA30B00, .tkopen false 10 3 11), (0xCCA30011, .tkclose true 10 3), (0xD4410500, .capgive 4 1 5),
    (0xD4620002, .capq 6 2), (0xD4070713, .capmode true 7 7)] = true := by decide +kernel

/-- Examples of the vector unit (R203, R424 to R433). -/
theorem test_decode_vector_unit : readsAs [
    (0xE0EB2813, .vfma .fp32 7 11 5 0), (0xE0C50018, .vexp2 .fp32 6 5 0), (0xE18B0319, .vrcp .fp32 12 11 3),
    (0xE041101C, .vred .max .fp32 2 1 0), (0xE16BF81E, .vcmp .ne .fp32 3 11 31 0),
    (0xE4432068, .vsar .i16 2 3 4 0), (0xE89F1910, .vsel .fp32 4 31 3 1), (0xEBC40012, .vbcast .fp32 30 4 0),
    (0xEAC1D843, .vmovg .i64 22 1 27), (0xE832E844, .vlane .i64 1 18 29), (0xE88A5857, .vrng 4 10 11 0),
    (0xEC822C10, .vcvt false .fp32 4 2 5 .sr), (0xED022811, .vquant .fp32 8 2 5 0),
    (0xED482812, .vdeq .fp32 10 8 5 0)] = true := by decide +kernel

/-- Examples of the matrix unit and the Infuser (R380 to R390). -/
theorem test_decode_matrix_unit_and_Infuser : readsAs [
    (0xF0000480, .mzero true 0), (0xF2000400, .mzero false 2), (0xF1200001, .mma 1 0 4), (0xF0400002, .mldb 0 8),
    (0xF0800003, .mrot 1 .x), (0xF0000023, .mrot 0 .z), (0xF1380004, .mstz 1 7), (0xF0300005, .mldz 0 6),
    (0xF0290086, .msub 0 5 8 1), (0xF02AE007, .mpost 5 23), (0xF0000008, .munsub 0), (0xF280E009, .mpois 7 2 1),
    (0xF001400A, .mwait 0 10)] = true := by decide +kernel

/-- Examples of collectives, the Kettle and the system (R139, R314, R320, R332, R355, R411, R421). -/
theorem test_decode_collectives : readsAs [
    (0xF4040000, .coll 4), (0xF4940001, .collwait 9 4), (0xF8230400, .kcmd 2 3 4), (0xF8000001, .kfence),
    (0xFC000005, .trap 5), (0xFC400800, .sysr 4 0), (0xFC311012, .sysx 3 4 0x12),
    (0xFC01D403, .tlbinv 7 .page .dev), (0xFC00140A, .tlbinv 0 .owner .col), (0xFC025413, .tlbinv 9 .win .dev),
    (0xFC311C00, .kill 3 4), (0xFC402402, .sigrd 4 2)] = true := by decide +kernel

/-- R301: the prefix 0x3C04_0000 with the word 0x2490_0000 is one instruction. -/
theorem test_decode_ext : decodeTableWord 64 0x249000003C040000 = some (.ext 0x40000 0x24900000) := by decide +kernel

/-- R307: undefined words are refused: the zero word, op 0, a reserved op, a reserved fn, a reserved condition, a
reserved format, a nonzero field shown as zero. -/
theorem test_decode_reserved : [0, 1, 0x38000000, 0x0400001F, 0x2C600000, 0xE4000080, 0x04000040].all (fun w =>
    (decodeTableWord 32 w).isNone) = true := by decide +kernel

/-! ### Ill-formed terms: each check of `Instr.wf` refuses one -/

/-- A term that `wf` refuses, whose words the decoder refuses too. -/
def illFormed (i : Instr) : Bool := !i.wf && (decode (encodeBytes i)).toOption.isNone

theorem test_wf_shift : [Instr.shli 1 1 true 32, .shri 1 1 true 63, .sari 1 1 true 40].all illFormed = true := by
  decide +kernel
theorem test_wf_pointers : [Instr.aaddb 15 3 7, .aaddb 3 15 7, .ldvx 1 1 .bf16 1 1, .stvx 1 1 .i8 1 1].all
    illFormed = true := by decide +kernel
theorem test_wf_sync : [Instr.fence .dev 0, .cas128 .dev 9 1 10, .cas128 .dev 8 1 11, .red .swap false 1 1].all
    illFormed = true := by decide +kernel
theorem test_wf_vector : [Instr.vadd .i32 1 2 3 0, .vsub .i8 1 2 3 0, .vmul .i64 1 2 3 0, .vfma .i16 1 2 3 0,
    .vmin .i32 1 2 3 0, .vmax .i32 1 2 3 0, .vabs .i8 1 2 0, .vneg .i8 1 2 0, .vcmp .eq .i32 1 2 3 0,
    .vexp2 .fp64 1 2 0, .vrcp .i32 1 2 0, .vrsq .fp64 1 2 0, .vlog2 .fp64 1 2 0].all illFormed = true := by
  decide +kernel
theorem test_wf_integer : [Instr.viadd .fp32 1 2 3 0, .visub .fp64 1 2 3 0, .vimul .bf16 1 2 3 0, .vand .fp16 1 2 3 0,
    .vor .fp32 1 2 3 0, .vxor .fp32 1 2 3 0, .vshl .fp32 1 2 3 0, .vshr .fp32 1 2 3 0, .vsar .fp32 1 2 3 0,
    .vimin .fp32 1 2 3 0, .vimax .fp32 1 2 3 0].all illFormed = true := by decide +kernel
theorem test_wf_codes : [Instr.vquant .fp64 2 2 1 0, .vquant .fp32 3 2 1 0, .vdeq .i8 2 2 1 0, .vdeq .fp32 2 3 1 0,
    .msub 0 1 1 0, .vcvt false .i8 1 1 1 .sr, .vcvt true .i8 1 1 1 .srsat].all illFormed = true := by decide +kernel

/-! ### A small device: one task, in slot 0 of tile 0 -/

/-- Context 5 of owner 1 in partition 0. -/
def tag : Tag := mkTag 1 0 5
def task : Task :=
  { tag := tag, root := 5, launch := 1, priv := .task, prio := 1, node := 0x1000, pk := 0, rdm := 0, copy := 0
    entry := 0x1000, args := [], fps := [], pins := [], caller := 5, callTile := 0, rtag := 0, recalled := false
    called := false, deliv := 0, phase := .running, unserved := false, dest := none, started := 0 }
/-- The thread of slot 0: at 0x1000, g1 = 7, g2 = −1, g3 = 8, and a1 to own-bank offset 0x100 on path 1. -/
def thread0 : Thread :=
  { Thread.zero with
    st := .ready, pc := 0x1000, g := ((Thread.zero.g.set 1 7).set 2 (-1)).set 3 8
    a := (Thread.zero.a.set 1 (mkPtr 1 0x100)).set 2 (mkPtr 2 0x100) }
/-- The device with that thread changed by `f`, its tile by `h`; granules 0 and 1 of bank 0 are the task's. -/
def device (f : Thread → Thread) (h : Tile → Tile) : State :=
  { State.reset with
    tiles := [(0, h { Tile.zero with slots := [(0, f thread0)], task := some task })]
    ctxs := [(tag.toNat, { Ctx.zero with live := true, root := 5, launch := 1, isRoot := true })]
    owners := [(ownerKey tag, { OwnerRegs.zero with trapbase := 0x8001 })]
    bankCap := [(2 ^ 51, mkCap tag 0 false 5), (2 ^ 51 + 1, mkCap tag 0 false 5)] }
/-- The device as it stands, and with one thread changed. -/
def dev : State := device id id
def devT (f : Thread → Thread) : State := device f id
/-- The same at another level. -/
def devAt (l : Priv) : State := devT fun th => { th with priv := l }

/-- A result that is the one named. -/
def isOk {ε α : Type} [DecidableEq α] (x : Except ε α) (v : α) : Bool :=
  match x with
  | .ok a => decide (a = v)
  | .error _ => false
theorem of_isOk {ε α : Type} [DecidableEq α] {x : Except ε α} {v : α} (h : isOk x v = true) : x = .ok v := by
  cases x <;> simp_all [isOk]
def isErr {ε α : Type} [DecidableEq ε] (x : Except ε α) (e : ε) : Bool :=
  match x with
  | .ok _ => false
  | .error a => decide (a = e)
/-- A result, and what holds of it. -/
def okAnd {ε α : Type} (x : Except ε α) (p : α → Bool) : Bool :=
  match x with
  | .ok a => p a
  | .error _ => false
theorem of_okAnd {ε α : Type} {x : Except ε α} {p : α → Bool} (h : okAnd x p = true) : ∃ a, x = .ok a ∧ p a = true := by
  cases x <;> simp_all [okAnd]
theorem of_isErr {ε α : Type} [DecidableEq ε] {x : Except ε α} {e : ε} (h : isErr x e = true) : x = .error e := by
  cases x <;> simp_all [isErr]
theorem here_from {c n : Nat} (h : c + n ≤ hbmSize ∨ 2 ^ 63 ≤ c ∧ c + n ≤ 2 ^ 66) : Here (cellsFrom c n) := by
  intro x hx
  simp only [cellsFrom, List.mem_map, List.mem_range] at hx
  obtain ⟨i, hi, rfl⟩ := hx
  simp only [hbmSize] at *
  omega
/-- The next state, where there is one. -/
def next (o : Host.Outcome State Fault Refusal) : State :=
  match o with
  | .next t => t
  | _ => State.reset
/-- The next state has the property. -/
def gives (i : Instr) (s : State) (p : State → Bool) : Bool :=
  match exec i s with
  | .next t => p t
  | _ => false

/-! ### Witnesses: states and operands that meet the hypotheses of the statements -/

theorem witness_ScalarResults : (Instr.shli 4 2 true 31).wf = true ∧
    scalarResult dev.me (.shli 4 2 true 31) = some (4, 0xFFFFFFFF80000000) := by decide +kernel
/-- R341's example: 0x7FFF_FFFF + 1 in 32 bits. -/
theorem test_add_w : gives (.add 4 1 3 true) (devT fun th => { th with g := (th.g.set 1 0x7FFFFFFF).set 3 1 })
    (fun t => t.g 4 == 0xFFFFFFFF80000000 && t.me.pc == 0x1004) = true := by decide +kernel
/-- R341's example: CLZ of 0x1_0000 is 47. -/
theorem test_clz : gives (.clz 3 4) (devT fun th => { th with g := th.g.set 4 0x10000 }) (fun t => t.g 3 == 47) = true := by
  decide +kernel

theorem witness_DivRemResults : dev.g 1 ≠ 0 ∧ dev.g 0 = 0 ∧ dev.trapReady dev.cur (target dev) = true := by decide +kernel
/-- R359: −2^63 ÷ −1 gives −2^63, remainder 0. -/
theorem test_div_overflow : gives (.div 4 1 2 false) (devT fun th => { th with g := th.g.set 1 (BitVec.intMin 64) })
    (fun t => t.g 4 == BitVec.intMin 64) = true := by decide +kernel

theorem witness_ExtPairs : decodeWord 0x24900000 0 = some (.lim 9 0) ∧ decodeWord 0x04414620 0 = some (.add 4 5 6 true) ∧
    decodeWord 0xFFFFFFFF 0 = none ∧ dev.trapReady dev.cur (target dev) = true := by decide +kernel
/-- R301's example. -/
theorem test_ext_lim : gives (.ext 0x40000 0x24900000) dev (fun t => t.g 9 == 0x100000000 && t.me.pc == 0x1008) = true := by
  decide +kernel

theorem witness_BranchTargets :
    dev.me.getP 1 = false ∧ dev.me.getP 0 ≠ false ∧
    (0 ≤ (dev.me.pc.toNat : Int) + (-1024 : Int) * 4) ∧ ((dev.me.pc.toNat : Int) + (-1025 : Int) * 4 < 0) ∧
    (dev.g 3 + 0 * 4).toNat % 4 = 0 ∧ (dev.g 1 + 0 * 4).toNat % 4 ≠ 0 ∧ 2 ^ 51 ≤ (dev.g 2 - 3).toNat ∧
    (dev.g 2 - 3).toNat % 4 = 0 := by decide +kernel
/-- R368's example: JR g5, g6, 8. -/
theorem test_jr : gives (.jr 5 6 2) (devT fun th => { th with g := th.g.set 6 0x2000 })
    (fun t => t.me.pc == 0x2008 && t.g 5 == 0x1004) = true := by decide +kernel

/-- R338's example: a block-scaled pointer and its scales. -/
def scaled : State := devT fun th => { th with
  a := (th.a.set 3 0x3148000000001000).set 4 0x3408000000002000, g := (th.g.set 7 64).set 8 (BitVec.intMin 64) }
theorem witness_PointerResults :
    (dev.g 1).toNat < 2 ^ 51 ∧ 2 ^ 51 ≤ (dev.g 2).toNat ∧ (dev.g 1).toNat < 2 ^ 13 ∧
    (addr (dev.me.getA 1) : Int) + (-0x100) = 0 ∧ (addr (dev.me.getA 1) : Int) + (-0x101) < 0 ∧
    (let p := scaled.me.getA 3
     decide (p.toNat / 2 ^ 54 % 16 ≠ 0) && fmtScales (p.toNat / 2 ^ 58)) = true ∧
    (64 : Int).tmod (blockBytes (scaled.me.getA 3)) = 0 ∧ (8 : Int).tmod (blockBytes (scaled.me.getA 3)) ≠ 0 ∧
    (addr (scaled.me.getA 3) : Int) + (scaled.g 8).toInt < 0 ∧
    (addr (scaled.me.getA 4) : Int) + (-2 ^ 17 * 16 : Int).tdiv 16 < 0 := by decide +kernel
theorem test_aaddb : gives (.aaddb 3 3 7) scaled
    (fun t => t.me.getA 3 == 0x3148000000001040 && t.me.getA 4 == 0x3408000000002004) = true := by decide +kernel

theorem witness_AccessChecks : ([1, 2].contains (ptrPath (mkPtr 3 0)) = false) ∧ ([1, 2].contains (ptrPath (mkPtr 1 0)) = true) ∧ dev.bankOf 0 1 = some 0 ∧
    dev.bankOf 0 2 = some 256 ∧ dev.bankOf 0 3 = none ∧ ([1, 2].contains (ptrPath (mkPtr 2 0)) = true) ∧ dev.me.priv = .task ∧ dev.computes 0 = true ∧ 2 ^ 22 < 2 ^ 22 - 4 + 8 ∧
    (2 ^ 22 - 2 ^ 12 ≤ 2 ^ 22 - 8 ∧ 2 ^ 22 - 8 + 8 ≤ 2 ^ 22) ∧ 0x104 % 8 ≠ 0 := by decide +kernel
/-- a3 points to FP32 elements at own-bank offset 0x400 (R122); v5 holds 0, 7, 0, 2 and g5 the FP32 number 2.0. -/
def elems (l : Priv) : State := devT fun th => { th with
  priv := l, a := th.a.set 3 0x2408000000000400, g := th.g.set 5 0x40000000
  v := th.v.set 5 (BitVec.ofNat 2048 (7 * 2 ^ 32 + 2 * 2 ^ 96)) }
/-- The first cells of the element access [a3], and the source of its lane 0. -/
def cells400 (n : Nat) : List Nat := cellsFrom (bankCell 0 0x400) n
def lane0 : LaneSrc := { lane := 0, cells := cells400 4, hi := false, scale := none, va := 0x400, sva := 0 }

theorem witness_LoadedValues : ([lane0].map (·.lane)).Nodup ∧ (∀ x ∈ [lane0], x.lane < VFmt.fp32.lanes) := by decide +kernel
theorem witness_LoadsComplete_ld :
    (dev.access ldPaths .load (dev.me.getA 1) true (addr (dev.me.getA 1) + (0 : BitVec 13).toInt * ldBytes .d)
      (ldBytes .d) (ldBytes .d)).get (ldBytes .d) = .ok (true, cellsFrom (bankCell 0 0x100) 8) ∧
    dev.mustHold 1 (cellsFrom (bankCell 0 0x100) 8) = false ∧
    dev.poisoned (cellsFrom (bankCell 0 0x100) 8) = false ∧ Clean dev :=
  ⟨of_isOk (by decide +kernel), by decide +kernel, by decide +kernel, rfl⟩
theorem witness_LoadsComplete_lde :
    (elems .task).elements elPaths .load 3 ((elems .task).elemOk 3 true 1) (0 : BitVec 13).toInt 1 =
      .ok (true, cells400 4, [lane0]) ∧
    (elems .task).scaleNear 3 = true ∧ (elems .task).poisoned (cells400 4) = false ∧
    (elems .task).mustHold 1 lane0.cells = false ∧ (elems .task).mustHold 1 lane0.scale.toList = false :=
  ⟨of_isOk (by decide +kernel), by decide +kernel⟩
def lane1 : LaneSrc := { lane0 with lane := 1, cells := cellsFrom (bankCell 0 0x41C) 4, va := 0x41C }
theorem witness_LoadsComplete_ldvx :
    (elems .task).indexed elPaths .load 3 ((elems .task).me.getV 5) [1] (fun _ _ _ => none) = .ok (true, [(1, lane1.cells, lane1)]) ∧
    (elems .task).poisoned lane1.cells = false ∧ (elems .task).mustHold 1 lane1.cells = false :=
  ⟨of_isOk (by decide +kernel), by decide +kernel⟩
/-- R374's example: LD.wu g4, [a1+12] zero-extends. -/
theorem test_ld_wu : gives (.ld 4 1 .wu 3) (dev.writeN 0 (bankCell 0 0x10C) 4 0xFFFFFFFE)
    (fun t => t.g 4 == 0xFFFFFFFE && t.me.pc == 0x1004) = true := by decide +kernel

def response : LoadReq :=
  { tid := ⟨0, 0⟩, path := 0, spath := 0, ptr := mkPtr 0 0x100, dest := .raw 4 .d (cellsFrom 0x100 8), remote := none, fills := [], own := []
    ord := 9, gone := false, got := [] }
/-- The same for a thread that has gone on. -/
def gone : State := devT fun th => { th with loads := [(9, response.dest)] }
theorem witness_LoadResponses : (devT fun th => { th with st := .awaiting }).waits response.tid = true ∧
    dev.wants response = false ∧ dev.wants { response with gone := true } = false ∧
    ((gone.thread response.tid).loads.any fun l => l.1 == response.ord) = true ∧ response.remote = none ∧ dev.poisoned (destCells response.dest) = false ∧
    (∀ c ∈ destCells response.dest, (c < hbmSize ∨ 2 ^ 63 ≤ c) ∧ c < 2 ^ 66) := by decide +kernel
theorem test_response : gives (.loadResponse response) ((devT fun th => { th with st := .awaiting }).writeN 0 0x100 8 77)
    (fun t => t.g 4 == 77 && t.me.st == .ready && t.me.pc == 0x1004) = true := by decide +kernel
/-- R374: the thread that has gone on gets the value where it is. -/
theorem test_response_gone : gives (.loadResponse { response with gone := true }) (gone.writeN 0 0x100 8 77)
    (fun t => t.g 4 == 77 && t.me.loads == [] && t.me.pc == 0x1000) = true := by decide +kernel

/-- The cells of ST.d g1, [a1] and the bytes it writes. -/
def st100 : List (Nat × Byte) := (cellsFrom (bankCell 0 0x100) 8).zip (bytesOfNat 8 7)
theorem witness_StoresComplete_st :
    (dev.access stPaths .store (dev.me.getA 1) true (addr (dev.me.getA 1) + (0 : BitVec 13).toInt * stBytes .d) 8 8).get 8 =
      .ok (true, cellsFrom (bankCell 0 0x100) 8) ∧ ptrPath (dev.me.getA 1) = 1 ∧
    (∀ c ∈ st100.map (·.1), (c < hbmSize ∨ 2 ^ 63 ≤ c) ∧ c < 2 ^ 66) ∧
    dev.storeStops (epOf (dev.me.getA 1) 0x100) true st100 none = none ∧
    dev.storeWaits 1 (epOf (dev.me.getA 1) 0x100) st100 = false ∧ Clean dev := by
  refine ⟨of_isOk ?_, ?_, ?_, ?_, ?_, rfl⟩
  all_goals decide +kernel
theorem witness_StoresComplete_ste :
    (elems .task).elements esPaths .store 3 ((elems .task).elemOk 3 true 1) (0 : BitVec 13).toInt 1 =
      .ok (true, cells400 4, [lane0]) ∧
    okAnd ((elems .task).readScales ((elems .task).scalePath 3) [lane0]) (fun r =>
      let b := elemBytes 2 lane0 (elemStore .rne .fp32 2 (scaleIn r.1 lane0) 0x40000000).1
      (r.2.storeStops (epOf ((elems .task).me.getA 3) 0x400) true b none).isNone &&
      !r.2.storeWaits 1 (epOf ((elems .task).me.getA 3) 0x400) b) = true :=
  ⟨of_isOk (by decide +kernel), by decide +kernel⟩
/-- STV and STVX of v5 through a3: all 64 lanes in a row, and lane 1 at index 7. -/
theorem witness_StoresComplete_stv :
    isOk (((elems .task).elements esPaths .store 3 ((elems .task).elemOk 3 false 64) 0 64).map fun r => (r.1, r.2.1))
      (true, cells400 256) = true ∧
    okAnd ((elems .task).elements esPaths .store 3 ((elems .task).elemOk 3 false 64) 0 64) (fun e =>
      okAnd ((elems .task).readScales ((elems .task).scalePath 3) e.2.2) fun r =>
        let b := (elems .task).laneBytes ((elems .task).me.getA 3) r.1 .fp32 ((elems .task).me.getV 5) e.2.1 e.2.2
        (r.2.storeStops (epOf ((elems .task).me.getA 3) 0x400) true b.1 none).isNone &&
        !r.2.storeWaits 1 (epOf ((elems .task).me.getA 3) 0x400) b.1) = true := by
  decide +kernel
theorem witness_StoresComplete_stvx : (elems .task).indexed esPaths .store 3 ((elems .task).me.getV 5) [1]
      ((elems .task).scatterStop ((elems .task).me.getA 3) ((elems .task).me.getV 5)) = .ok (true, [(1, lane1.cells, lane1)]) ∧
    okAnd ((elems .task).readScales ((elems .task).scalePath 3) [lane1]) (fun r =>
      let ops := (elems .task).scatter ((elems .task).me.getA 3) r.1 .fp32 ((elems .task).me.getV 5)
        ((elems .task).me.getV 5) [(1, lane1.cells, lane1)]
      ops.length == 1 && ops.all fun o => !r.2.storeWaits 1 o.1 o.2.1) = true :=
  ⟨of_isOk (by decide +kernel), by decide +kernel⟩
theorem test_st : gives (.st 1 1 .d 0) dev (fun t => t.read64 (bankCell 0 0x100) == 7 && t.byte (bankCell 0 0x108) == 0) = true := by
  decide +kernel
/-- R408's example: FP32 2.00048828125 stored as FP16 is 2.0, inexact. -/
theorem test_ste : gives (.ste 5 3 .fp32 1) (devT fun th => { th with
      a := th.a.set 3 0x2C08000000000000, g := th.g.set 5 0x40000800 })
    (fun t => t.readN (bankCell 0 2) 2 == 0x4000 && t.me.fstat == 0x10) = true := by decide +kernel
/-- A page of HBM at 0x5000, readable, writable, marked dirty (R135), in the TLBs of tile 0; a4 points there. -/
def page (va : Nat) : TlbEntry :=
  { tag := tag, vbase := va, log := 12, leaf := BitVec.ofNat 64 (va + 0xC1F), pte := 0, level := 2, dt := true, dev := 0 }
def paged (f : Thread → Thread) : State :=
  device (fun th => f { th with a := th.a.set 4 (mkPtr 0 0x5000) })
    (fun ti => { ti with dtlb := [page 0x5000], itlb := [page 0x1000] })
theorem witness_LoadsComplete_far :
    ((paged id).access ldPaths .load ((paged id).me.getA 4) true
      (addr ((paged id).me.getA 4) + (0 : BitVec 13).toInt * ldBytes .d) 8 8).get 8 = .ok (false, cellsFrom 0x5000 8) ∧
    (paged id).mustHold 0 (cellsFrom 0x5000 8) = false ∧ (paged id).mustHold 0 [] = false ∧
    (paged id).rocFills 0 0x5000 (cellsFrom 0x5000 8) = [] := ⟨of_isOk (by decide +kernel), by decide +kernel⟩
def st5000 : List (Nat × Byte) := (cellsFrom 0x5000 8).zip (bytesOfNat 8 7)

theorem witness_PostedStores :
    ((paged id).access stPaths .store ((paged id).me.getA 4) true
      (addr ((paged id).me.getA 4) + (0 : BitVec 13).toInt * stBytes .d) 8 8).get 8 = .ok (false, cellsFrom 0x5000 8) ∧
    (paged id).det = false ∧ (paged id).lookup 0 .store (paged id).myTag 0x5000 = some (page 0x5000) ∧
    (paged id).storeStops (epOf (mkPtr 0 0x5000) 0x5000) false st5000 none = none ∧
    (paged id).storeWaits 0 (epOf (mkPtr 0 0x5000) 0x5000) st5000 = false ∧
    (dev.ctx tag).live = true ∧ (dev.ctx tag).dying = false ∧ (dev.ctx 9).live = false ∧
    dev.storeFails tag st100 none = none ∧ dev.storeFails 9 st100 none ≠ none ∧ (dev.tile 0).wcDue ≤ dev.now :=
  ⟨of_isOk (by decide +kernel), by decide +kernel⟩
/-- In deterministic mode, with a page of window 0 at 0x5000; the window is open, of 4 KiB, for every access (R246). -/
def remoteAt (f : Thread → Thread) : State :=
  (((device (fun th => f { th with a := th.a.set 4 (mkPtr 0 0x5000) }) (fun ti =>
    { ti with dtlb := [{ page 0x5000 with leaf := 0xE1F }] })).modPart 0 fun p =>
      { p with mode := 1, winb := 0x40000 }).writeN 0 0x40000 8 1).writeN 0 0x40008 8 0x1CC
def awaited : StoreReq :=
  { tid := ⟨0, 0⟩, tag := tag, path := 0, ptr := mkPtr 0 0x5000, insn := 0, cells := st100, nib := none, opnd := 7, remote := none
    slots := [], waited := some 4 }
theorem witness_PostedStores_waits :
    ((remoteAt id).access stPaths .store ((remoteAt id).me.getA 4) true
      (addr ((remoteAt id).me.getA 4) + (0 : BitVec 13).toInt * stBytes .d) 8 8).get 8 = .ok (false, remoteCells 0 0 8) ∧
    (remoteAt id).det = true ∧ (∃ c ∈ remoteCells 0 0 8, isRemoteCell c = true) ∧
    ((remoteAt id).lookup 0 .store tag 0x5000).any (·.dt) = true ∧
    (let ws := (remoteCells 0 0 8).zip (bytesOfNat 8 7)
     (remoteAt id).storeStops (epOf (mkPtr 0 0x5000) 0x5000) true ws none = none ∧
     (remoteAt id).storeWaits 0 (epOf (mkPtr 0 0x5000) 0x5000) ws = false) ∧
    dev.storeFails tag awaited.cells none = none ∧ (devT fun th => { th with st := .awaiting }).waits awaited.tid = true ∧
    (∀ q ∈ dev.agenda, awaitedStore awaited.tid q.ev = false) := ⟨of_isOk (by decide +kernel), by decide +kernel⟩
theorem test_posted : gives (.st 1 4 .d 0) (paged id)
    (fun t => t.byte 0x5000 == 0 && t.agenda.length == 2 && t.me.pc == 0x1004) = true := by decide +kernel

theorem reach_fe (k : AccKind) (h : k = .load ∨ k = .store) : FeReach dev 1 0 k (bankCell 0 0x100) :=
  ⟨⟨cellsFrom (bankCell 0 0x101) 7, of_isOk (by rcases h with rfl | rfl <;> decide +kernel), by decide +kernel⟩,
    by decide +kernel, by decide +kernel, here_from (by decide +kernel), by decide +kernel, by decide +kernel,
    by decide +kernel, rfl⟩
theorem witness_FullEmptyCompletes : FeReach dev 1 0 .load (bankCell 0 0x100) ∧ FeReach dev 1 0 .store (bankCell 0 0x100) ∧
    dev.full (bankCell 0 0x100) = false ∧ dev.capCheck dev.myTag (cellGranule (bankCell 0 0x100)) = none ∧
    ({ dev with fe := [(bankCell 0 0x100 / 8, true)] } : State).full (bankCell 0 0x100) = true :=
  ⟨reach_fe _ (.inl rfl), reach_fe _ (.inr rfl), by decide +kernel⟩
/-- R169: FILL of an empty word stores and leaves it full; TAKE of an empty word parks. -/
theorem test_fill : gives (.fill 1 1 0) dev
    (fun t => t.full (bankCell 0 0x100) && t.read64 (bankCell 0 0x100) == 7 && t.me.pc == 0x1004) = true := by decide +kernel
theorem test_take_parks : gives (.take 1 1 0) dev
    (fun t => t.me.st == .parked (.fullEmpty (bankCell 0 0x100)) && t.me.pc == 0x1000) = true := by decide +kernel

def feReq (op : FeOp) : FeReq :=
  { tid := ⟨0, 0⟩, tag := tag, path := 0, ptr := 0, cell := bankCell 0 0x100, op := op, reg := 4, data := 9 }
def waiting : State := devT fun th => { th with st := .awaiting }
theorem witness_FullEmptyAtHome : waiting.expects (feReq .fill).tid = true ∧ waiting.parkOwed (feReq .fill).tid = false ∧
    waiting.lateAtPoints (feReq .fill).tid = false ∧ dev.expects (feReq .fill).tid = false ∧
    waiting.feWaiters (feReq .fill).cell = [] ∧ waiting.full (feReq .fill).cell = false ∧
    waiting.capCheck tag (cellGranule (feReq .fill).cell) = none ∧ (feReq .fill).cell % 8 = 0 ∧
    waiting.poisoned (cellsFrom (feReq .take).cell 8) = false ∧
    ({ waiting with fe := [((feReq .take).cell / 8, true)] } : State).full (feReq .take).cell = true := by decide +kernel

/-- A barrier object at own-bank offset 0x100, PEND 0, ARR 1, INIT 1 (R170). -/
def object : State := (dev.writeN tag (bankCell 0 0x100) 8 (2 ^ 40)).writeN tag (bankCell 0 0x108) 8 1
theorem reach_bo (cap : Bool) : BoReach object 1 0 cap (bankCell 0 0x100) :=
  ⟨⟨cellsFrom (bankCell 0 0x101) 15, of_isOk (by cases cap <;> decide +kernel), by decide +kernel⟩,
    fun _ => by decide +kernel, here_from (by decide +kernel), by decide +kernel, by decide +kernel, by decide +kernel, rfl⟩
theorem witness_BarrierObjectsComplete : BoReach object 1 0 true (bankCell 0 0x100) ∧ BoReach object 1 0 false (bankCell 0 0x100) ∧
    boArr (object.read64 (bankCell 0 0x100)) ≠ 0 ∧ boPend (object.read64 (bankCell 0 0x100)) + (2 ^ 39 - 1) < 2 ^ 39 ∧
    boPh (object.read64 (bankCell 0 0x100)) = (object.g 3).getLsbD 0 ∧ boPh (object.read64 (bankCell 0 0x100)) ≠ (object.g 1).getLsbD 0 :=
  ⟨reach_bo true, reach_bo false, by decide +kernel⟩
/-- R171: the last arrival flips the object: PH inverts and ARR takes INIT. -/
theorem test_boarrive : gives (.boarrive 1 0) object (fun t => t.read64 (bankCell 0 0x100) ==
    BitVec.ofNat 64 (2 ^ 40 + 2 ^ 56)) = true := by decide +kernel
/-- The operands of an ACOPY of one row of eight bytes: object 0x100, shape 0x200, source 0x300, destination 0x400. -/
def copying : State :=
  let p (a : Nat) : Word := mkPtr 1 a
  ((device (fun th => { th with a := (((th.a.set 5 (p 0x400)).set 6 (p 0x300)).set 7 (p 0x200)).set 8 (p 0x100) }) id).writeN
    tag (bankCell 0 0x200) 8 (8 + 2 ^ 24)).writeN tag (bankCell 0 0x100) 8 (2 ^ 40)
theorem ready_copy : CopyReady copying 5 6 7 8 true 8 1 0 0 (bankCell 0 0x100) [cellsFrom (bankCell 0 0x300) 8]
    [cellsFrom (bankCell 0 0x400) 8] where
  paths := by decide +kernel
  aligned := by decide +kernel
  shape :=
    have ⟨r, h, e⟩ := of_okAnd (p := fun r => dwordsOf 4 r.1 == [BitVec.ofNat 64 (8 + 1 * 2 ^ 24), BitVec.ofInt 64 0,
      BitVec.ofInt 64 0, 0]) (x := copying.readNow (ptrPath (copying.me.getA 7)) (addr (copying.me.getA 7) + ·)
        (cellsFrom (bankCell 0 0x200) 32)) (by decide +kernel)
    ⟨true, cellsFrom (bankCell 0 0x200) 32, r.1, r.2, of_isOk (by decide +kernel), h, eq_of_beq e⟩
  size := by decide +kernel
  stride := by decide +kernel
  object := ⟨true, cellsFrom (bankCell 0 0x101) 15, of_isOk (by decide +kernel), by decide +kernel, fun _ => by decide +kernel⟩
  rows := ⟨of_isOk (by decide +kernel), of_isOk (by decide +kernel)⟩
  caps := by decide +kernel
  apart := fun _ => by decide +kernel
  room := by decide +kernel
def copy : Copy :=
  { tag := tag, bo := bankCell 0 0x100, chunks := [(cellsFrom (bankCell 0 0x300) 8, cellsFrom (bankCell 0 0x400) 8)]
    lost := false, active := true }
def landing : State := copying.modTile 0 fun ti => { ti with engQ := [copy] }
theorem witness_CopiesRun : CopyReady copying 5 6 7 8 true 8 1 0 0 (bankCell 0 0x100) [cellsFrom (bankCell 0 0x300) 8]
      [cellsFrom (bankCell 0 0x400) 8] ∧ (landing.tile 0).engQ = [copy] ∧ copy.chunks ≠ [] ∧
    (∀ x ∈ copy.chunks, landing.poisoned x.1 = false ∧ x.1.length = x.2.length ∧
      (∀ b ∈ x.2, b < copy.bo ∨ copy.bo + 16 ≤ b) ∧ x.2.Nodup ∧
      -(2 ^ 39) ≤ boPend (landing.read64 copy.bo) - (x.1.length : Int)) :=
  ⟨ready_copy, by decide +kernel, by decide +kernel, by decide +kernel⟩
/-- R339: ACOPY.exp adds the length to PEND and queues the copy. -/
theorem test_acopy : gives (.acopy 5 6 7 8 true) copying
    (fun t => boPend (t.read64 (bankCell 0 0x100)) == 8 && t.myTile.engQ.length == 1 && t.me.pc == 0x1004) = true := by
  decide +kernel

/-- A posted store of the thread on its way, on path 0. -/
def flying : State := dev.post (.storeAtHome { tid := ⟨0, 0⟩, tag := tag, path := 0, ptr := mkPtr 0 0x5000, insn := 0, cells := st5000, nib := none, opnd := 7, remote := none, slots := [], waited := none })
theorem witness_FenceCompletes : flying.fenceWaits flying.cur .dev 1 = true ∧
    dev.fenceWaits dev.cur .dev 1 = false ∧ (dev.ctx dev.myTag).logCount = 0 ∧
    (∃ q ∈ flying.flight, q.1 < flying.nextId ∧ ∃ a ∈ accessesOf q.2, a.1.contains flying.cur = true) ∧
    ((dev.modCtx tag fun c => { c with logCount := 8 }).ctx dev.myTag).logCount ≠ 0 ∧
    dev.trapReady dev.cur (target dev) = true := by decide +kernel
theorem test_fence_waits : gives (.fence .dev 1) flying (fun t => t.me.st == .held && t.me.pc == 0x1000) = true := by decide +kernel
theorem test_fence_log : gives (.fence .dev 1) (dev.modCtx tag fun c => { c with logCount := 3 })
    (fun t => t.me.sup.code == 0x23 && t.me.sup.tval == 3 && (t.ctx tag).halt == some ⟨0, 0⟩) = true := by decide +kernel

/-- g4 points to own-bank offset 0x100. -/
def watch (ms : List Monitor) : State := devT fun th => { th with g := th.g.set 4 (mkPtr 1 0x100), mons := ms }
def mon (l : Nat) (hit : Bool) : Monitor := { line := bankCell 0 (256 * l) / 256, hit := hit, gone := false }
theorem witness_MonitorsComplete :
    ((watch []).access [0, 1, 2, 3] .load ((watch []).g 4) true (addr ((watch []).g 4)) 1 1).get 1 =
      .ok (true, [bankCell 0 0x100]) ∧ isRemoteCell (bankCell 0 0x100) = false ∧
    (watch []).homeOf (bankCell 0 0x100) = some (.bank 0) ∧ (watch []).armedAt (.bank 0) < 256 ∧
    (watch [mon 1 true]).me.mons.any (fun m => m.line == bankCell 0 0x100 / 256) = true ∧
    (watch [mon 2 false, mon 3 false, mon 4 false, mon 5 false]).me.mons.length = 4 ∧
    (watch [mon 1 true]).me.mons.any (·.hit) = true ∧ (watch [mon 1 false]).me.mons.any (·.hit) = false ∧
    (watch []).lateAtPoints (watch []).cur = false ∧ (watch []).g 0 = 0 := ⟨of_isOk (by decide +kernel), by decide +kernel⟩
theorem test_monarm : gives (.monarm 5 4) (watch [mon 2 true]) (fun t => t.g 5 == 2 && t.me.mons == [mon 2 true, mon 1 false]) = true := by
  decide +kernel
theorem test_monwait : gives (.monwait 5 0) (watch [mon 2 false, mon 1 true])
    (fun t => t.g 5 == 2 && t.me.mons == [mon 2 false, mon 1 false]) = true := by decide +kernel

/-- The wires of partition 0 granted to root 5, and every phase of the tile. -/
def wired (l : Priv) (ph : Bool) : State :=
  (device (fun th => { th with priv := l }) (fun ti => { ti with barA := if ph then 31 else 0, barD := if ph then 31 else 0 })).modPart
    0 fun p => { p with barctl := 0x2005 }
theorem witness_BarrierWires : (wired .task true).wiresOk = true ∧ dev.wiresOk = false ∧
    (wired .task true).myTile.barD.getLsbD (barIdx .part) = ((wired .task true).g 1).getLsbD 0 ∧
    (wired .task false).myTile.barD.getLsbD (barIdx .x) ≠ ((wired .task false).g 1).getLsbD 0 ∧
    (wired .task false).me.expired = false ∧ (wired .task false).lateAtPoints ⟨0, 0⟩ = false ∧
    (wired .task false).me.outcome = none ∧ (wired .task false).g 0 = 0 ∧
    (wired .task false).g 3 ≠ 0 ∧ (let w := (wired .task true).part (((wired .task true).partOfTile 0).getD 0)
      w.hold = none ∧ w.mode ≠ 1) ∧ dev.trapReady dev.cur (target dev) = true := by
  decide +kernel
theorem test_barw : gives (.barw .x 1) (wired .task false) (fun t => t.me.st == .parked (.wire .x true) && t.myTile.barA == 1) = true := by
  decide +kernel
theorem test_barwt : gives (.barwt .x 6 1 3) (wired .task true) (fun t => t.g 6 == 0 && t.me.pc == 0x1004) = true := by decide +kernel

def parked (p : Park) (f : Option Word) : State := devT fun th => { th with st := .parked p, failed := f, expiry := some 0 }
theorem witness_CbsyncAndWakes : dev.release = none ∧ dev.blocksOf dev.myTag = [] ∧ dev.g 0 = 0 ∧
    (watch []).access [0, 1, 2, 3] .graph ((watch []).g 4) true (addr ((watch []).g 4)) 1 1 = .cells true [bankCell 0 0x100] ∧
    (watch []).heldLines.contains (bankCell 0 0x100 / 256) = false ∧
    (dev.modPart 0 fun p => { p with streams := [{ desc := bankCell 0 0x100, va := 0, joins := 0, pub := some tag, tsize := 256, nsub := 1, ntile := 0, subs := [], next := 0, broken := false, root := tag, joined := [] }] }).blocksOf dev.myTag ≠ [] ∧
    ((parked .monitor none).thread ⟨0, 0⟩).st = .parked .monitor ∧ (parked .monitor none).me.failed = none ∧
    (parked .pageFault (some 0x5000)).me.failed = some 0x5000 ∧
    (parked .pageFault (some 0x5000)).trapReady ⟨0, 0⟩ (trapTarget false (parked .pageFault (some 0x5000)).me.priv) = true ∧
    (parked .monitor none).me.expiry = some 0 ∧ (dev.thread ⟨0, 0⟩).st = .ready := by decide +kernel
theorem test_wake_failed : gives (.wakeArrival ⟨0, 0⟩) (parked .pageFault (some 0x5000))
    (fun t => t.me.sup.code == 0x19 && t.me.sup.tval == 0x5000 && t.me.pc == 0x8000) = true := by decide +kernel
/-- PTROOT with W0 = 21 and a root table at 16 MiB, whose entry 0 is `e`: a leaf there is a page of 1 GiB (R132 to R135). -/
def rooted (st : SlotSt) (e : Nat) : State :=
  (({ devT fun th => { th with st := st } with
    owners := [(ownerKey tag, { ptroot := 0x1000035, flogb := 0, trapbase := 0x8001 })] } : State)).writeN 0 0x1000000 8 e
def walkReq : WalkReq := { tid := ⟨0, 0⟩, va := 0x5008, path := 0, kind := .load }
theorem witness_WalksEnd_leaf : Finds (rooted .awaiting 0xC1F) walkReq
      (fillEntry (rooted .awaiting 0xC1F) tag 0x5008 0xC1F 30 0 0x1000000) ∧
    Finds (rooted .awaiting 0xC1B) walkReq (fillEntry (rooted .awaiting 0xC1B) tag 0x5008 0xC1B 30 0 0x1000000) ∧
    (rooted .awaiting 0xC1F).checkLeaf 0 .task .load 0x5008 (fillEntry (rooted .awaiting 0xC1F) tag 0x5008 0xC1F 30 0 0x1000000)
      = .ok (.cell 0x5008) ∧
    (rooted .awaiting 0xC1B).checkLeaf 0 .task .load 0x5008 (fillEntry (rooted .awaiting 0xC1B) tag 0x5008 0xC1B 30 0 0x1000000)
      = .error (.trap cAccess 0x5008) :=
  ⟨.inr ⟨by decide +kernel, 0xC1F, 30, 0, 0x1000000, by decide +kernel⟩,
    .inr ⟨by decide +kernel, 0xC1B, 30, 0, 0x1000000, by decide +kernel⟩, of_isOk (by decide +kernel),
    of_isErr (by decide +kernel)⟩
theorem witness_WalksEnd : (rooted .awaiting 0).lateAtPoints ⟨0, 0⟩ = false ∧
    (∀ e ∈ SMap.get [] (rooted .awaiting 0).l2 (clusterOf 0), e.covers tag 0x5008 = false) ∧ ((rooted .awaiting 0xC1F).thread ⟨0, 0⟩).st = .awaiting ∧
    walk (rooted .awaiting 0xC1F) ((rooted .awaiting 0xC1F).owner tag).ptroot 0x5000 = .leaf 0xC1F 30 0 0x1000000 ∧
    walk (rooted .awaiting 0) ((rooted .awaiting 0).owner tag).ptroot 0x5000 = .invalid 0 0x1000000 ∧
    walk (rooted .awaiting 0xC7F) ((rooted .awaiting 0xC7F).owner tag).ptroot 0x5000 = .malformed ∧
    (rooted .awaiting 0xC7F).trapReady ⟨0, 0⟩ (trapTarget false .task) = true ∧ (dev.thread ⟨0, 0⟩).st ≠ .awaiting := by
  decide +kernel
theorem test_walk_leaf : gives (.pageWalk walkReq) (rooted .awaiting 0xC1F)
    (fun t => t.me.st == .ready && isOk (t.translate ⟨0, 0⟩ .load 0x5008) (.cell 0x5008)) = true := by decide +kernel
theorem test_walk_malformed : gives (.pageWalk walkReq) (rooted .awaiting 0xC7F)
    (fun t => t.me.sup.code == 0x1A && t.me.sup.tval == 0x5008) = true := by decide +kernel

/-- A fault of the thread at 0x5000, and the device with faults before and in the ring at 0x10000. -/
def fault : FaultRec :=
  { agent := 0, d0 := 0x5000, d1 := 2, d2 := 3, d3 := 4, who := .thread ⟨0, 0⟩ tag, act := none, void := false }
def faulting (q r : List FaultRec) : State :=
  (devT fun th => { th with st := .parked .pageFault }).modPart 0 fun p =>
    { p with fltb := 0x10000, faultQ := q, faults := r, fltHead := r.length }
theorem witness_FaultRingService :
    ((faulting [fault] []).part 0).faultQ = [fault] ∧ ringSlot (faulting [fault] []) 0 = 0x10000 ∧
    ringRoom ((faulting [fault] []).part 0).fltHead ((faulting [fault] []).part 0).fltSent 7 = true ∧
    ringRoom 128 0 7 = false ∧ ringRoom 127 0 7 = true ∧ ((faulting [] []).part 0).faultQ = [] ∧
    ((faulting [] [fault, fault]).part 0).faults = [fault, fault] ∧ (faulting [] [fault]).tagOf ⟨0, 0⟩ = tag ∧
    ((faulting [] [fault]).thread ⟨0, 0⟩).st = .parked .pageFault ∧ ((faulting [] [fault]).part 0).hold = none ∧
    ((faulting [] [fault]).part 0).mode ≠ 1 ∧ ((faulting [] [fault]).part 0).quanta = false ∧ fault.act = none ∧
    fault.void = false ∧ ((faulting [] []).part 0).fltSent = 0 := by decide +kernel
theorem test_ring_copy : gives (.faultRingCopy 0) (faulting [fault] [])
    (fun t => t.read64 0x10000 == 0x5000 && t.read64 0x10018 == 4 && (t.part 0).fltHead == 1) = true := by decide +kernel
theorem test_fltdone_fail : gives (.fltdoneFail 0 0) (faulting [] [fault])
    (fun t => t.me.failed == some 0x5000 && (t.part 0).faults == [] && (t.part 0).fltSent == 1) = true := by decide +kernel

/-- A dirty log of one entry, for page 0x5000 of owner 1 (R141). -/
def dirty : State := ((rooted .ready 0x41F).modTile 0 fun ti => { ti with dirtyTail := 1 }).writeN 0 (dirtyCell 0 0) 8 0x5010
theorem witness_DirtyLogsAndModes : (dirty.tile 0).dirtyTail = (dirty.tile 0).dirtyHead + 1 ∧
    walk dirty (dirty.owner (mkTag (bits (dirty.read64 (dirtyCell 0 0)) 11 4) 0 0)).ptroot
      (bits (dirty.read64 (dirtyCell 0 0)) 50 12 * 4096) = .leaf 0x41F 30 0 0x1000000 ∧
    dev.myTile.dirtyHead = dev.myTile.dirtyTail ∧ dirty.myTile.dirtyHead ≠ dirty.myTile.dirtyTail ∧
    dev.bkGranule 0x1000 = some (2 ^ 51) ∧ dev.bkGranule 0x3000 = none := by decide +kernel
theorem witness_DirtyLogsAndModes_goal : (dirty.tile 0).dirtyHead < (dirty.tile 0).dirtyTail ∧
    ((dev.me.outcome.map (·.toNat)).getD dev.myTile.dirtyTail) ≤ dev.myTile.dirtyHead ∧
    dirty.myTile.dirtyHead < ((dirty.me.outcome.map (·.toNat)).getD dirty.myTile.dirtyTail) := by decide +kernel
/-- R142: the merge sets DT in the leaf. -/
theorem test_merge : gives (.dirtyLogMerge 0) dirty (fun t => t.read64 0x1000000 == 0xC1F) = true := by decide +kernel

/-- At supervisor level, with the page 0x5000 in the TLB; g4 names the page, g5 a page size of 10. -/
def invalidating (l : Priv) : State := paged fun th => { th with priv := l, g := (th.g.set 4 0x5000).set 5 10 }
theorem witness_TlbInvalidation : ((invalidating .supervisor).me.priv ≠ .task) ∧ (invalidating .task).me.priv = .task ∧
    bits ((invalidating .supervisor).g 4) 3 0 < 10 ∧ (10 ≤ bits ((invalidating .supervisor).g 5) 3 0) ∧
    (invalidating .supervisor).trapReady ⟨0, 0⟩ .supervisor = true := by decide +kernel
/-- Nothing is on its way in one; a store of slot 1 of the same tile is in the other. -/
theorem witness_TlbInvalidation_quiet : (∀ q ∈ (invalidating .supervisor).flight, accessesOf q.2 = []) ∧ (invalidating .supervisor).unitAccesses = [] ∧
    (∀ e ∈ (invalidating .supervisor).tiles, e.2.engQ = []) ∧
    (let s := (invalidating .supervisor).post (.storeAtHome { awaited with tid := ⟨0, 1⟩, waited := none })
     ∃ q ∈ s.flight, q.1 < s.nextId ∧ ∃ a ∈ accessesOf q.2, a.2.1 = 0 ∧ ∃ x ∈ a.1, x.tile ∈ s.invTiles .tile false) := by
  decide +kernel
theorem test_tlbinv : gives (.tlbinv 4 .page .tile) (invalidating .supervisor)
    (fun t => (t.tile 0).dtlb == [] && t.me.pc == 0x1004) = true := by decide +kernel
theorem test_tlbinv_task : gives (.tlbinv 4 .page .dev) (invalidating .task)
    (fun t => t.me.sup.code == 0x03 && t.me.sup.tval == 0xFC011403) = true := by decide +kernel

/-- A window table of partition 0 at 256 KiB, whose window 0 is open to device 9 (R246). -/
def windowed : State := (dev.modPart 0 fun p => { p with winb := 0x40000 }).writeN 0 0x40000 8 (1 + 9 * 2 ^ 16)
theorem witness_RemoteDeviceLost : pdescValid (windowed.pdesc 0) = true ∧
    (∀ n ∈ List.range 8, bits (windowed.part n).winb 50 17 * 2 ^ 17 + 2 ^ 17 ≤ hbmSize) ∧
    (∀ m ∈ List.range 8, m ≠ 0 → pdescValid (windowed.pdesc m) = false) ∧
    (∀ n ∈ List.range 8, pdescValid (({ dev with floor := { dev.floor with pdescs := #v[0, 0, 0, 0, 0, 0, 0, 0] } } : State).pdesc n) = false) := by
  decide +kernel
/-- The request of AMO.add.d.thr g5, [a1], g1 at its home. -/
def guest (fn : GuestFn) (n : Nat) : GuestOp :=
  { tid := ⟨0, 0⟩, tag := tag, path := 1, ptr := mkPtr 1 0x100, insn := 0, home := .bank 0, cell := bankCell 0 0x100
    bytes := n, fn := fn, x0 := 7, x1 := 0, e0 := 0, e1 := 0, ret := true, dest := 5, ord := 1 }
theorem reach_atom (u : Nat) (h : u = 4 ∨ u = 8 ∨ u = 16) : AtomReach dev 1 u (bankCell 0 0x100) (.bank 0) :=
  ⟨true, cellsFrom (bankCell 0 0x101) (u - 1), of_isOk (by rcases h with rfl | rfl | rfl <;> decide +kernel),
    by decide +kernel, by decide +kernel, by rcases h with rfl | rfl | rfl <;> decide +kernel, by simp⟩
theorem witness_AtomicsLeave : dev.det = false ∧ AtomReach dev 1 4 (bankCell 0 0x100) (.bank 0) ∧
    AtomReach dev 1 8 (bankCell 0 0x100) (.bank 0) ∧ AtomReach dev 1 16 (bankCell 0 0x100) (.bank 0) ∧ Released dev .dev ∧
    (dev.setGuests (.bank 0) [] [guest .cas 8]).guestsAt (homeOfNumber 0) = ([], [guest .cas 8]) ∧
    (dev.setGuests (.bank 0) [] [guest .cas 8]).freeGuest (homeOfNumber 0) = some 11 ∧ (dev.guestsAt (homeOfNumber 0)).2 = [] :=
  ⟨by decide +kernel, reach_atom 4 (by simp), reach_atom 8 (by simp), reach_atom 16 (by simp), .inr (by decide +kernel),
    by decide +kernel⟩
theorem test_amo : gives (.amo .add false .thr 5 1 1) dev
    (fun t => t.me.st == .awaiting && (t.guestsAt (.bank 0)).1 == [(11, { guest (.amo .add) 8 with insn := 0xC0510100 })]) = true := by
  decide +kernel

/-- The capability record of the granule in atomic mode. -/
def atomicMode : State := { waiting with bankCap := [(2 ^ 51, mkCap tag 1 false 5)] }
theorem witness_AtomicsAct : atomicMode.guestCheck tag (2 ^ 51) = none ∧ cellGranule (bankCell 0 0x100) = 2 ^ 51 ∧
    atomicMode.firstPoison (cellsFrom (bankCell 0 0x100) 8) = none ∧ (atomicMode.thread ⟨0, 0⟩).st ≠ .parked .racing ∧
    ({ waiting with bankCap := [] } : State).guestCheck tag (2 ^ 51) = some 0x20 ∧ waiting.expects ⟨0, 0⟩ = true ∧
    dev.expects ⟨0, 0⟩ = false ∧ waiting.trapReady ⟨0, 0⟩ .supervisor = true ∧ (atomicMode.ctx tag).dying = false ∧
    waiting.lateAtPoints ⟨0, 0⟩ = false := by decide +kernel
/-- R343's example: a 32-bit add wraps, and the old value is sign-extended. -/
theorem test_amo_home : gives (.atomicAtHome { guest (.amo .add) 4 with x0 := 1 })
    (atomicMode.writeN tag (bankCell 0 0x100) 4 0xFFFFFFFF) (fun t => t.readN (bankCell 0 0x100) 4 == 0 &&
      t.agenda.any fun q => q.ev == .atomicAnswer ⟨0, 0⟩ 5 true (.value 0xFFFFFFFFFFFFFFFF)) = true := by decide +kernel
theorem test_answer : gives (.atomicAnswer ⟨0, 0⟩ 8 true (.pair 3 4)) waiting
    (fun t => t.g 8 == 3 && t.g 9 == 4 && t.me.pc == 0x1004) = true := by decide +kernel

/-- A window of two tickets from 3 on over granule 2^51, and an update of ticket `k` (R176, R179). -/
def window : TicketWindow :=
  { id := 0, owner := tag, root := 5, ptr := mkPtr 1 0, b := 3, n := 2, w8 := false, dest := 5, opener := none, st := .open_, granules := [2 ^ 51]
    homes := [.bank 0], pending := [], dflt := 0, cursors := [], void := [], caddy := [] }
def ticketed (w : TicketWindow) : State :=
  { devT (fun th => { th with st := .awaiting }) with bankCap := [(2 ^ 51, mkCap tag 2 false 5)], windows := [w] }
def upd (k : Word) (ret : Bool) : TkUpd :=
  { tid := ⟨0, 0⟩, tag := tag, path := 1, ptr := mkPtr 1 0x100, insn := 0, home := .bank 0, cell := bankCell 0 0x100
    op := .add, fmt := .bf16x2, v := 0xC0003B80, t := k, ret := ret, dest := 5, ord := 1 }
theorem reach_ticket (k : Word) (ret : Bool) : TicketReach (ticketed window) (upd k ret) window :=
  ⟨by intro x; simp [upd], by simp only [upd]; decide +kernel⟩
theorem witness_TicketedUpdates : AtomReach dev 1 (tfWidth .fp64) (bankCell 0 0x100) (.bank 0) ∧
    TicketReach (ticketed window) (upd 3 true) window ∧ ((3 : Int) - window.b = window.cursor (bankCell 0 0x100)) ∧
    ((window.cursor (bankCell 0 0x100) : Int) < 4 - window.b ∧ (4 : Int) - window.b < window.n) ∧
    ((window.n : Int) ≤ 5 - window.b) ∧ ((2 : Int) - window.b < window.cursor (bankCell 0 0x100)) ∧
    (ticketed window).caddyUse (.bank 0) < 256 ∧ (ticketed window).firstPoison (cellsFrom (bankCell 0 0x100) 4) = none ∧
    window.void.contains 1 = false ∧ capMode (dev.cap (cellGranule (bankCell 0 0x100))) ≠ 2 :=
  ⟨reach_atom _ (by decide), reach_ticket 3 true, by decide +kernel⟩
/-- The window whose queue is full: 256 updates of the next ticket of another cell. -/
def fullQueue : TicketWindow :=
  { window with caddy := List.replicate 256 { upd := { upd 4 true with cell := bankCell 0 0x200 }, ticket := 1 } }
theorem witness_TicketedUpdates_full : TicketReach (ticketed fullQueue) (upd 4 true) fullQueue ∧
    (∀ e ∈ fullQueue.caddy, e.upd.cell ≠ (upd 4 true).cell) ∧ 256 ≤ (ticketed fullQueue).caddyUse (upd 4 true).home ∧
    (ticketed fullQueue).expects (upd 4 true).tid = true ∧ (ticketed fullQueue).lateAtPoints (upd 4 true).tid = false :=
  ⟨⟨by intro x; simp [upd], by simp only [upd]; decide +kernel⟩, by decide +kernel⟩
/-- R417's example: 2.0 + −2.0 and 1.0 + 2^−8 in BF16, the second to even. -/
theorem test_ticket : gives (.ticketUpdateArrival (upd 3 true)) ((ticketed window).writeN tag (bankCell 0 0x100) 4 0x40003F80)
    (fun t => t.readN (bankCell 0 0x100) 4 == 0x00003F80 && (t.windowAt (bankCell 0 0x100)).map (·.cursor (bankCell 0 0x100)) == some 1) = true := by
  decide +kernel

/-- TKOPEN of one granule, two tickets from 3 on. -/
def opening : State := devT fun th => { th with a := th.a.set 1 (mkPtr 1 0), g := th.g.set 4 (3 + 2 * 2 ^ 32) }
theorem ready_open : OpenReady opening 1 4 [2 ^ 51] [.bank 0] where
  fresh := by decide +kernel
  path := by decide +kernel
  near := fun h => absurd h (by decide +kernel)
  value := by decide +kernel
  range := of_isOk (by decide +kernel)
  mine := by decide +kernel
  homes := by decide +kernel
def closing (w : TicketWindow) : State := { ticketed w with tiles := opening.tiles }
theorem reach_tk (w : TicketWindow) (h : w = window ∨ w = { window with st := .broken } ∨ w = { window with dflt := 2 }) :
    TkReach (closing w) 1 w :=
  ⟨true, bankCell 0 0, [], of_isOk (by rcases h with rfl | rfl | rfl <;> decide +kernel),
    by rcases h with rfl | rfl | rfl <;> decide +kernel, by rcases h with rfl | rfl | rfl <;> decide +kernel,
    by rcases h with rfl | rfl | rfl <;> decide +kernel, by rcases h with rfl | rfl | rfl <;> decide +kernel,
    by rcases h with rfl | rfl | rfl <;> decide +kernel⟩
/-- The window that a TKOPEN of this thread has sent its requests for, not yet open and open. -/
def asked (st : WinSt) : TicketWindow := { window with opener := some (0, 0x1000), st := st }
theorem witness_TicketWindowsOpen : OpenReady opening 1 4 [2 ^ 51] [.bank 0] ∧ opening.release = none ∧
    (opening.windows.filter fun x => x.homes.contains (.bank 0)).length < 64 ∧
    opening.cursorUse (.bank 0) + 1024 ≤ cursorRoom (.bank 0) :=
  ⟨ready_open, by decide +kernel⟩
theorem witness_TicketWindowsOpen_full :
    let full : State := { opening with windows := List.replicate 64 window }
    let tight : State := { opening with windows := List.replicate 16 { window with granules := List.replicate 64 (2 ^ 51) } }
    64 ≤ (full.windows.filter fun x => x.homes.contains (.bank 0)).length ∧ full.opened = none ∧
    (tight.windows.filter fun x => x.homes.contains (.bank 0)).length < 64 ∧ tight.opened = none ∧
    cursorRoom (.bank 0) < tight.cursorUse (.bank 0) + 1024 := by decide +kernel
theorem witness_TicketWindowsOpen_next : (closing (asked .opening)).opened = some (asked .opening) ∧
    (closing (asked .open_)).opened = some (asked .open_) ∧
    (closing (asked .opening)).windows.find? (fun x => x.id = 0) = some (asked .opening) ∧
    (∀ g ∈ window.granules, ¬ g * 4096 < 2 ^ 63) ∧ dev.windows.find? (fun x => x.id = 0) = none := by decide +kernel
theorem witness_TicketWindowsUsed : OpenReady opening 1 4 [2 ^ 51] [.bank 0] ∧ TkReach (closing window) 1 window ∧
    TkReach (closing { window with st := .broken }) 1 { window with st := .broken } ∧
    TkReach (closing { window with dflt := 2 }) 1 { window with dflt := 2 } ∧
    window.drained = false ∧ ({ window with dflt := 2 } : TicketWindow).drained = true ∧ RecordsHere dev window.granules ∧
    (closing window).lateAtPoints (closing window).cur = false ∧ window.caddy = [] ∧ window.cursors = [] ∧
    (ticketed window).windowAt (bankCell 0 0x100) = some window ∧ dev.windowAt (bankCell 0 0x100) = none ∧
    (closing window).homeOf (bankCell 0 0) = some (.bank 0) ∧ window.void = [] :=
  ⟨ready_open, reach_tk _ (by simp), reach_tk _ (by simp), reach_tk _ (by simp), by decide +kernel, by decide +kernel,
    fun g hg h => absurd h (by simp only [window, List.mem_singleton] at hg; subst hg; decide), by decide +kernel⟩
theorem witness_TicketWindowsUsed_queue : QueueSound (closing window) window ∧
    QueueSound (closing { window with dflt := 2 }) { window with dflt := 2 } :=
  ⟨fun e h => absurd h (by simp [window]), fun e h => absurd h (by simp [window])⟩
theorem test_tkopen : gives (.tkopen false 5 1 4) opening
    (fun t => t.me.st == .held && t.windows.map (fun w => (w.b, w.n, w.st == .opening)) == [(3, 2, true)]) = true := by
  decide +kernel
theorem test_tkclose_parks : gives (.tkclose false 5 1) (closing window)
    (fun t => t.me.st == .parked (.drain 0) && t.windows.map (·.st) == [.closing]) = true := by decide +kernel
theorem test_tkskip : gives (.tkskip 5 1 4) (({ closing window with cur := ⟨0, 0⟩ } : State).setG 4 4)
    (fun t => t.g 5 == 0 && t.windows.map (·.void) == [[1]]) = true := by decide +kernel

/-- Context 5 under root 4; g4 = 4, and one granule from a1. -/
def giving : State := (({ opening with
  ctxs := [(tag.toNat, { Ctx.zero with live := true, root := 4, launch := 1 })] } : State).setG 4 4).setG 5 1
theorem witness_CapabilitiesMove : CapReach giving 1 (giving.g 5) .store [2 ^ 51] ∧ CapReach giving 1 1 .load [2 ^ 51] ∧
    (giving.dieCopy = false ∧ bits (giving.g 4) 63 13 = 0 ∧ bits (giving.g 4) 12 0 = (giving.ctx giving.myTag).root ∧
      (giving.liveTask (mkTag 1 0 4) = true ∨ bits (giving.g 4) 12 0 = (giving.ctx giving.myTag).root) ∧
      giving.giveFails [2 ^ 51] = none ∧ giving.release = none ∧ giving.engineWrites giving.myTag [2 ^ 51] = false ∧
      mkTag 1 0 4 ≠ giving.myTag) ∧
    (∀ g ∈ [2 ^ 51], capHolder (giving.cap g) = giving.myTag ∧ capPend (giving.cap g) = false ∧ capMode (giving.cap g) ≤ 1) ∧
    (∃ g ∈ [2 ^ 51], capHolder (({ giving with bankCap := [] } : State).cap g) ≠ giving.myTag) ∧
    (∀ r : GuestOp, .atomicAtHome r ∈ giving.inFlight → r.cell / 4096 ∉ [2 ^ 51]) := by
  have h : ∀ g ∈ [2 ^ 51], g * 4096 < 2 ^ 63 → Here (cellsFrom (giving.capAddr g) 8) :=
    fun g hg hl => absurd hl (by simp only [List.mem_singleton] at hg; subst hg; decide)
  refine ⟨⟨by decide +kernel, by decide +kernel, by decide +kernel, of_isOk (by decide +kernel), h, rfl⟩,
    ⟨by decide +kernel, by decide +kernel, by decide +kernel, of_isOk (by decide +kernel), h, rfl⟩, by decide +kernel,
    by decide +kernel, by decide +kernel, ?_⟩
  intro r hr; rw [show giving.inFlight = [.sensorSample] from by decide +kernel] at hr; simp at hr
theorem test_capgive : gives (.capgive 4 1 5) giving (fun t => capHolder (t.cap (2 ^ 51)) == mkTag 1 0 4) = true := by
  decide +kernel
theorem test_capmode : gives (.capmode true 1 5) giving (fun t => t.cap (2 ^ 51) == mkCap tag 1 false 5) = true := by
  decide +kernel
/-- A message for the tile with the payload 1, 2, 3, 4, and the device with messages in its store; g4 = 9. -/
def message (k : MsgKind) (n : Nat) : Message :=
  { dst := 0, dst0 := 0, ord := 0, root := 5, src := 1, srcId := 0x11, dstId := 0, tag := n, kind := k, dctx := 0
    ctag := tag, seq := 0, payload := BitVec.ofNat 2048 (1 + 2 * 2 ^ 64 + 3 * 2 ^ 128 + 4 * 2 ^ 192), insn := 0 }
def inbox (l : List Message) : State := device (fun th => { th with g := (th.g.set 4 9).set 5 0x10009 }) (fun ti => { ti with store := l })
def packet (cur dst : Nat) : Packet :=
  { id := 0, piste := 2, src := 0, dst := dst, cur := cur, dim := 3, v1 := false, escape := false, tag := tag
    ev := .messageArrival (message .send 9) }
def routing (cur dst : Nat) : State := { dev with packets := [packet cur dst] }
theorem witness_MessagesLeave : dev.namedTile (dev.g 3) = some 8 ∧ dev.dieCopy = false ∧ dev.det = false ∧
    (let s := (devT fun th => { th with g := th.g.set 3 0 }).modPart 0 fun p => { p with mode := 1 }
     s.det = true ∧ s.namedTile (s.g 3) = some s.cur.tile ∧ s.myTile.redirs = []) ∧
    dev.namedTile (dev.g 2) = none ∧ dev.myTile.task = some task ∧ dev.trapReady dev.cur (target dev) = true ∧
    (routing 0 1).packets.find? (fun p => p.id = 0) = some (packet 0 1) ∧ (routing 0 1).partOfTile 0 = some (tagPart tag) ∧
    (routing 0 1).sweeping tag 0 = false ∧
    (routing 0 1).ordered 0 ((routing 0 1).pisteOrder 0 2) 0 1 = some (0, 1) ∧ (routing 0 1).boxed 1 = false ∧
    (routing 0 1).retraining 0 0 0 1 = false ∧ (dev.ctx tag).live = true ∧ (dev.ctx tag).logCount < 8 ∧
    (∀ c ∈ cellsFrom (tagCtx tag * 256) 32, (c < hbmSize ∨ 2 ^ 63 ≤ c) ∧ c < 2 ^ 66) := by decide +kernel
theorem test_send : gives (.send 3 1) dev (fun t => t.packets.map (fun p => (p.dst, p.piste)) == [(8, 2)] &&
    t.packets.all fun p => match p.ev with | .messageArrival m => m.tag == 7 | _ => false) = true := by decide +kernel
theorem test_hop : gives (.torusPacketHop 0) (routing 0 1) (fun t => t.packets.map (·.cur) == [1]) = true := by decide +kernel

def forward (acked : Bool) : Forward :=
  { tag := tag, root := 5, target := 3, acked := acked, queue := [], expiry := 65536, limit := 2 ^ 20 }
def left (acked : Bool) : State := device id fun ti => { ti with task := none, fwd := [forward acked] }
theorem witness_MessagesArrive : dev.bound (message .send 9) = .here ∧ (dev.tile 0).storeUsed + 5 ≤ 64 ∧
    ((left true).part (tagPart (forward true).tag)).mode ≠ 1 ∧ (inbox []).g 4 ≠ 0 ∧
    (left true).bound (message .send 9) = .moved (forward true) ∧ (left false).bound (message .send 9) = .moved (forward false) ∧
    (device id fun ti => { ti with task := none }).bound (message .send 9) = .nowhere ∧ (dev.tile 0).workQ.length < 16 ∧
    (∀ x ∈ (inbox [message .send 8]).myTile.store, (x.kind = .sendv) = false ∧ x.tag ≠ 9) ∧
    (inbox []).me.expired = false ∧ (inbox []).g 0 = 0 ∧ (inbox []).lateAtPoints (inbox []).cur = false := by decide +kernel
theorem witness_MessagesArrive_fit :
    FirstFit (inbox [message .sendv 9, message .send 8, message .send 9]) false 9 [message .sendv 9, message .send 8] (message .send 9) [] ∧
    FirstFit (inbox [message .send 8, message .sendv 1]) true 0x10009 [message .send 8] (message .sendv 1) [] := by
  unfold FirstFit; decide +kernel
theorem test_recv : gives (.recv 6 4) (inbox [message .send 8, message .send 9])
    (fun t => t.g 8 == 1 && t.g 11 == 4 && t.g 6 == 0x900000011 && t.myTile.store == [message .send 8]) = true := by
  decide +kernel
theorem test_recvt_zero : gives (.recvt 6 4 0) (inbox []) (fun t => t.g 6 == 0xFFFFFFFFFFFFFFFF) = true := by decide +kernel
theorem test_probe : gives (.probe 6 5) (inbox [message .send 8, message .sendv 9]) (fun t => t.g 6 == 2) = true := by
  decide +kernel

/-- The device with a thread in slot 1. -/
def helped (st : SlotSt) (cur : Nat) : State :=
  { (device id fun ti => { ti with slots := SMap.put ti.slots 1 { thread0 with st := st } }) with cur := ⟨0, cur⟩ }
theorem witness_HelpersComplete : dev.cur.slot = 0 ∧ dev.myTile.task = some task ∧ 1 ≤ task.helpers ∧
    (dev.myTile.thread 1).st = .free ∧ (helped .ready 1).cur.slot = 1 ∧ (helped .ready 1).trapReady ⟨0, 1⟩ .supervisor = true ∧
    ((helped (.exited 4) 0).thread ⟨0, 1⟩).st = .exited 4 ∧ ((helped .ready 0).thread ⟨0, 1⟩).st = .ready ∧
    (helped .ready 0).myTile.anyLive = true ∧ dev.myTile.anyLive = false ∧ task.helpers < 11 ∧
    (helped .ready 0).lateAtPoints (helped .ready 0).cur = false := by decide +kernel
theorem test_start : gives (.start 6 3 1) dev (fun t => t.g 6 == 1 && (t.thread ⟨0, 1⟩).pc == 8 && (t.thread ⟨0, 1⟩).getG 8 == 7) = true := by
  decide +kernel
theorem test_hexit : gives (.hexit 1) (helped .ready 1) (fun t => (t.thread ⟨0, 1⟩).st == .exited 7) = true := by decide +kernel

/-- The device with spill slots at its disposal, and with work queued. -/
def work (d : Bool) : WorkEntry :=
  { task := { task with node := 0x2000, args := [1, 2], fps := [], phase := .fetching }, deliv := d, spawned := false, fetched := false }
def yielding : State := (device id fun ti => { ti with workQ := [work false] }).modPart 0 fun p => { p with spillb := 2 ^ 56 + 2 ^ 24 }
/-- With eight forwarding entries, or a place kept for another node, at tile 0. -/
def fullFwd (s : State) : State := s.modTile 0 fun ti => { ti with fwd := List.replicate 8 (forward true) }
theorem witness_TasksEndAndYield : Settled dev ∧ dev.outCells task = .ok [] ∧ (dev.drainLines 0 fun _ => true).taskBusy = false ∧
    (dev.ctx dev.myTag).logCount = 0 ∧ (dev.drainLines 0 fun _ => true).pairOf 0 tag = none ∧
    (dev.taskEnds task []).stray = none ∧ dev.replaying dev.myPart = false ∧ yielding.myTile.fwd.length < 8 ∧
    8 ≤ (fullFwd yielding).myTile.fwd.length ∧ (fullFwd yielding).freeSpill 0 = some 0 ∧ (dev.tile 8).workQ = [] ∧
    (dev.tile 8).reserved = none ∧ (dev.setNodeState 0 0x2000 3).stray = none ∧ task.recalled = false ∧
    (let s := dev.modFloor fun f => { f with roleBusy := true, roleStep := 1, roleAffect := 1 }; s.drains 0 = true) ∧
    hasWires dev task = false ∧
    dev.workFor 0 0 = false ∧ dev.drains 0 = false ∧ yielding.workFor 0 0 = true ∧ yielding.freeSpill 0 = some 0 ∧
    yielding.mayCross 0 task = true ∧ yielding.myPart = tagPart task.tag ∧ dev.namedTile (dev.g 3) = some 8 ∧
    (dev.tile 8).task = none ∧ dev.drains 8 = false ∧
    (dev.modFloor fun f => { f with roleBusy := true, roleStep := 1, roleAffect := 1 }).drains 8 = true ∧
    (dev.modPart 0 fun p => { p with mode := 1 }).det = true ∧ dev.me.priv = .task ∧ dev.roomAt 8 task.pins = true ∧ task.node ≠ 0 ∧ task.pk = 0 ∧ task.deliv = 0 ∧
    bestEntry (·.deliv) [work true] = some (work true) ∧ bestEntry (·.deliv) dev.myTile.workQ = none ∧
    dev.lateAtPoints dev.cur = false ∧ bits (dev.g 1) 6 0 ≠ 0 ∧ dev.nodeAt 0 0x5000 = none ∧
    (paged id).access [0] .load (mkPtr 0 0x5000) true 0x5000 128 1 = .cells false (cellsFrom 0x5000 128) ∧
    ndMalformed 8 ((paged id).peekDwords (cellsFrom 0x5000 128)) = false :=
  ⟨by unfold Settled; decide +kernel, of_isOk (by decide +kernel), by decide +kernel⟩
theorem test_texit : gives .texit dev (fun t => (t.tile 0).task == none && (t.tile 0).slots == [] && !(t.ctx tag).live) = true := by
  decide +kernel
theorem test_migrate : gives (.migrate 6 3) dev (fun t => t.g 6 == 0 && (t.tile 0).task.map (·.phase) == some .freezing &&
    (t.tile 8).task.map (·.phase) == some .streaming) = true := by decide +kernel

/-- A task of tile 0 on its way to tile 8. -/
def crossing (p : TaskPhase) (q : List Pending) : State :=
  { (device id fun ti => { ti with task := some { task with phase := p, dest := some 8 }, fwd := [forward false] }).modTile 8
      fun _ => { Tile.zero with task := some { task with phase := .streaming } } with agenda := q }
/-- One that lies in spill slot 0. -/
def spilledTask : Spilled := { slot := 0, at_ := spillTile 0 0, tag := tag, col := 0, prio := 1, seq := 0 }
def spilled : State :=
  ((device id fun ti => { ti with task := none, slots := [] }).modTile (spillTile 0 0) fun _ =>
    { Tile.zero with task := some task }).modPart 0 fun p => { p with spilled := [spilledTask] }
theorem witness_CrossoverMoves :
    ((crossing .freezing []).tile 0).task = some { task with phase := .freezing, dest := some 8 } ∧
    ((crossing .freezing []).ctx tag).dying = false ∧
    (crossing .freezing []).drained 0 { task with phase := .freezing, dest := some 8 } = true ∧
    (crossing .freezing [{ id := 0, due := 0, ev := .lateFaultDelivery ⟨0, 0⟩ }]).drained 0
      { task with phase := .freezing, dest := some 8 } = false ∧
    ((crossing .freezing []).tile 8).task = some { task with phase := .streaming } ∧
    (((left false).tile 0).fwd.find? fun f => f.target = 3 && !f.acked) = some (forward false) ∧
    (forward false).queue = [] ∧
    (((left true).tile 0).fwd.find? fun f => f.tag = tag && f.acked) = some (forward true) ∧ (left true).now < (forward true).expiry ∧
    ({ (left true) with now := 65536 } : State).now = (forward true).expiry ∧
    ((spilled.part 0).spilled.find? fun x => x.tag = tag) = some spilledTask ∧ (spilled.tile spilledTask.at_).task = some task ∧
    task.dest = none ∧ spilled.agenda.map (·.ev) = [.sensorSample] ∧ spilled.resumeAt 0 spilledTask = some 0 ∧
    spilledTask.at_ ≠ 0 := by decide +kernel
theorem test_stream : gives (.crossoverStream 0) (crossing .freezing [])
    (fun t => (t.tile 0).task == none && (t.thread ⟨8, 0⟩).getG 1 == 7) = true := by decide +kernel
theorem test_resume : gives (.crossoverResume 0 8) (crossing .freezing [])
    (fun t => (t.tile 8).task.map (·.phase) == some .running && t.agenda.any fun q => q.ev == .crossoverAck 0 8) = true := by
  decide +kernel

/-- Node 0x2000 of launch 1, queued for tile 0 at priority 3, and the device with the node and the launch. -/
def node (st : Nat) (ds : List Word) : Node :=
  { addr := 0x2000, launch := 1, state := st, dwords := ds ++ List.replicate (16 - ds.length) 0, succ := none, avoid := none, seq := 0, ranBy := none, preds := [] }
def desc : LaunchDesc := { d0 := 0x10007, d1 := 0x6000, d2 := 0x7000, d3 := 6, d4 := 0, d5 := 0, d6 := 0, d7 := 0 }
def launch : Launch :=
  { id := 1, number := 7, owner := 1, ctx := 5, priv := .task, queue := 0, ok := 0, bad := 0, desc := desc, todo := some []
    ending := none, killed := false }
theorem witness_TasksEndAndYield_node : (let s := (paged id).modPart 0 fun p => { p with launches := [launch] }
    (s.myTile.task.bind fun k => s.launchOf 0 k.launch) = some launch ∧ s.nodeAt 0 0x5000 = none ∧
    (s.insertNode 0 launch 0x5000 (s.peekDwords (cellsFrom 0x5000 128))).stray = none ∧
    nodeLimit ≤ ((s.modPart 0 fun p => { p with nodes := List.replicate nodeLimit (node 2 []) }).part 0).nodes.length) := by decide +kernel
def withNodes (l : List Node) (s : State) : State := s.modPart 0 fun p => { p with nodes := l, launches := [launch] }
def queued (h : Tile → Tile) : State :=
  (withNodes [node 2 [0, 0xC000]] (device id h)).modPart 0 fun p => { p with colQ := [(3, [0x2000])], zmap := [0] }
def empty (w : List WorkEntry) : State := device id fun ti => { ti with task := none, slots := [], workQ := w }
def fetching : State := device id fun ti => { ti with task := some { task with phase := .fetching }, slots := [] }
/-- A range of 256 bytes at 0x3000 for path 1, to fetch. -/
def range1 : Word := 0x30 + 2 ^ 57 + 2 ^ 60
def prefetching : State :=
  device id fun ti => { ti with workQ := [{ work false with task := { (work false).task with fps := [range1] } }] }
def grace : State := (queued id).modPart 0 fun p => { p with graceAt := [{ lead := 0, at_ := 0, node := 0x2000 }] }
def robbed : State := device id fun ti => { ti with workQ := [{ work false with task := { (work false).task with pk := 1 } }] }
theorem witness_DispatchersAct_place : (dev.part 0).mode = 0 ∧ dev.placeOne 0 = none ∧
    ((queued fun ti => { ti with task := none }).placeOne 0).isSome = true ∧
    (queued id).launchOf 0 (node 2 [0, 0xC000]).launch = some launch ∧ ndRdm (node 2 [0, 0xC000]).dwords ≠ 2 ∧
    (({ (Partition.zero) with mode := 1 } : Partition).mode = 1) := by decide +kernel
theorem witness_DispatchersAct_start : fetching.rangeCells { task with phase := .fetching } = .ok [] ∧ ((empty [work false]).tile 0).task = none ∧ (empty [work false]).drains 0 = false ∧
    (empty [work false]).computeTile (((empty [work false]).partOfTile 0).getD 0) 0 = true ∧
    ((empty [work false]).tile 0).nextEntry = some (work false) ∧ (work false).fetched = false ∧
    ((empty [{ work false with fetched := true }]).tile 0).nextEntry = some { work false with fetched := true } ∧
    (empty [work false]).fitsEmpty 0 (work false).task.fps = true ∧
    ((empty [work false]).prepare 0 0 (work false).task).isSome = true ∧ (dev.tile 0).task ≠ none ∧
    (fetching.tile 0).task = some { task with phase := .fetching } ∧ (fetching.tile 0).slots = [] ∧
    (fetching.ctx tag).dying = false ∧
    fetching.outBusy { task with phase := .fetching } [] = none ∧ task.unserved = false ∧ fetching.fetchWaits 0 0 tag = false ∧
    (((fetching.takeOuts task []).fillRanges task []).beginTask 0 0 task).stray = none :=
  ⟨of_isOk (by decide +kernel), by decide +kernel⟩
/-- The same tile keeps its next start for node 0x2000. -/
theorem witness_DispatchersAct_reserved :
    let s := (empty [work false]).modTile 0 fun ti => { ti with reserved := some 0x2000 }
    (s.tile 0).reserved = some 0x2000 ∧ ((s.tile 0).workQ.find? fun w => w.task.node == 0x2000 && !w.deliv) = some (work false) ∧
    (s.prepare 0 0 (work false).task).isSome = true := by decide +kernel
theorem witness_DispatchersAct_steal : (prefetching.tile 0).task = some task ∧
    ((prefetching.tile 0).nextEntry.map fun w => (w.fetched, w.spawned, w.task.fps)) = some (false, false, [range1]) ∧
    (((prefetching.tile 0).nextEntry.bind fun w => prefetching.prepare 0 0 w.task).isSome) = true ∧
    robbed.idle ((robbed.partOfTile 512).getD 0) 512 = true ∧ robbed.idle ((robbed.partOfTile 0).getD 0) 0 = false ∧
    (bestEntry (stealable 512 0) (robbed.tile 0).workQ).isSome = true ∧ bestEntry (stealable 512 0) (dev.tile 0).workQ = none ∧
    robbed.victimOf 0 512 = some 0 := by decide +kernel
def timer (a : Nat) : GraceTimer := { lead := 0, at_ := 0, node := a }
theorem witness_DispatchersAct_grace : grace.replaying 0 = false ∧ dev.replaying 0 = false ∧
    ((grace.part 0).graceAt.find? fun g => g.lead = 0 && g.at_ ≤ grace.now) = some (timer 0x2000) ∧
    ((dev.part 0).graceAt.find? fun g => g.lead = 0 && g.at_ ≤ dev.now) = none ∧
    grace.graceVictim 0 (timer 0x2000) = some 0 ∧ (grace.tile 0).task = some task ∧
    (grace.modPart 0 fun p => { p with graceAt := [timer 0x4000] }).graceVictim 0 (timer 0x4000) = none ∧
    grace.waitsWork 0 = false ∧ grace.fwdFull 0 = false ∧ (fullFwd grace).fwdFull 0 = true ∧
    (fullFwd grace).graceVictim 0 (timer 0x2000) = some 0 ∧ (grace.part 0).mode ≠ 1 ∧
    (let s := grace.modTile 0 fun ti => { ti with slots := [(0, { thread0 with st := .parked .work })] }
     s.graceVictim 0 (timer 0x2000) = some 0 ∧ s.waitsWork 0 = true) ∧
    leastBy (fun u => grace.colLoad 0 (u % 256)) ((grace.liveTiles 0).filter fun u => grace.idle 0 u && grace.roomAt u task.pins) =
      some 1 := by decide +kernel
theorem test_place : gives (.nodePlacement 0) (queued fun ti => { ti with task := none })
    (fun t => (t.tile 0).workQ.map (·.task.node) == [0x2000] && (t.part 0).colQ == []) = true := by decide +kernel
theorem test_task_start : gives (.footprintResident 0) fetching
    (fun t => (t.tile 0).task.map (·.phase) == some .running && t.me.pc == 0x1000 && t.me.st == .ready) = true := by
  decide +kernel
theorem test_steal : gives (.stealAnswer 512 0) robbed
    (fun t => (t.tile 512).workQ.length == 1 && (t.tile 0).workQ == []) = true := by decide +kernel

/-- The engine's tables map the first GiB; a node with a predicate at 0x4000 whose value is `v`. -/
def predicated (v : Nat) (f : State → State) : State :=
  f (withNodes [node 1 [0, 0x4000000040000, 0x4000]] ((rooted .ready 0xC1F).writeN 0 0x4000 8 v))
/-- Node 0x2000 releases node 0x3000, whose DEP is `k`. -/
def next3000 (k : Nat) : Node := { node 0 [0, BitVec.ofNat 64 (k * 2 ^ 32)] with addr := 0x3000 }
theorem witness_GraphEngineActs_preds : ({ node 1 [] with preds := [tag] } : Node).preds.contains tag = true ∧
    1 < (next3000 1).dwords.length := by decide +kernel
def releasing (k : Nat) : State := withNodes [{ node 4 [] with succ := some [0x3000] }, next3000 k] (rooted .ready 0xC1F)
def report : Report := { lo := 0x2000, hi := 0x705, launch := 9, fails := none, cont := none }
def reporting (h : Nat) : State := dev.modPart 0 fun p => { p with reports := [report], grqb := 0x80000, grqHead := h }
/-- The engine's access reaches the cells `cs`. -/
def reaches (e : Engine) (cs : List Nat) : Bool :=
  match e with
  | .cells ds _ => ds == cs
  | _ => false
theorem of_reaches {e : Engine} {cs : List Nat} (h : reaches e cs = true) : ∃ v, e = .cells cs v := by
  cases e <;> simp_all [reaches]
theorem witness_GraphEngineActs_nodes :
    ((predicated 1 id).nodeAt 0 0x2000).map (·.state) = some 1 ∧ (predicated 1 id).launchOf 0 1 = some launch ∧
    (∃ v, (predicated 1 id).engineAccess 0 launch (ndPred (node 1 [0, 0x4000000040000, 0x4000]).dwords) 8 false
      (.predicateCheck 0 0x2000) = .cells (cellsFrom 0x4000 8) v) ∧
    ((predicated 1 id).peekDwords (cellsFrom 0x4000 8)).headD 0 = 1 ∧ ((predicated 0 id).peekDwords (cellsFrom 0x4000 8)).headD 0 = 0 ∧
    (predicated 1 id).liveTask (capHolder ((predicated 1 id).cap (cellGranule 0x4000))) = false ∧
    (let s := predicated 1 fun s => s.setCap 4 (mkCap tag 0 false 5); s.liveTask (capHolder (s.cap (cellGranule 0x4000)))) = true ∧
    ((releasing 1).nodeAt 0 0x2000).map (·.succ) = some (some [0x3000]) ∧ (releasing 1).nodeAt 0 0x3000 = some (next3000 1) ∧
    ndDep (next3000 1).dwords = 1 ∧ ndDep (next3000 2).dwords = 2 ∧ ((releasing 1).releaseSucc 0 0x2000 launch [0x3000]).stray = none ∧
    (((withNodes [node 4 []] (rooted .ready 0xC1F)).dropNode 0 0x2000).checkLaunch 0 1).stray = none :=
  ⟨by decide +kernel, by decide +kernel, of_reaches (by decide +kernel), by decide +kernel⟩
theorem witness_GraphEngineActs_rings : Here (cellsFrom (reportSlot (reporting 0) 0) 16) ∧ ((reporting 0).part 0).reports = [report] ∧ reportRoom (reporting 0) 0 = true ∧
    reportRoom (reporting 256) 0 = false ∧ (reporting 0).launchOf 0 9 = none ∧
    (dev.part 0).reports = [] ∧ (dev.tile 0).workQ.length < 16 ∧
    ((device id fun ti => { ti with workQ := List.replicate 16 (work true) }).tile 0).workQ.length = 16 ∧
    (withNodes [node 2 [0, 0x80000]] dev).nodeAt ((dev.partOfTile 0).getD 0) 0x2000 = some (node 2 [0, 0x80000]) ∧
    dev.floor.recovery = false ∧ dev.ldReserved 0 desc = false ∧ ldCtx desc = 6 ∧ dev.inUse (mkTag 0 0 6) = false ∧
    (dev.part 0).nodes.length + ldNroot desc ≤ nodeLimit ∧ (dev.part 0).gwoke = [] ∧ (dev.liftQ 0).held = [] ∧
    (dev.liftQ 0).room = 256 := ⟨here_from (by decide +kernel), by decide +kernel⟩
theorem test_predicate : gives (.predicateCheck 0 0x2000) (predicated 0 id)
    (fun t => (t.nodeAt 0 0x2000).map (·.state) == some 5 && t.agenda.any fun q => q.ev == .successorRelease 0 0x2000) = true := by
  decide +kernel
theorem test_release : gives (.successorRelease 0 0x2000) (releasing 1)
    (fun t => (t.nodeAt 0 0x3000).map (·.state) == some 2 && (t.nodeAt 0 0x2000).isNone) = true := by decide +kernel
theorem test_report : gives (.graphReportWrite 0) (reporting 0)
    (fun t => t.read64 0x80000 == 0x2000 && t.read64 0x80008 == 0x705 && (t.part 0).grqHead == 1) = true := by decide +kernel

/-- Every slot of tile 0 has stopped, in deterministic mode. -/
def stopped (b : Option Nat) (f : Partition → Partition) : State :=
  (devT fun th => { th with st := .parked .monitor }).modPart 0 fun p => f { p with mode := 1, quanta := true, boundary := b }
theorem witness_QuantaRun : (stopped none id).mayArrive (((stopped none id).partOfTile 0).getD 0) 0 = true ∧
    dev.mayArrive ((dev.partOfTile 0).getD 0) 0 = false ∧ dev.mayBegin 0 = false ∧
    ((stopped none id).modTile 0 fun ti => { ti with arrived := true }).mayBegin 0 = true ∧ (dev.part 0).boundary = none ∧
    ((stopped (some 1) fun p => { p with mode := 0, rlogState := 1 }).part 0).mode ≠ 1 ∧
    (((stopped (some 1) id).serviceStep 0).expireWaits 0).stray = none ∧
    ((stopped (some 2) id).part 0).rlogState = 0 ∧ ((stopped (some 2) id).part 0).rlogPaused = false ∧
    rlogFull ((stopped (some 2) fun p => { p with rlogState := 1, rlogHead := 193 }).part 0) = true ∧
    rlogFull (dev.part 0) = false ∧
    (dev.part 0).halted = false ∧ ((stopped none fun p => { p with rlogPaused := true }).part 0).rlogPaused = true := by
  decide +kernel
/-- A partition of one layer whose one live core is that of tile 0. -/
def small (s : State) : State :=
  (s.modFloor fun fl => { fl with coreRet := List.range' 1 255 }).modPart 0 fun p => { p with zmap := [0] }
theorem witness_QuantaRun_decide : ((small (stopped (some 1) id)).part 0).boundary = some 1 ∧
    ((small (stopped (some 1) id)).part 0).mode = 1 ∧
    (((small (stopped (some 1) id)).serviceStep 0).decideStep 0).stray = none := by decide +kernel
theorem witness_QuantaRun_log : Here (cellsFrom (rlogAt (dev.part 0) (dev.part 0).rlogHead) 16) := here_from (by decide +kernel)
theorem test_boundary_end : gives (.boundaryService 0) (stopped (some 2) id)
    (fun t => (t.part 0).qnum == 1 && (t.part 0).boundary == none) = true := by decide +kernel

/-- The floor die in a sequence that moves die 6 to the bank role and die 7 to the compute role. -/
def role (f : Floor → Floor) : State := dev.modFloor fun fl => f { fl with newRole := 0x5595, seqRole := 0x5595 }
def roleAt (k : Nat) : State := role fun f => { f with roleBusy := true, roleStep := k }
/-- The drain is over where `a` is empty and no window stands in `ws`; the wires are granted to the launch under `w`. -/
def draining (a : BitVec 16) (ws : List TicketWindow) (w : BitVec 14) : State :=
  { (roleAt 1).modPart 0 fun p => { p with barctl := w } with windows := ws }.modFloor fun f => { f with roleAffect := a }
theorem witness_RoleChangeSteps_go : (roleAt 1).floor.roleBusy = true ∧ (roleAt 1).floor.roleStop = false ∧
    goRefused dev = true ∧ goRefused (role id) = false ∧ (role id).roleGo.stray = none ∧ (role id).floor.roleBusy = false ∧
    ((role id).part (role id).floor.rolePart.toNat).mode ≠ 1 ∧ (roleAt 2).floor.roleStep = 2 ∧
    bits (roleAt 1).floor.rolerec 50 4 = 0 ∧ (roleAt 1).noticeRoom (roleAt 1).floor.seqPart = true ∧
    (let s := (roleAt 1).modLift 0 fun q => { q with held := List.replicate 256 { lo := 0, hi := 0 } }
     s.noticeRoom s.floor.seqPart = false) := by decide +kernel
theorem witness_RoleChangeSteps_drain : (draining 0 [] 0).roleTasks = [] ∧ (draining 0 [] 0).roleWindows = [] ∧
    (draining 0 [{ window with homes := [.bank (256 * 6)] }] 0).roleWindows ≠ [] ∧ (draining 0 [] 0).floor.seqForce = false ∧
    (draining 0 [] 0).floor.roleDrain ≤ (draining 0 [] 0).now ∧ (draining 1 [] 0x2005).roleTasks = [(0, task)] ∧
    (draining 1 [] 0x2005).mayCross 0 task = false ∧ task.phase = .running ∧ (draining 1 [] 0).mayCross 0 task = true ∧
    (draining 1 [] 0).fwdFull 0 = false ∧ ((draining 1 [] 0).refuge 0 task).isSome = true ∧
    (fullFwd (draining 1 [] 0)).fwdFull 0 = true ∧ (fullFwd (draining 1 [] 0)).mayCross 0 task = true ∧
    (fullFwd (draining 1 [] 0)).roleTasks = [(0, task)] := by decide +kernel
/-- No tile takes a task: every other layer drains too, and no spill area is there. -/
theorem witness_RoleChangeSteps_halt : (draining 0x5555 [] 0).roleTasks = [(0, task)] ∧ (draining 0x5555 [] 0).fwdFull 0 = false ∧
    (draining 0x5555 [] 0).refuge 0 task = none := by decide +kernel
theorem witness_RoleChangeSteps_recall : ((draining 1 [] 0).ctx tag).dying = false ∧ (draining 1 [] 0).waitsWork 0 = false ∧
    ((draining 1 [] 0).modTile 0 fun ti => { ti with slots := [(0, { thread0 with st := .parked .work })] }).waitsWork 0 = true := by
  decide +kernel
theorem witness_RoleChangeSteps_flush : (roleAt 2).roleDrained = false ∧ (draining 0 [] 0).roleDrained = true ∧
    (draining 0 [] 0).leavingBank = [7] ∧ (draining 0 [] 0).gainingBank = [6] ∧
    ((draining 0 [] 0).modFloor fun f => { f with seqRole := 0x5555 }).leavingBank = [] ∧
    ((draining 0 [] 0).modFloor fun f => { f with seqRole := 0x5555 }).roleDrained = true ∧
    (draining 0 [] 0).floor.seqDiscard = false ∧ ((draining 0 [] 0).modFloor fun f => { f with seqDiscard := true }).leavingBank = [7] ∧
    SMap.wf 0 (draining 0 [] 0).mem = true ∧ (draining 0 [] 0).pois = [] ∧
    bits (draining 0 [] 0).floor.roleflb 50 30 * 2 ^ 30 + 2 ^ 30 ≤ hbmSize ∧ (∀ e ∈ (roleAt 2).bankCap, 2 ^ 63 ≤ e.1 * 4096) ∧
    (roleAt 3).floor.roleStep = 3 ∧ ((roleAt 3).part (roleAt 3).floor.seqPart).quanta = false ∧
    ((roleAt 3).part (roleAt 3).floor.seqPart).hold = none ∧ (roleAt 4).floor.roleStep = 4 ∧ (roleAt 4).stray = none := by
  decide +kernel
/-- R28, R16: eight compute dies with die 7 for die 6 are within the rules; the default role word without a die is not. -/
theorem test_role_go : gives .roleChangeGo (role id)
    (fun t => t.floor.roleBusy && t.floor.roleCode == 1 && t.floor.roleAffect == 0x1C0 &&
      t.floor.role == 0x5555) = true := by decide +kernel
theorem test_role_refused : gives .roleChangeGo dev (fun t => !t.floor.roleBusy && t.floor.roleCode == 2) = true := by
  decide +kernel

/-- Partition 0 with a hold; all but tile 0 of layer 0 retired and no other layer in the map. -/
def held (b : Bool) (why : HoldFor) (f : Floor → Floor) : State :=
  ((roleAt 4).modFloor fun fl => f { fl with coreRet := List.range' 1 255 }).modPart 0 fun p =>
    { p with zmap := [0], hold := some { why := why, begun := b, since := 0, lags := [], wakes := [] } }
theorem witness_HoldsApply : ((held false .roleChange id).part (((held false .roleChange id).partOfTile 0).getD 0)).hold =
      some { why := .roleChange, begun := false, since := 0, lags := [], wakes := [] } ∧ (dev.part ((dev.partOfTile 0).getD 0)).hold = none ∧
    (held false .roleChange id).liveTiles 0 = [0] ∧
    (held false .roleChange id).agenda.any (fun q => q.ev == .holdBegin 0) = false ∧
    (∀ e ∈ (held false .roleChange id).tiles, e.2.workQ = []) ∧ (held false .roleChange id).roleHolds 0 = true ∧
    (held false .roleChange id).floor.retireQ = [] ∧ (held false .roleChange id).stray = none ∧
    (held false .retire fun f => { f with roleBusy := false, retireQ := [.core 3] }).roleHolds 0 = false ∧
    (held false .retire fun f => { f with roleBusy := false, retireQ := [.core 3] }).floor.retireQ = [.core 3] ∧
    dev.partOfTile 3 = some 0 ∧ dev.windows = [] ∧ (held true .retire id).roleHolds 0 = true ∧
    ((held true .retire id).part 0).quanta = false ∧ (held true .retire fun f => { f with roleBusy := false }).roleHolds 0 = false := by
  decide +kernel
theorem test_hold_begin : gives (.holdBegin 0) (held false .roleChange id)
    (fun t => t.floor.role == 0x5595 && t.floor.mhz == 2500 && (t.part 0).zmap == [0, 2, 4, 7, 8, 10, 12, 14] &&
      t.agenda.any fun q => q.ev == .holdRelease 0 && q.due == 4096) = true := by decide +kernel

/-- A thread with format and block-length pointers in a1 to a3, and the vector unit with `q` queued. -/
def vector (p : Word) (q : List UnitOp) : State :=
  device (fun th => { th with a := th.a.set 3 p, k := th.k.set 2 1 }) (fun ti => { ti with vq := q })
def viadd : Instr := .viadd .i16 2 3 4 0
def oldest (d : Nat) : UnitOp := { unitOp dev viadd with due := d }
theorem witness_VectorIssue : isVectorOp viadd = true ∧ dev.myTile.vq.length < 8 ∧ dev.myTile.ringKept = false ∧
    (vector 0 (List.replicate 8 (oldest 9))).myTile.vq.length = 8 ∧
    -- FP32 a3 with no scales; format 0; format 1 with a block length; 8 bytes for 4
    fmtBits (ptrFmt ((vector 0x2400000000000000 []).me.getA 3)) = some 32 ∧ ptrK ((vector 0x2400000000000000 []).me.getA 3) = 0 ∧
    ptrFmt ((vector 0 []).me.getA 3) = 0 ∧ fmtBits (ptrFmt ((vector 0x2000000000000000 []).me.getA 3)) = some 64 ∧
    ptrFmt ((vector 0x3100000000000000 []).me.getA 3) = 12 ∧ ptrK ((vector 0x3100000000000000 []).me.getA 3) = 4 ∧
    2 ^ 4 ≤ VFmt.fp32.lanes ∧ ptrK ((vector 0x3180000000000000 []).me.getA 3) = 6 ∧ VFmt.fp64.lanes < 2 ^ 6 ∧
    (vector 0 []).trapReady (vector 0 []).cur (target (vector 0 [])) = true ∧ (vector 0 []).stray = none ∧
    ((vector 0 [oldest 0]).tile 0).vq = [oldest 0] ∧
    (oldest 0).due ≤ (vector 0 [oldest 0]).now ∧ (vector 0 [oldest 9]).now < (oldest 9).due := by decide +kernel
/-- VQUANT and VDEQ through a3, 16 codes per scale, with a scale pointer of format 13 on path 0 in a4, and on path 6. -/
def blocksOf16 (q : Word) : State :=
  device (fun th => { th with a := (th.a.set 3 0x3100000000000000).set 4 q, k := th.k.set 2 1 }) id
def quantFits (s : State) : Bool :=
  let p := s.me.getA 3
  let q := s.me.getA 4
  (ptrFmt p == 12 || ptrFmt p == 1 || (decide (32 ≤ ptrFmt p) && (fmtBits (ptrFmt p)).isSome)) &&
    fmtScales (ptrFmt p) && ptrFmt q == 13 && ptrK q == 0 && ptrPath q != 6
theorem witness_VectorIssue_quant : quantFits (blocksOf16 0x3400000000000000) = true ∧
    quantFits (blocksOf16 0x3430000000000000) = false ∧ quantFits (blocksOf16 0x3440000000000000) = false := by decide +kernel
theorem test_vector_queue : gives viadd dev (fun t => t.myTile.vq.length == 1 && t.me.pc == 0x1004 && t.me.getV 2 == 0) = true := by
  decide +kernel

/-- R426's operands: lane 0 of v3 is 0x8001, of v4 `y`. -/
def lanes (y : Nat) : Thread := { thread0 with v := (thread0.v.set 3 0x8001).set 4 (BitVec.ofNat 2048 y) }
def run (i : Instr) (th : Thread) : Thread := vecRun { oldest 0 with insn := i } th
theorem witness_LaneResults : intForm viadd = some (.i16, 2, 3, 4, 0) ∧ VFmt.fp32.isFloat = true ∧
    (∀ i ∈ List.range 64, (VFmt.fp32.grid.decode (lane (thread0.getV 3) 32 i)).isNan = false) ∧ VFmt.fp32.lanes = 64 ∧
    (∀ i ∈ List.range 64, laneOn (thread0.getK 2) 64 i = false) := by decide +kernel
theorem test_vsar : lane ((run (.vsar .i16 2 3 4 0) (lanes 17)).getV 2) 16 0 = 0xC000 ∧
    lane ((run (.vshr .i16 2 3 4 0) (lanes 17)).getV 2) 16 0 = 0x4000 ∧
    lane ((run (.vimul .i16 2 3 4 0) (lanes 3)).getV 2) 16 0 = 0x8003 := by decide +kernel
/-- R425's example: a fused product and sum rounds once, a product and a sum twice. -/
def fused : Thread := { thread0 with v := ((thread0.v.set 1 0x3F800800).set 2 0xBF800000).set 3 0xBF800000 }
theorem test_vfma : lane ((run (.vfma .fp32 3 1 1 0) fused).getV 3) 32 0 = 0x3A000400 ∧
    (run (.vfma .fp32 3 1 1 0) fused).fstat = 0 := by decide +kernel
theorem test_vmul_vadd : lane ((run (.vadd .fp32 4 4 2 0) (run (.vmul .fp32 4 1 1 0) fused)).getV 4) 32 0 = 0x3A000000 ∧
    (run (.vmul .fp32 4 1 1 0) fused).fstat = 0x10 := by decide +kernel
/-- R433's example: 5.0, -2.625, 0.875 and 0.3125 to E2M1 with one scale per four, and back. -/
def quantized : Thread :=
  vecRun { oldest 0 with insn := .vquant .fp32 8 2 5 0, ptr := 0x3080000000000000 } { thread0 with
    v := thread0.v.set 2 (BitVec.ofNat 2048 (0x40A00000 + 0xC0280000 * 2 ^ 32 + 0x3F600000 * 2 ^ 64 + 0x3EA00000 * 2 ^ 96)) }
theorem test_vquant : quantized.getV 8 = 0x12D6 ∧
    quantized.getV 9 = BitVec.ofNat 2048 (0x7F * ((2 ^ 128 - 1) / 255)) ∧ quantized.fstat.getLsbD 4 = true := by decide +kernel
theorem test_vdeq : (vecRun { oldest 0 with insn := .vdeq .fp32 10 8 5 0, ptr := 0x3080000000000000 } quantized).getV 10 =
    BitVec.ofNat 2048 (0x40800000 + 0xC0400000 * 2 ^ 32 + 0x3F800000 * 2 ^ 64 + 0x3F000000 * 2 ^ 96) := by decide +kernel

theorem witness_TrapsAndReturns : Clean dev ∧ dev.me.priv = .task ∧ (devAt .supervisor).me.priv ≠ .task ∧
    dev.trapReady dev.cur .supervisor = true ∧ dev.trapReady dev.cur .steward = false ∧
    (let s := devT fun th => { th with sup := { th.sup with nest := true } }
     let s := s.modFloor fun f => { f with trapbase := 0x9001 }
     (s.trapReady s.cur .supervisor = false ∧ s.trapReady s.cur .steward = true) ∧ (s.ctx s.myTag).live = true) ∧
    (match dev.translate dev.cur .fetch dev.me.pc.toNat with
      | .ok (.remote _ _) => false
      | _ => true) = true ∧
    (dev.parkOnFault dev.cur 0x5000 0 .fetch 0 0 0).stray = none := ⟨rfl, by decide +kernel⟩
theorem test_trap : gives (.trap 0x155) dev (fun t => t.me.pc == 0x8000 && t.me.priv == .supervisor && t.me.sup.epc == 0x1000 &&
    t.me.sup.code == 0x10 && t.me.sup.tval == 0x155 && t.me.sup.nest && t.me.sup.ppriv == .task) = true := by decide +kernel
theorem test_eret : gives .eret (devT fun th => { th with
      priv := .supervisor, sup := { th.sup with epc := 0x1234, nest := true } })
    (fun t => t.me.pc == 0x1234 && t.me.priv == .task && !t.me.sup.nest) = true := by decide +kernel

theorem witness_SystemRegisters : sysAccess 0x100 = none ∧ sysAccess 0x3D0 ≠ none ∧ dev.mayRead 0x3D0 = false ∧
    dev.mayWrite 0x3D0 = false ∧ dev.mayRead 0x012 = true ∧ timeRegs.contains 0x012 = false ∧
    (dev.part ((dev.partOfTile dev.cur.tile).getD 0)).quanta = false ∧
    (∀ r ∈ plainRegs, (devAt .steward).mayWrite r.1 = true ∧ (devAt .steward).mayRead r.1 = true) ∧
    (devAt .supervisor).writeStop 0x3A4 0x17FF = some (0x03, 0x3A4) ∧ (devAt .supervisor).mayWrite 0x3A4 = true ∧
    (devAt .supervisor).writeStop 0x3A0 0 = none ∧ ((devAt .supervisor).sysWrite 0x3A0 0).stray = none ∧
    (sysAccess 0x003).map (·.2) = some .ignored ∧ bits (dev.g 3) 2 0 = 0 ∧ bits (dev.g 1) 2 0 = 7 ∧
    (devAt .supervisor).me.priv ≠ .task ∧ bits (dev.g 3) 1 0 ≤ privNum .supervisor ∧ privNum .supervisor < bits (dev.g 1) 1 0 := by
  decide +kernel
theorem test_fstat_w1c : gives (.sysw 1 0x010) (devT fun th => { th with fstat := 0x1F }) (fun t => t.me.fstat == 0x18) = true := by
  decide +kernel
theorem test_rmode_reserved : gives (.sysw 1 0x011) (devT fun th => { th with rm := 2 }) (fun t => t.me.rm == 2) = true := by
  decide +kernel

theorem witness_ThreadsAndContextsEnd : dev.me.priv ≠ .steward ∧ (devAt .steward).me.priv = .steward ∧
    (helped .ready 1).cur.slot ≠ 0 ∧ (devAt .steward).myTile.anyLive = false ∧ (helped .ready 0).myTile.anyLive = true ∧
    ((devAt .steward).ctx (devAt .steward).myTag).live = true ∧ tagCtx ((dev.g 3).truncate 24) = 8 ∧
    (dev.ctx ((dev.g 3).truncate 24)).live = false ∧ 2 ^ 24 ≤ (dev.g 2).toNat ∧
    (let s := devT fun th => { th with priv := .steward, g := th.g.set 4 (tag.zeroExtend 64) }
     (s.ctx ((s.g 4).truncate 24)).live = true ∧ tagCtx ((s.g 4).truncate 24) ≠ 0 ∧ (s.g 4).toNat < 2 ^ 24) ∧
    dev.trapReady dev.cur (target dev) = true ∧ (let s := parked (.wire .x false) none
      s.partOfTile 0 = some s.myPart ∧ (⟨0, 0⟩ : ThreadId) ∈ s.allThreads ∧ (s.thread ⟨0, 0⟩).st = .parked (.wire .x false) ∧
      (s.part s.myPart).hold = none ∧ (s.part s.myPart).mode ≠ 1) := by decide +kernel
theorem test_halt : gives .halt { (helped .ready 1).modMe (fun th => { th with priv := .steward }) with cur := ⟨0, 1⟩ }
    (fun t => (t.thread ⟨0, 1⟩).st == .free && (t.thread ⟨0, 0⟩).st == .ready) = true := by decide +kernel
theorem test_sigrd : gives (.sigrd 4 0) (devAt .supervisor) (fun t => t.g 4 == 1) = true := by decide +kernel

/-- Matrix operands of FP32 at own-bank offsets 0 (a3), 0x1000 (a4) and 0x2000 (a5), a descriptor at 0x400 named by g4. -/
def matrix (f : Task → Task) (q : List UnitOp) (p : Word) : State :=
  device (fun th => { th with
      a := ((th.a.set 3 p).set 4 0x2408000000001000).set 5 0x2408000000002000, g := th.g.set 4 (mkPtr 1 0x400) })
    (fun ti => { ti with task := some (f task), mq := q })
def fp32At0 : Word := 0x2408000000000000
def mat : State := matrix id [] fp32At0
def mop (i : Instr) (p : Word) : UnitOp := { unitOp dev i with ptr := p, cells := [bankCell 0 0] }
theorem witness_MatrixIssue : mat.twinsReg (.mzero true 2) = false ∧ mat.myTile.mq.length < 4 ∧ mat.myTile.ringKept = false ∧
    (matrix id (List.replicate 4 (mop (.mzero true 0) 0)) 0).myTile.mq.length = 4 ∧
    (mat.matOperand 3 .load (rowOk (mat.me.getA 3) true) 4096).toOption.isSome = true ∧
    (mat.matOperand 3 .load (rowOk (mat.me.getA 3) false && ptrFmt (mat.me.getA 3) ≠ 12) (128 * eb (mat.me.getA 3))).toOption.isSome = true ∧
    (mat.matOperand 4 .store (ptrK (mat.me.getA 4) = 0 && (ptrFmt (mat.me.getA 4) = 8 || ptrFmt (mat.me.getA 4) = 9)) 4096).toOption.isSome = true ∧
    mat.blockBusy (cellsFrom (bankCell 0 0x1000) 4096) = none ∧
    mat.capFail mat.myTag (granulesOf (cellsFrom (bankCell 0 0x1000) 4096)) = none ∧
    (mat.capFail mat.myTag (granulesOf (cellsFrom (bankCell 0 0x2000) 4096))).isSome = true ∧
    (matrix (fun k => { k with rdm := 1 }) [] 0).twinsReg (.mzero true 2) = true ∧
    mat.trapReady mat.cur (target mat) = true ∧ mat.stray = none ∧
    ptrK fp32At0 = 0 ∧ [1, 2, 3].contains (ptrPath fp32At0) = true ∧ mat.bankOf mat.cur.tile (ptrPath fp32At0) = some 0 ∧
    [1, 2, 3].contains (ptrPath (mkPtr 4 0)) = false ∧
    (cellsFrom (bankCell 0 0x400) 64).any isRemoteCell = false := by decide +kernel
/-- A store of the thread on its way, and a fence that later accesses of any path wait for it by. -/
def fenced : State :=
  (mat.post (.storeAtHome { tid := ⟨0, 0⟩, tag := tag, path := 2, ptr := mkPtr 2 0, insn := 0, cells := [(bankCell 0 0, 1)], nib := none, opnd := 7, remote := none, slots := [], waited := none })).modMe
    fun th => { th with fthr := [(0xFF, 100)] }
theorem witness_MatrixIssue_ordered :
    (let u := withOperand (unitOp mat (.mldz 0 3)) fp32At0 0 { cells := cellsFrom (bankCell 0 0) 4096, scales := [] }
     ((unitReach u).any fun a => mat.fenceHolds a.1 a.2 || mat.caddyHolds a.1 a.2) = false ∧
     ((unitReach u).any fun a => fenced.fenceHolds a.1 a.2 || fenced.caddyHolds a.1 a.2) = true) := by decide +kernel
/-- A descriptor of another device: whether its home refuses the read is a free value (assumption 6). -/
theorem witness_MatrixIssue_remote (h : Config.remoteRefuses mat.frees = false) :
    (remoteCells 0 0 64).any isRemoteCell = true ∧ Config.remoteRefuses mat.frees = false := ⟨by decide +kernel, h⟩
theorem witness_MatrixIssue_stream :
    (mat.access [0, 1, 2, 3] .load (mat.g 4) true (ptrAddr (mat.g 4)) 64 64).get 64 = .ok (true, cellsFrom (bankCell 0 0x400) 64) ∧
    (mat.access [1, 2, 3] .load (mat.me.getA 3) true (ptrAddr (mat.me.getA 3)) 1 256).get 1 = .ok (true, [bankCell 0 0]) :=
  ⟨of_isOk (by decide +kernel), of_isOk (by decide +kernel)⟩

/-- The matrix unit with one instruction at its head. -/
def unit (f : Tile → Tile) (u : UnitOp) : State := device id fun ti => f { ti with mq := [u] }
def mrot (ax : Axis) (sent : Bool) : UnitOp := { mop (.mrot 0 ax) 0 with sent := sent }
def copyX : RotCopy := { axis := 0, at_ := 0, latch := { Latch.zero with data := 5 } }
def late : LateFault := { cause := 0x0B, tval := 9, ring := 3 }
theorem witness_MatrixResults : Here (cellsFrom (bankCell 0 0) (128 * eb fp32At0)) ∧
    MayLate (unit id (mop (.mma 0 0 3) fp32At0)) 0 (mop (.mma 0 0 3) fp32At0) ∧ ((unit id (mop (.mzero true 0) 0)).tile 0).mq = [mop (.mzero true 0) 0] ∧
    (mop (.mzero true 0) 0).due ≤ (unit id (mop (.mzero true 0) 0)).now ∧
    (unit id { mop (.mzero true 0) 0 with due := 9 }).now < 9 ∧
    (unit id (mop (.mldb 0 3) fp32At0)).struckLoad (mop (.mldb 0 3) fp32At0) 4096 = none ∧ ptrFmt fp32At0 = 9 ∧
    ((unit id (mop (.mstz 0 3) fp32At0)).tile 0).z[(0 : Fin 4)].fp64 = false ∧
    mmaRow (ptrFmt fp32At0) = some { no := 1, k := 32, fp64 := false } ∧
    mmaRow ((unit id (mop (.mma 0 0 3) fp32At0)).tile 0).l[(0 : Fin 2)].fmt = some { no := 1, k := 32, fp64 := false } ∧
    (unit id (mop (.mma 0 0 3) fp32At0)).struckGroup (mop (.mma 0 0 3) fp32At0) { no := 1, k := 32, fp64 := false } = none ∧
    ptrK fp32At0 = 0 ∧ ((unit id (mop (.mma 0 0 3) fp32At0)).tile 0).l[(0 : Fin 2)].klog = 0 ∧
    mmaRow 8 = some { no := 0, k := 16, fp64 := true } ∧
    (unit id (mrot .x false)).ringNext 0 0 = 1 ∧ ((unit id (mrot .x false)).tile 1).rotSkip = [] ∧
    ((unit id (mrot .z false)).modPart 0 fun p => { p with zmap := [0] }).ringNext 0 2 = 0 ∧
    ((unit (fun ti => { ti with rotIn := [copyX] }) (mrot .x true)).tile 0).rotIn.find? (fun c => c.axis = axisNo .x) = some copyX ∧
    (let s := { (unit (fun ti => { ti with rotIn := [copyX] }) (mrot .x true)) with now := 144 }
     copyX.at_ ≤ s.now ∧ (mrot .x true).due + rotTc 0 ≤ s.now ∧ s.now < (mrot .x true).due + 2 ^ 20) ∧
    ((devT fun th => { th with late := some late }).thread ⟨0, 0⟩).late = some late ∧
    (devT fun th => { th with late := some late }).trapReady ⟨0, 0⟩ (trapTarget false .task) = true ∧
    ((devT fun th => { th with late := some late, sup := { th.sup with nest := true } }).thread ⟨0, 0⟩).sup.nest = true :=
  ⟨here_from (by decide +kernel), by unfold MayLate; decide +kernel, by decide +kernel⟩
theorem test_mzero : gives (.matrixCompletion 0)
    (unit (fun ti => { ti with z := ti.z.set 1 { Acc.zero with data := 7 } }) (mop (.mzero false 1) 0))
    (fun t => (t.tile 0).z[(1 : Fin 4)] == { Acc.zero with fp64 := true } && (t.tile 0).mq == []) = true := by decide +kernel
/-- R384: a latch of another row raises invalid-operand late. -/
theorem test_mma_mismatch : gives (.matrixCompletion 0) (unit id (mop (.mma 0 0 3) 0x2008000000000000))
    (fun t => (t.thread ⟨0, 0⟩).late.map (·.cause) == some 0x0B && (t.thread ⟨0, 0⟩).late.map (·.tval) == some 0x2008000000000000) = true := by
  decide +kernel
theorem test_late : gives (.lateFaultDelivery ⟨0, 0⟩) (devT fun th => { th with late := some late })
    (fun t => t.me.sup.late && t.me.sup.code == 0x0B && t.me.sup.seq == 3 && t.me.sup.seqV && t.me.pc == 0x8000) = true := by
  decide +kernel

/-- A stream descriptor (TSIZE 256, one subscriber) at own-bank offset 0x400, and an instruction that names it. -/
def sop (i : Instr) (p : Word) : UnitOp :=
  { unitOp dev i with x0 := mkPtr 1 0x400, ptr := p, cells := [bankCell 0 (ptrAddr p)], scales := [bankCell 0 0x400] }
def stream (subs : List (Nat × Nat)) (pub : Option Tag) : Stream :=
  { desc := bankCell 0 0x400, va := 0x400, joins := subs.length, pub := pub, tsize := 256, nsub := 1, ntile := 0, subs := subs
    next := 0, broken := false, root := tag, joined := [] }
def joined (n : Nat) : Sub :=
  { on := true, stream := bankCell 0 0x400, path := 1, ring := 0x800, w := 2, tsize := 256, ntile := 0, arrived := n
    given := 0, released := 0 }
def streaming (u : UnitOp) (l : List Stream) (b : List (Nat × Sub)) (d : List Delivery) : State :=
  { (device id fun ti => { ti with mq := [u], subs := b }).modPart 0 fun p => { p with streams := l } with
    deliveries := d }.writeN tag (bankCell 0 0x400) 8 0x10100
def delivery : Delivery :=
  { id := 5, tile := 0, sub := 0, desc := bankCell 0 0x400, n := 0, data := List.replicate 256 3, pois := [] }
theorem witness_StreamsRun_open :
    (let s := streaming (sop (.msub 0 3 4 2) (mkPtr 1 0x800)) [] [] []
     let c := bankCell 0 0x400
     s.stream? 0 c = none ∧ s.read64 c = 0x10100 ∧ (∀ i ∈ List.range 64, 8 ≤ i → s.byte (c + i) = 0) ∧
     ((s.part 0).streams.filter fun st => !st.broken).length < 64 ∧
     okAnd (s.openStream 0 (sop (.msub 0 3 4 2) (mkPtr 1 0x800)) (s.rootTag tag)) (fun r => r.2 == stream [] none) = true ∧
     isRemoteCell c = false ∧ s.poisoned (cellsFrom c 64) = false ∧
     ((s.tile 0).sub 0).on = false ∧ (stream [] none).subs.length < (stream [] none).nsub ∧ ptrAddr (mkPtr 1 0x800) % 256 = 0 ∧
     s.capFail tag (granulesOf ((List.range ((2 * 256 + 4095) / 4096 + 1)).map fun i =>
       Nat.min (bankCell 0 0x800 + i * 4096) (bankCell 0 0x800 + 2 * 256 - 1))) = none) := by decide +kernel
theorem witness_StreamsRun_run :
    (let u := sop (.mpost 3 4) (mkPtr 1 0x800)
     let s := streaming u [stream [(0, 0)] (some tag)] [(0, joined 0)] []
     postBad (stream [] none) tag u = false ∧ postInLog (stream [] none) u = false ∧ s.stream? 0 (bankCell 0 0x400) = some (stream [(0, 0)] (some tag)) ∧
     s.tagOf ⟨0, 0⟩ = tag ∧ s.postReady (stream [(0, 0)] (some tag)) = true ∧ s.postReady (stream [] (some tag)) = false) ∧
    (let s := streaming (sop (.mwait 0 6) 0) [stream [(0, 0)] none] [(0, joined 1)] [delivery]
     s.deliveries.find? (fun d => d.id = 5) = some delivery ∧ ((s.tile 0).sub 1).on = false ∧ ((s.tile 0).sub 0).on = true ∧
     (s.stream? 0 (joined 0).stream).map (·.broken) = some false ∧ s.bankFor 0 (joined 0).path = some 0 ∧
     ((s.tile 0).sub 0).given < ((s.tile 0).sub 0).arrived ∧ (joined 0).arrived ≤ (joined 0).given ∧ (joined 0).ntile = 0) := by
  decide +kernel
theorem test_delivery : gives (.streamTileDelivery 5)
    (streaming (sop (.mwait 0 6) 0) [stream [(0, 0)] none] [(0, joined 0)] [delivery])
    (fun t => t.byte (bankCell 0 0x800) == 3 && ((t.tile 0).sub 0).arrived == 1 && t.deliveries == []) = true := by decide +kernel
theorem test_mwait : gives (.matrixCompletion 0) (streaming (sop (.mwait 0 6) 0) [stream [(0, 0)] none] [(0, joined 1)] [])
    (fun t => t.g 6 == mkPtr 1 0x800 && ((t.tile 0).sub 0).given == 1) = true := by decide +kernel

/-- A collective block of one rank at own-bank offset 0x400 (a5): I32, two elements, SRC 0x500, DST 0x600, DONE at
0x7700 in a page of bank 0, PLIST at 0x8000; and a Kettle block at 0x440 (g4) that doubles one FP32 element at
0x5000 (a6 on path 6). -/
def bankPage : TlbEntry := { page 0x7000 with leaf := 0xD0F }
def blocks : State :=
  let s : State := { rooted .ready 0xC1F with
    tiles := [(0, { Tile.zero with
      task := some task, dtlb := [page 0x5000, bankPage, page 0x8000]
      slots := [(0, { thread0 with
        a := (thread0.a.set 5 (mkPtr 1 0x400)).set 6 (0x2400000000000000 ||| mkPtr 6 0x5000), g := thread0.g.set 4 (mkPtr 1 0x440) })] })] }
  let w (s : State) (o v : Nat) : State := s.writeN tag (bankCell 0 o) 8 v
  (w (w (w (w (w (w (w (w s 0x400 0x1500) 0x410 (mkPtr 1 0x500).toNat) 0x418 (mkPtr 1 0x600).toNat) 0x420 2) 0x428 0x7700)
    0x430 0x8000) 0x440 0x101) 0x448 0x40000000).setCap 5 (mkCap tag 0 false 5)
def block : List Word := dwordsOf 8 (blocks.readBytes (cellsFrom (bankCell 0 0x400) 64))
def part0 : CollPart :=
  { tile := 0, tid := ⟨0, 0⟩, tag := tag, block := bankCell 0 0x400, rank := 0, d0 := 0x1500, root := 0, count := 2
    src := cellsFrom (bankCell 0 0x500) 8, dst := cellsFrom (bankCell 0 0x600) 8, done := bankCell 0 0x700, ord := 0 }
def coll (st : Nat) (l : List Word) : Collective := { id := 5, root := tag, plist := l, parts := [part0], gone := [], status := st }
def colls (c : Collective) : State := blocks.modPart 0 fun p => { p with colls := [c] }
theorem witness_Collectives_checks : okAnd (blocks.collChecks (blocks.me.getA 5) block) (fun r =>
    r.1 == bankCell 0 0x700 && r.2.1 == [0] && r.2.2.1.src == part0.src && r.2.2.1.dst == part0.dst &&
    r.2.2.2.releaseAt .fab == none) = true := by decide +kernel
theorem witness_Collectives :
    (blocks.access [0, 1, 2, 3] .load (blocks.me.getA 5) true 0x400 64 64).get 64 = .ok (true, cellsFrom (bankCell 0 0x400) 64) ∧
    (blocks.access [0] .store (mkPtr 0 0x7700) true 0x7700 8 8).get 8 = .ok (false, cellsFrom (bankCell 0 0x700) 8) ∧
    Here part0.dst ∧ Here (cellsFrom part0.done 8) ∧ Clean blocks ∧
    ptrAddr (blocks.me.getA 5) = 0x400 ∧ blocks.poisoned (cellsFrom (bankCell 0 0x400) 64) = false ∧ cbBad block = false ∧
    cbBad (dwordsOf 8 (dev.readBytes (cellsFrom (bankCell 0 0x400) 64))) = true ∧
    blocks.nowHolds 1 (cellsFrom (bankCell 0 0x400) 64) = false ∧ blocks.nowHolds 0 (cellsFrom (bankCell 0 0x700) 8) = false ∧
    blocks.poisoned (cellsFrom (bankCell 0 0x700) 8) = false ∧ blocks.me.outcome = none ∧
    ((blocks.part 0).colls.findSome? fun x => x.parts.find? fun q => q.tag == tag && q.block == bankCell 0 0x400) = none ∧
    (((colls (coll 0 [0])).part 0).colls.findSome? fun x => x.parts.find? fun q => q.tag == tag && q.block == bankCell 0 0x400) =
      some part0 ∧
    blocks.capFail tag (granulesOf (part0.dst ++ [part0.done])) = none ∧ blocks.dieCopy = false ∧
    blocks.collsOfTile 0 0 = 0 ∧ ((colls (coll 0 [0])).part 0).colls = [coll 0 [0]] ∧
    bits (blocks.read64 (bankCell 0 0x428)) 50 0 = 0x7700 ∧ part0.src.any part0.dst.contains = false :=
  ⟨of_isOk (by decide +kernel), of_isOk (by decide +kernel), here_from (by decide +kernel),
    here_from (by decide +kernel), by unfold Clean; decide +kernel, by decide +kernel⟩
/-- Which collective an event names; whether its ranks here are all there, with a rank on device 9, and with another here. -/
theorem witness_Collectives_ranks :
    let found (c : Collective) : Prop :=
      (List.range 8).findSome? (fun n => (((colls c).part n).colls.find? fun c => c.id = 5).map fun c => (n, c)) = some (0, c)
    let here (c : Collective) : List Nat := (List.range c.plist.length).filter fun r => bits (c.plist.getD r 0) 31 16 == 0
    let all (c : Collective) : Bool := (here c).all fun r => c.parts.any fun q => q.rank == r
    found (coll 0 [0]) ∧ found (coll 0 [0, 0x90000]) ∧ found (coll 0 [0, 1]) ∧ found (coll 3 [0]) ∧
    all (coll 0 [0]) = true ∧ (here (coll 0 [0])).length = (coll 0 [0]).plist.length ∧
    all (coll 0 [0, 0x90000]) = true ∧ (here (coll 0 [0, 0x90000])).length < (coll 0 [0, 0x90000]).plist.length ∧
    all (coll 0 [0, 1]) = false ∧ blocks.floor.device = 0 ∧ (coll 3 [0]).gone = [] := by decide +kernel
theorem test_coll_completion : gives (.collCompletion 5) ((colls (coll 0 [0])).writeN tag (bankCell 0 0x500) 4 9)
    (fun t => t.readN (bankCell 0 0x600) 4 == 9 && t.read64 (bankCell 0 0x700) == 1 && (t.part 0).colls == []) = true := by
  decide +kernel
def command (b : Bool) : KCommand :=
  { tid := ⟨0, 0⟩, tag := tag, root := 5, block := bankCell 0 0x440, d0 := 0x101, fact := 0x40000000, fmt := 9, base := 0x5000, map := 0
    flags := 0, line := 0, active := b, lost := false, killed := false, ord := 0 }
def kettled (l : List KCommand) : State := blocks.modKettle 5 fun k => { k with queue := l }
theorem witness_Kettles :
    (blocks.access [0, 1, 2, 3] .atomic (blocks.g 4) true 0x440 64 64).get 64 = .ok (true, cellsFrom (bankCell 0 0x440) 64) ∧
    (blocks.access [6] .atomic (blocks.me.getA 6) true 0x5000 4 4).get 4 = .ok (false, cellsFrom 0x5000 4) ∧
    Here (cellsFrom 0x5000 256) ∧ Here (cellsFrom ((command true).block + 16) 8) ∧ ptrPath (blocks.me.getA 6) = 6 ∧ ptrPath (blocks.me.getA 1) ≠ 6 ∧ kGrid (ptrFmt (blocks.me.getA 6)) = some gFp32 ∧
    kBad gFp32 (dwordsOf 8 (blocks.readBytes (cellsFrom (bankCell 0 0x440) 64))) 0x5000 = false ∧
    kBad gFp32 block 0x5000 = true ∧
    blocks.serving (kettleOf 0x5000) = some 5 ∧ blocks.capFail tag [5, 2 ^ 51] = none ∧ blocks.dirtyLacks [0x5000, 0x440] = false ∧
    blocks.mustHold 6 (cellsFrom 0x5000 4) = false ∧ blocks.mustHold 1 (cellsFrom (bankCell 0 0x440) 64) = false ∧
    ((kettled (List.replicate 16 (command false))).kettle 5).queue.length = 16 ∧
    (blocks.kettle 5).queue = [] ∧ blocks.release = none ∧
    ((kettled [command true]).kettle 5).queue = [command true] ∧
    (kettled [command true]).poisoned (cellsFrom 0x5000 256) = false ∧
    ({ kettled [command true] with pois := [(0x5000 / 8, true)] } : State).poisoned (cellsFrom 0x5000 256) = true ∧
    (kettled [command true]).kettles.any (fun e => e.2.queue.any fun k => k.tag == tag &&
      decide (k.ord < (kettled [command true]).me.kmark.getD (kettled [command true]).nextId)) = true ∧
    blocks.kettles.any (fun e => e.2.queue.any fun k => k.tag == tag) = false ∧ blocks.me.kmark = none :=
  ⟨of_isOk (by decide +kernel), of_isOk (by decide +kernel), here_from (by decide +kernel), here_from (by decide +kernel),
    by decide +kernel⟩
theorem test_kcmd : gives (.kcmd 7 6 4) blocks (fun t => t.g 7 == 0 &&
    (t.kettle 5).queue == [{ command false with ord := blocks.nextId }]) = true := by
  decide +kernel
theorem test_kettle_line : gives (.kettleLine 5) ((kettled [command true]).writeN 0 0x5000 4 0x3F800000)
    (fun t => t.readN 0x5000 4 == 0x40000000 && t.agenda.any fun q => q.ev == .kettleCommandComplete 5) = true := by
  decide +kernel

/-- The device with a containment record in the ring of partition 0, or waiting for a place. -/
def ctnRec (aw : Bool) : CtnRec :=
  { part := 0, d0 := BitVec.ofNat 64 (tag.toNat + 0x43000000 + (if aw then 2 ^ 44 else 0)), d1 := 1, d2 := 2, d3 := 3, answered := false }
def recorded (r w : List CtnRec) (f : Partition → Partition) : State :=
  (dev.modPart 0 fun p => f { p with ctnb := 0x90000, ctnRecs := r, ctnHead := r.length }).modFloor fun fl => { fl with ctnWait := w }
def counted (n : Nat) : State := { dev with counts := [(2 ^ 12, { count := n, start := 0 })] }
theorem witness_ErrorsCounted : Clean dev ∧ Here (cellsFrom 0x90000 32) ∧ (0x5000 < hbmSize) ∧ SMap.get 0 dev.gmode (cellGranule (bankCell 0 0x100)) ≠ 2 ∧
    SMap.get 0 ({ dev with gmode := [(2 ^ 51, 2)] } : State).gmode (cellGranule (bankCell 0 0x100)) = 2 ∧
    (dev.thread ⟨0, 0⟩).st ≠ .free ∧ dev.eventsHeld (.core 0) = 0 ∧ (counted 1).eventsHeld (.core 0) = 1 ∧
    (counted 2).eventsHeld (.core 0) = 2 ∧ ((counted 1).counter (.core 0)).count ≠ 0 ∧
    2 ^ 30 ≤ ({ counted 1 with now := 2 ^ 30 } : State).now - ((counted 1).counter (.core 0)).start ∧
    (counted 1).now - ((counted 1).counter (.core 0)).start < 2 ^ 30 ∧
    (recorded [] [ctnRec true] id).floor.ctnWait.find? (fun r => (recorded [] [ctnRec true] id).ctnRoom r.part &&
      (recorded [] [ctnRec true] id).noticeRoom r.part) = some (ctnRec true) ∧
    dev.floor.ctnWait.find? (fun r => dev.ctnRoom r.part && dev.noticeRoom r.part) = none ∧ (ctnRec true).answered = false ∧
    ((recorded [ctnRec true] [] id).answerRecord 0 0).2 = some tag ∧ ((recorded [ctnRec false] [] id).answerRecord 0 0).2 = none ∧
    ((recorded [ctnRec true] [] id).part 0).ctnRecs = [ctnRec true] ∧ ((recorded [ctnRec true] [] id).part 0).ctnHead = 1 ∧
    ((recorded [ctnRec true] [] id).answerRecord 0 0).1.controlStopped tag = false ∧
    (((recorded [ctnRec true] [] id).modThread ⟨0, 0⟩ fun th => { th with st := .stopped }).answerRecord 0 0).1.controlStopped tag = true ∧
    ((recorded [ctnRec true] [] id).answerRecord 0 0).1.tileOfCtx tag = some 0 ∧
    (((recorded [ctnRec true] [] id).answerRecord 0 0).1.tile 0).task = some task ∧ task.node ≠ 0 ∧
    (((recorded [ctnRec true] [] id).answerRecord 0 0).1.containEnd tag true).stray = none :=
  ⟨rfl, here_from (by decide +kernel), by decide +kernel⟩
/-- How many errors a link passes before it retrains is a free value (assumption 144). -/
def worn : State := dev.modFloor fun f => { f with linkErrs := [(5, Config.linkThreshold dev.frees)] }
theorem witness_ErrorsCounted_links (h : 1 ≤ Config.linkThreshold dev.frees) :
    SMap.get 0 dev.floor.linkErrs 5 + 1 ≤ Config.linkThreshold dev.frees ∧
    Config.linkThreshold worn.frees < SMap.get 0 worn.floor.linkErrs 5 + 1 := ⟨h, Nat.lt_succ_self _⟩
theorem test_third_event : gives (.correctableError (.core 0)) (counted 2)
    (fun t => t.floor.retireQ == [.core 0] && (t.counter (.core 0)).count == 0) = true := by decide +kernel
theorem test_record_write : gives .containmentRecordWrite (recorded [] [ctnRec true] id)
    (fun t => t.read64 0x90018 == 3 && (t.part 0).ctnHead == 1 && t.floor.ctnWait == []) = true := by decide +kernel

/-- The context of tile 0 under Avalanche; the thread of tile 8 waits for the confirmation, and g4 of its KILL. -/
def dying (sw : List Nat) : State :=
  ({ (device id fun ti => { ti with task := some { task with node := 0, phase := .ended }, slots := [] }) with
    bankCap := []
    ctxs := [(tag.toNat, { Ctx.zero with live := true, root := 5, launch := 1, dying := true, cause := 0x43, sweeps := sw, recs := [ctnRec true], killer := [(⟨8, 0⟩, 4)] })] } : State).modTile
    8 fun ti => { ti with slots := [(0, { thread0 with st := .awaiting })] }
/-- A die pair of node 0x2000: copy A has exited, B too where `b`; the pair has three shadow slots. -/
def diePair (b : Bool) (e : Option Nat) : DiePair :=
  { node := 0x2000, tags := [mkTag 1 0 6, mkTag 1 0 7], layers := [0, 2], slots := [0, 1], exited := [true, b], bad := [false, false]
    expiry := e, counted := false }
def pair (b : Bool) (e : Option Nat) : State :=
  (withNodes [node 3 [0, 0x120000, 0, 0, 0, 0, 0, 0, 0x0800000000000030]] (empty [])).modPart 0 fun p =>
    { p with pairs := [diePair b e], rdncfg := 0x1580000100000000 }
/-- The second shadow holds a byte 1. -/
def shadowed : State := { pair true none with mem := [(0x101000000, 1)] }
theorem witness_AvalancheRuns : Clean (dying []) ∧ (dev.tile 0).task.any (fun k => k.tag == tag) = true ∧ (dev.tile 8).task.any (fun k => k.tag == tag) = false ∧
    ((dying [0]).ctx tag).dying = true ∧ (∀ x ∈ ((dying [0]).ctx tag).sweeps, x = 0) ∧ ((dying []).ctx tag).isRoot = false ∧
    ((dying []).ctx tag).sweeps = [] ∧ (dev.ctx tag).dying = false ∧ SMap.wf Tile.zero (dying []).tiles = true ∧
    (∀ e ∈ (dying []).tiles, e.2.workQ = []) ∧
    ((dying []).tiles.all fun e => e.2.task.all fun k => k.tag != tag || (k.pins == [] && k.deliv == 0 && k.copy == 0 && k.node == 0)) = true ∧
    (dying []).windows = [] ∧ (dying []).capGranules = [] ∧ ((dying []).part (tagPart tag)).faults = [] ∧
    (dying []).tableUsed ((dying []).exportAt (tagPart tag) 0) = [] ∧ (dying []).launchOf (tagPart tag) ((dying []).ctx tag).launch = none ∧
    (∃ r ∈ ((dying []).ctx tag).recs, bits r.d0 30 24 = ((dying []).ctx tag).cause.toNat) ∧
    (let s := (dying []).modCtx tag fun c => { c with recs := [] }
     (∀ r ∈ (s.ctx tag).recs, ¬ bits r.d0 30 24 = (s.ctx tag).cause.toNat)) ∧
    (∀ e ∈ (dying []).tiles, e.2.guests = []) ∧ (∀ e ∈ (dying []).kettles, e.2.guests = []) ∧ ((dying []).ctx tag).killer = [(⟨8, 0⟩, 4)] ∧ (dying []).tilesOfCtx tag = [0] ∧
    ((dying []).thread ⟨8, 0⟩).st = .awaiting := ⟨rfl, by decide +kernel⟩
theorem digests_differ {s : State} {ds : List Word} {w : Word} {b c : Nat} {x y : List Byte}
    (hp : ascending (shadowParts 0 ((ndFps ds).filter fpOut)) = [(0, w)]) (hw : fpLen w = 256)
    (hb : s.shadowBase 0 0 = b) (hc : s.shadowBase 0 1 = c) (hx : s.readBytes (cellsFrom b 256) = x)
    (hy : s.readBytes (cellsFrom c 256) = y) (h : sm3 x ≠ sm3 y) :
    s.shadowDigest 0 0 ds ≠ s.shadowDigest 0 1 ds := by
  simp only [State.shadowDigest, hp, hb, hc, List.flatMap_cons, List.flatMap_nil, List.append_nil, Nat.add_zero, hw, hx, hy]
  exact h
theorem shadowed_bytes0 : shadowed.readBytes (cellsFrom 0x100000000 256) = List.replicate 256 0 := by decide +kernel
theorem shadowed_bytes1 : shadowed.readBytes (cellsFrom 0x101000000 256) = 1 :: List.replicate 255 0 := by decide +kernel
theorem shadowed_out : ascending (shadowParts 0 ((ndFps (node 3 [0, 0x120000, 0, 0, 0, 0, 0, 0, 0x0800000000000030]).dwords).filter
    fpOut)) = [(0, 0x0800000000000030)] := by decide +kernel
theorem shadowed_0 : shadowed.shadowBase 0 0 = 0x100000000 := by decide +kernel
theorem shadowed_1 : shadowed.shadowBase 0 1 = 0x101000000 := by decide +kernel
/-- The digests of 256 bytes 0 and of one byte 1 and 255 bytes 0 differ. -/
theorem witness_AvalancheRuns_pairs :
    shadowed.shadowDigest 0 0 (node 3 [0, 0x120000, 0, 0, 0, 0, 0, 0, 0x0800000000000030]).dwords ≠
      shadowed.shadowDigest 0 1 (node 3 [0, 0x120000, 0, 0, 0, 0, 0, 0, 0x0800000000000030]).dwords ∧
    (∀ e ∈ (pair false (some 0)).tiles, ∀ w ∈ e.2.workQ, w.fetched = true → w.task.node ≠ 0x2000) ∧
    (((pair false (some 0)).dropPair 0 0x2000).enqueueNode 0 0x2000).stray = none ∧
    (device id fun ti => { ti with task := some { task with rdm := 1 } }).myTile.task = some { task with rdm := 1 } ∧
    SMap.wf Tile.zero (device id fun ti => { ti with task := some { task with rdm := 1 } }).tiles = true ∧
    (pair false none).nodeAt 0 0x2000 = some (node 3 [0, 0x120000, 0, 0, 0, 0, 0, 0, 0x0800000000000030]) ∧
    ((pair false none).part 0).pairs.find? (fun d => d.node = 0x2000) = some (diePair false none) ∧
    (diePair false none).exited.all id = false ∧ (diePair true none).exited.all id = true ∧ (diePair true none).tags.length = 2 ∧
    ((pair true none).freeShadows 0).head? = some 2 ∧ (pair true none).pairTile 0 (diePair true none)
      ((pair true none).thirdLayer 0 (diePair true none)) = some 1024 ∧ ((pair true none).tile 1024).workQ.length < 16 ∧
    (diePair false (some 0)).expiry = some 0 ∧ ((diePair false none).tags.all fun t => ((pair false none).taskOf t).isNone) = true ∧
    (pair false (some 0)).standsStill (mkTag 1 0 7) = false ∧
    ndDeliv (node 3 [0, 0x120000]).dwords = false ∧ (pair false (some 0)).now = 0 :=
  ⟨digests_differ shadowed_out (by decide +kernel) shadowed_0 shadowed_1 shadowed_bytes0 shadowed_bytes1 (by decide +kernel), by decide +kernel⟩
/-- Copy B of the pair, whose time is up, is parked at tile 512. -/
def parkedCopy : State :=
  ((pair false (some 0)).modTile 512 fun ti =>
    { ti with task := some { task with tag := mkTag 1 0 7, node := 0x2000, copy := 2 }
              slots := [(0, { thread0 with st := .parked .monitor })] }).modCtx (mkTag 1 0 7) fun c =>
      { c with live := true, root := 5, launch := 1 }
theorem witness_AvalancheRuns_expiry :
    let late := ((diePair false (some 0)).tags.zipIdx.filter fun ti => !(diePair false (some 0)).exited.getD ti.2 true).map (·.1)
    late = [mkTag 1 0 7] ∧ late.any parkedCopy.standsStill = true ∧
    (parkedCopy.part 0).pairs.find? (fun d => d.node = 0x2000) = some (diePair false (some 0)) ∧
    (let v := parkedCopy.record (mkTag 1 0 7) 0x49 false (Strike.plain (256 * 2))
     let u := late.foldl (fun s t => s.containEnd t false) v
     let w := u.mapTiles fun _ t => { t with workQ := t.workQ.filter fun w => !(w.task.node == 0x2000 && w.task.copy != 0) }
     (u.nodeAt 0 0x2000).any (fun x => !ndDeliv x.dwords) = true ∧
     (u.tiles.all fun e => e.2.workQ.all fun w => !(w.fetched && w.task.node == 0x2000)) = true ∧
     (((w.dropPair 0 0x2000).enqueueNode 0 0x2000).kick 0).stray = none) := by decide +kernel
/-- A thread-redundant task at tile 0 whose leading control twin has handed on `es`. -/
def twins (es : List TwinEntry) : State :=
  device id fun ti => { (ti.setThread 5 { ti.thread 0 with g := (ti.thread 0).g.set 4 7 }) with
    task := some { task with rdm := 1 }, twins := [(0, { Twin.zero with lvq := es })] }
def wrote : TwinEntry := .value [.g 4 9] 0x1004
def took (pc : Pc) : TwinEntry := .trap .steward { TrapBank.zero with epc := pc, nest := true } 0x100
/-- The trailing twin stands at a TRAP 5 of its own. -/
def fetchesTrap : State :=
  { (((twins [took 0x1000]).modTile 0 fun ti => { ti with itlb := [page 0x1000] }).writeN 0 0x1000 4 0xFC000005) with cur := ⟨0, 5⟩ }
theorem witness_AvalancheRuns_twins : ((twins []).twin (leadTwin ⟨0, 5⟩)).lvq = [] ∧ (twins []).trails ⟨0, 5⟩ = true ∧
    ((twins [wrote]).twin (leadTwin ⟨0, 5⟩)).lvq = [wrote] ∧ (took 0x1000 = .trap .steward { TrapBank.zero with epc := 0x1000, nest := true } 0x100) ∧
    (twins [took 0x1000]).trapsApart ⟨0, 5⟩ .steward { TrapBank.zero with epc := 0x1000, nest := true } = false ∧
    fetchesTrap.trapsApart ⟨0, 5⟩ .supervisor { TrapBank.zero with epc := 0x1000, code := 0x0C, nest := true } = true ∧
    ((twins []).thread ⟨0, 5⟩).pc = 0x1000 ∧ alignPc 0x1000 = 0x1000 ∧ (0x2000 : Pc) ≠ alignPc 0x1000 ∧
    (twins []).paired 0 = true ∧ twinOwn (.st 4 0 .b 0) = false ∧ twinOnce (.st 4 0 .b 0) = true ∧
    ((twins [wrote]).twin ⟨0, 0⟩).lvq ≠ [] ∧ (twins []).twinsAgree ⟨0, 0⟩ (.st 4 0 .b 0) = false ∧
    (twins []).twinsAgree ⟨0, 0⟩ (.st 6 0 .b 0) = true ∧
    ((twins (List.replicate 32 wrote)).twin ⟨0, 0⟩).full = true := by decide +kernel
theorem test_trail : (match trail (twins [wrote]) ⟨0, 5⟩ with
    | .next u => (u.thread ⟨0, 5⟩).getG 4 == 9 && (u.thread ⟨0, 5⟩).pc == 0x1004 && (u.thread ⟨0, 5⟩).retired == 1
    | _ => false) = true := by decide +kernel
theorem test_kill_packet : gives (.killPacketArrival tag 0) dev (fun t => (t.tile 0).slots == [] &&
    (t.tile 0).task.map (·.phase) == some .ended) = true := by decide +kernel
theorem test_confirm : gives (.avalancheConfirm tag) (dying [])
    (fun t => (t.tile 0).task == none && !(t.ctx tag).dying && (t.thread ⟨8, 0⟩).st == .ready &&
      (t.thread ⟨8, 0⟩).pc == 0x1004 && t.floor.ctnWait == [ctnRec true]) = true := by decide +kernel

/-- Window tables at 256 KiB (imports) and 384 KiB (exports); entry 0 of each with its first dwords `a` and `b`; the
proxy context of the export is 5 of owner 1, whose tables map the first GiB. -/
def tables (a b : Nat) : State :=
  ((((rooted .ready 0xC1F).modPart 0 fun p => { p with winb := 0x40000, expb := 0x60000 }).writeN 0 0x40000 8 a).writeN 0 0x40008 8
    12).writeN 0 0x60000 8 b |>.writeN 0 0x60008 8 0x500C
def remote (op : RemoteOp) : RemoteReq := { part := 0, exp := 0, dev := 9, owner := 1, offset := 0, op := op }
def exported : State := tables 0 (0x500000101 + 9 * 2 ^ 16)
theorem witness_WindowsAndHostRun_commands : (tables 0 0).importGood 0 0 = true ∧ (tables 0 0).importSt 0 0 = 0 ∧
    (tables 4 0).importGood 0 0 = false ∧ (tables 1 0).importSt 0 0 = 1 ∧ (tables 0 0).exportGood 0 0 = true ∧
    (tables 0 0).exportSt 0 0 = 0 ∧ (tables 0 1).exportSt 0 0 = 1 ∧ (tables 0 4).exportGood 0 0 = false ∧
    (tables 0 2).exportSt 0 0 = 2 ∧
    bits ((tables 0 0).part (tables 0 0).myPart).wincmd 14 3 = 0 ∧ (tables 0 0).exportAt 0 0 = 0x60000 ∧
    (tables 0 0).importAt 0 0 = 0x40000 := by decide +kernel
theorem witness_WindowsAndHostRun_here : Here (cellsFrom 0x40000 8) ∧ Here (cellsFrom 0x60000 24) ∧
    Here (cellsFrom (exported.exportAt 0 0 + 16) 8) := ⟨here_from (by decide +kernel), here_from (by decide +kernel), here_from (by decide +kernel)⟩
/-- The host's access on queue 0, whose owner is 1 and proxy 5. -/
def host (rd : Nat) (d : List Byte) : HostAccess := { queue := 0, va := 0x5000, read := rd, data := d }
def hosted : State := exported.modLift 0 fun q => { q with owner := 1, proxy := 5 }
def key0 : PortKey := { PortKey.zero with v := true, keys := [some 7, none] }
def frame (m : BitVec 64) : Frame :=
  { port := 3, owner := 1, src := 9, dst := 0, piste := 0, seq := 1, epoch := false, payload := [1], mac := m, request := some (remote (.load 8)) }
def keyed (k : PortKey) : State := dev.modPort 3 1 fun _ => k
theorem witness_WindowsAndHostRun_requests :
    bits (exported.read64 0x60000) 1 0 = 1 ∧ bits (exported.read64 0x60000) 15 8 = (1 : BitVec 8).toNat ∧
    bits (exported.read64 0x60000) 31 16 = 9 ∧ 0 + remoteBytes (.load 8) ≤ 2 ^ bits (exported.read64 0x60008) 5 0 ∧
    bits (exported.read64 0x60000) 44 32 = 5 ∧ bits (exported.read64 0x60008) 50 12 * 4096 = 0x5000 ∧
    reaches (exported.proxyAccess 0 tag .load 0x5000 8 (.remoteRequest (remote (.load 8)))) (cellsFrom 0x5000 8) = true ∧
    reaches (exported.proxyAccess 0 tag .store 0x5000 1 (.remoteRequest (remote (.store [1])))) [0x5000] = true ∧
    (exported.setCap 5 (mkCap tag 0 false 5)).capFail tag [5] = none ∧ exported.capFail tag [5] ≠ none ∧ (0x5000 < hbmSize) ∧
    (exported.writeN 0 0x1000000 8 0xC13).proxyAccess 0 tag .load 0x5000 8 (.remoteRequest (remote (.load 8))) = .bad ∧
    bits ((tables 0 0).read64 0x60000) 1 0 ≠ 1 ∧ mkTag (hosted.liftQ 0).owner.toNat 0 (hosted.liftQ 0).proxy = tag ∧
    reaches (hosted.proxyAccess 0 tag .load 0x5000 8 (.hostHbmAccess (host 8 []))) (cellsFrom 0x5000 8) = true ∧
    reaches (hosted.proxyAccess 0 tag .store 0x5000 1 (.hostHbmAccess (host 0 [1]))) [0x5000] = true ∧
    hosted.floor.recovery = false ∧ (hosted.modFloor fun f => { f with recovery := true }).floor.recovery = true := by decide +kernel
/-- The published examples of GB/T 32905 (the digest of "abc") and GB/T 32907. -/
theorem test_sm3 : sm3 [0x61, 0x62, 0x63] =
    BitVec.ofNat 256 (natOfBytes (bigEndian 32 0x66c7f0f462eeedd9d1f2d46bdc10e4e24167c4875cf2f7a2297da02b8f4ba8e0)) := by
  decide +kernel
theorem test_sm4 : sm4Encrypt 0x0123456789abcdeffedcba9876543210 0x0123456789abcdeffedcba9876543210 =
    0x681edf34d206965e86b3e94f536e4246 := by decide +kernel
set_option maxRecDepth 100000 in
/-- The published signature example of GB/T 32918.5: private key, nonce and digest give (r, s). -/
theorem test_sm2 : sm2SignWith 0x3945208F7B2144B13F36E38AC6D39F95889393692860B51A42FB81EF4DF7C5B8
    0x59276E27D506861A16680F3AD9C02DCCEF3CC1FA3CDBE4CE6D54B80DEAC1BC21
    (BitVec.ofNat 256 (natOfBytes (bigEndian 32 0xF0B43E94BA45ACCAACE692ED534382EB17E6AB5A19CE7B31F4486FDFC0D28640))) =
    pointBytes (0xF5A03B0648D2C4630EEAC513E1BB81A15944DA3827D5B74143AC7EACEEE720B3,
      0xB1B6AA29DF212FD8763182BC0D421CA1BB9038FD1F7F42D4840B69C485BBC1AA) := by decide +kernel
/-- A frame with the tag of its key is authentic. -/
theorem witness_WindowsAndHostRun_frames :
    authentic 7 (frame (sm4Cmac 7 (frameHeader (frame 0) ++ [1]))) = true ∧ ((keyed key0).port 3 1).v = true ∧ ((keyed key0).port 3 1).keys.getD 0 none = some 7 ∧
    decide (((keyed key0).port 3 1).rxseq < (frame 0).seq) = true ∧ ((keyed key0).port 3 1).rxep = (frame 0).epoch ∧
    ((keyed { key0 with fresh := 1, rxseq := 5 }).port 3 1).fresh.getLsbD 0 = true ∧ (keyed key0).portRetrains 3 = false ∧
    ((keyed key0).modFloor fun f => { f with retrain := [opticalLink + 6] }).portRetrains 3 = true ∧
    (dev.port 3 1).v = false ∧ (frame 0).dst = dev.floor.device ∧ ((keyed key0).port 3 1).lost = false ∧
    ((keyed { key0 with lost := true }).port 3 1).lost = true ∧ SMap.get 0 ((keyed key0).port 3 1).tries 5 < 3 ∧
    3 ≤ SMap.get 0 ((keyed { key0 with tries := [(5, 3)] }).port 3 1).tries 5 ∧
    (keyed key0).floor.routes.any (fun r => r.2 == 3) = false :=
  ⟨by simp [authentic, frame, frameHeader], by decide +kernel⟩
/-- A store through import window 0, open to device 9, that the routes reach by port 3. -/
def outward : Pending :=
  { id := 1, due := 0, ev := .storeAtHome { tid := ⟨0, 0⟩, tag := tag, path := 0, ptr := mkPtr 0 0x5000, insn := 0
                                            cells := [(remoteCells 0 0 1).headD 0 |> (·, 1)], nib := none, opnd := 1, remote := some 0, slots := [], waited := none } }
def linked (k : PortKey) : State :=
  { (((tables (1 + 9 * 2 ^ 16) 0).modFloor fun f => { f with routes := [(9, 3)] }).modPort 3 1 fun _ => k) with agenda := [outward] }
theorem witness_WindowsAndHostRun_leaves : (linked key0).leavesBy outward = some 0 ∧
    (linked key0).target ((linked key0).outgoing outward.ev).1 0 = (0, 9, 1) ∧ (linked key0).exits 9 1 = [3] ∧
    ((linked key0).port 3 1).txseq < 2 ^ 48 ∧ (linked key0).importAt 0 0 + 16 = 0x40010 ∧
    ((linked key0).sends outward).isSome = true ∧
    (∀ p ∈ (linked { key0 with txseq := 2 ^ 48 }).exits 9 1, 2 ^ 48 ≤ ((linked { key0 with txseq := 2 ^ 48 }).port p 1).txseq) ∧
    (linked { key0 with txseq := 2 ^ 48 }).eventReady outward = false ∧ (linked key0).eventReady outward = true ∧
    bits (({ linked key0 with agenda := [], sent := [(1, 0, 0)] }.write64 0 0x40010 1).tick.read64 0x40010) 31 0 = 0 := by decide +kernel
theorem test_open_import : gives .winOpenImport (tables 0 0) (fun t => t.importSt 0 0 == 1) = true := by decide +kernel
theorem test_host_read : gives (.hostHbmAccess (host 2 [])) (hosted.writeN 0 0x5000 2 0x0201)
    (fun t => (t.liftQ 0).answers == [[1, 2]]) = true := by decide +kernel

/-- Sensors, key and attestation commands of the floor die. -/
def hot (temp : Nat) : SensorReading := { SensorReading.zero with temps := #v[25, temp, 25, 25] }
def sensed (temp : Nat) : State := dev.modFloor fun f => { f with sensorIn := [hot temp] }
def dry : GapReading := { GapReading.zero with gap := 2, flowMl := 5999 }
def flowed : State := dev.modFloor fun f => { f with gapIn := [dry] }
/-- R324: below 6 L/min COOL is set, and the pair below the gap runs slower. -/
theorem test_cool : gives .sensorSample flowed (fun t => t.floor.cool && (t.sensor 4).mhz < 2500 && (t.sensor 6).mhz == 2500) = true := by
  decide +kernel
def attesting (b : Bool) (cmd : Word) : State := dev.modPart 0 fun p => { p with attBusy := b, attcmd := cmd, attAt := 0x10000 }
def keyRun (w : Word) : State := dev.modFloor fun f => { f with keyRun := w, keyRunAt := 0x20000 }
/-- The store names a higher SEQ than that of any image in the flash. -/
def dark : State := State.reset.modFloor fun f => { f with fwSeq := 1, cfSeq := 1 }
theorem witness_PlatformActs : Here (cellsFrom 0x10000 320) ∧
    Here (cellsFrom (bits (keyRun 3).floor.keyRunAt 50 6 * 64) 224) ∧ (sensed 105).floor.sensorIn = [hot 105] ∧
    hottest (hot 105) = 105 ∧ hottest (hot 94) < 95 ∧ flowed.floor.gapIn = [dry] ∧ gapBad dry = true ∧ gapBad GapReading.zero = false ∧
    dev.floor.retrain.contains 5 = false ∧ (dev.modFloor fun f => { f with retrain := [5] }).floor.retrain.contains 5 = true ∧
    dev.eventsHeld (.router (5 / 8)) = 0 ∧ dark.fwOk dark.floor.flash[(0 : Fin 4)] = false ∧
    dark.fwOk dark.floor.flash[(1 : Fin 4)] = false ∧ dark.cfOk dark.floor.flash[(2 : Fin 4)] = false ∧
    dark.cfOk dark.floor.flash[(3 : Fin 4)] = false ∧
    ((attesting true 0).part (attesting true 0).myPart).attBusy = true ∧ ((attesting false 0).part 0).attBusy = false ∧
    hbmSize < bits (BitVec.ofNat 64 hbmSize) 50 6 * 64 + 320 ∧ bits (0x10000 : Word) 50 6 * 64 + 320 ≤ hbmSize ∧
    (List.range 8).find? (fun n => ((attesting true 0).part n).attBusy) = some 0 ∧
    144 ≤ bits (keyRun 144).floor.keyRun 7 0 ∧ bits (keyRun 3).floor.keyRun 7 0 < 144 ∧
    (keyRun 3).floor.keyRun.getLsbD 19 = ((keyRun 3).port 3 0).ep ∧ (keyRun 0x80003).floor.keyRun.getLsbD 19 ≠ ((keyRun 0x80003).port 3 0).ep ∧
    ((keyRun 0x80003).port 3 0).keys.length = 2 ∧
    dev.floor.recovery = false ∧ (0 : Nat) = (if dev.floor.fws then 1 else 0) ∧ (1 : Nat) ≠ (if dev.floor.fws then 1 else 0) := ⟨here_from (by decide +kernel), here_from (by decide +kernel), by decide +kernel⟩
/-- Whether a signature verifies under a key that only its digest names is a free value (assumption 4). -/
def firmware (sig : List Byte) : Image :=
  { kind := 1, seq := 2, signer := 0, bytes := [1, 0, 0, 0, 0, 0, 0, 0, 2, 0, 0, 0, 0, 0, 0, 0] ++ List.replicate 48 0, sig := sig, cfg := CfgBody.default }
def config (sig : List Byte) : Image :=
  { kind := 2, seq := 2, signer := 0, bytes := [2, 0, 0, 0, 0, 0, 0, 0, 2, 0, 0, 0, 0, 0, 0, 0] ++ List.replicate 48 0, sig := sig, cfg := CfgBody.default }
def flashed (f c : Image) : State := State.reset.modFloor fun fl =>
  { fl with flash := #v[f, Image.blank 1, c, Image.blank 2], steward := none, fwSeq := 1, cfSeq := 1 }
theorem witness_PlatformActs_boot (a b : List Byte)
    (hf : sm2VerifyBy Config.rootKeyDigest (firmware a).bytes a = true) (hc : sm2VerifyBy 0 (config b).bytes b = true) :
    (flashed (firmware a) (config b)).fwOk (firmware a) = true ∧ (flashed (firmware a) (config b)).cfOk (config b) = true ∧
    pickSlot (firmware a) (Image.blank 1) ((flashed (firmware a) (config b)).fwOk (firmware a))
      ((flashed (firmware a) (config b)).fwOk (Image.blank 1)) = some false := by
  have h1 : (flashed (firmware a) (config b)).fwOk (firmware a) = true := by
    unfold State.fwOk
    rw [show (firmware a).sig = a from rfl, hf, Bool.and_true]; rfl
  refine ⟨h1, ?_, ?_⟩
  · unfold State.cfOk
    have h2 : cfgOk (config b).cfg = true := (by decide +kernel : cfgOk CfgBody.default = true)
    rw [show (config b).sig = b from rfl, show (config b).signer = 0 from rfl, hc, h2, Bool.and_true]; rfl
  · rw [h1]; rfl
theorem test_attest_busy : gives .attestGo (attesting true 0) (fun t => (t.part 0).attCode == 1) = true := by decide +kernel
theorem test_boot_recovery : gives .powerOnBoot dark (fun t => t.floor.recovery && t.mem == []) = true := by decide +kernel

theorem witness_DecodeOfEncode : (Instr.msub 3 15 63 63).isWord = true ∧ (Instr.msub 3 15 63 63).wf = true := by decide +kernel
/-- LIM g9, 0 placed where the step after reset fetches. -/
def placed (w : Nat) : State := State.reset.withFetchWord 32 w
def inTurn (w : Nat) : State := (placed w).tick.turn ⟨0, 0⟩
theorem code_placed (w : Nat) (bs : List Byte) (hl : bs.length = 4)
    (hb : (List.range 4).map (fun j => (inTurn w).byte (placedPa + j)) = bs)
    (ht : isOk ((inTurn w).translate ⟨0, 0⟩ .fetch placedPc) (.cell placedPa) = true)
    (hp : ((inTurn w).thread ⟨0, 0⟩).pc.toNat = placedPc) : CodeAt (inTurn w) ⟨0, 0⟩ bs := by
  refine ⟨by rw [hp]; decide +kernel, fun k hk => ?_⟩
  have : k = 0 := by omega
  subst this
  exact ⟨placedPa, by rw [hp]; exact of_isOk ht, .inl (by decide +kernel), by
    rw [hb, Nat.mul_zero, List.drop_zero, List.take_of_length_le (by omega)]⟩
theorem witness_StepRunsDecoded_insn : CodeAt (inTurn 0x24900000) ⟨0, 0⟩ [0x00, 0x00, 0x90, 0x24] ∧
    decode [0x00, 0x00, 0x90, 0x24] = .ok (.lim 9 0, []) ∧ (placed 0x24900000).choose = some (.thread ⟨0, 0⟩) ∧
    (inTurn 0x24900000).trails ⟨0, 0⟩ = false ∧ (inTurn 0x24900000).lateNow ⟨0, 0⟩ = false ∧
    (inTurn 0x24900000).before ⟨0, 0⟩ (.lim 9 0) = .run := by
  refine ⟨code_placed _ _ rfl ?_ ?_ ?_, of_isOk ?_, ?_⟩ <;> decide +kernel
theorem witness_StepRunsDecoded_illegal : CodeAt (inTurn 1) ⟨0, 0⟩ [1, 0, 0, 0] ∧
    whyNot (decode [1, 0, 0, 0]) = some (.illegalWord 1) ∧ (placed 1).choose = some (.thread ⟨0, 0⟩) ∧
    (inTurn 1).trails ⟨0, 0⟩ = false ∧ (inTurn 1).lateNow ⟨0, 0⟩ = false := by
  refine ⟨code_placed _ _ rfl ?_ ?_ ?_, ?_⟩ <;> decide +kernel
def goesOn (o : Host.Outcome State Fault Refusal) (p : State → Bool) : Bool :=
  match o with
  | .next t => p t
  | _ => false
/-- ADD.w g4, g5, g6 after an MWAIT of the same thread whose g4 has not come (R42). -/
def waitsFor : State := (placed 0x04414620).modTile 0 fun ti => { ti with mq := [mop (.mwait 0 4) 0] }
theorem witness_StepRunsDecoded_wait : waitsFor.choose = some (.thread ⟨0, 0⟩) ∧
    (waitsFor.tick.turn ⟨0, 0⟩).trails ⟨0, 0⟩ = false ∧ (waitsFor.tick.turn ⟨0, 0⟩).lateNow ⟨0, 0⟩ = false ∧
    (waitsFor.tick.turn ⟨0, 0⟩).before ⟨0, 0⟩ (.add 4 5 6 true) = .wait ∧ (waitsFor.tick.turn ⟨0, 0⟩).stray = none ∧
    goesOn (step waitsFor) (fun t => (t.thread ⟨0, 0⟩).st == .held && (t.thread ⟨0, 0⟩).pc.toNat == placedPc) = true := by
  decide +kernel
theorem witness_StepRunsDecoded_twin : ({ twins [wrote] with agenda := [] } : State).choose = some (.thread ⟨0, 5⟩) ∧
    ((({ twins [wrote] with agenda := [] } : State).tick.turn ⟨0, 5⟩).trails ⟨0, 5⟩ = true) ∧
    State.reset.tiles.all (fun e => !State.reset.paired e.1) = true := by decide +kernel
/-- A guest in slot 11 of the tile has its turn. -/
def guestTurn : State := (placed 1).modTile 0 fun ti => { ti with slots := [], guests := [(11, guest (.amo .add) 8)] }
theorem witness_StepRunsDecoded_guest : guestTurn.choose = some (.thread ⟨0, 11⟩) ∧
    guestTurn.guestIn ⟨0, 11⟩ = some (guest (.amo .add) 8) ∧
    goesOn (step guestTurn) (fun t => (t.tile 0).last == 11 && (t.tile 0).guests == []) = true := by decide +kernel
theorem witness_StepRunsDecoded_event :
    ({ State.reset with agenda := [{ id := 0, due := 0, ev := .droopStretch }] } : State).choose =
      some (.event { id := 0, due := 0, ev := .droopStretch }) ∧ State.reset.choose = none ∧
    State.reset.floorDrops .droopStretch = none ∧ State.reset.sends { id := 0, due := 0, ev := .droopStretch } = none := by
  decide +kernel
/-- A store to HBM under a context of partition 1, from a tile of partition 0. -/
def foreign : Instr := .storeAtHome { tid := ⟨0, 0⟩, tag := mkTag 1 1 5, path := 0, ptr := mkPtr 0 0x5000, insn := 0, cells := [(0x5000, 1)], nib := none, opnd := 1, remote := none, slots := [], waited := none }
theorem witness_StepRunsDecoded_dropped :
    ({ State.reset with agenda := [{ id := 0, due := 0, ev := foreign }] } : State).choose = some (.event { id := 0, due := 0, ev := foreign }) ∧
    State.reset.sends { id := 0, due := 0, ev := foreign } = none ∧ (State.reset.floorDrops foreign).any (fun t => t.floor.violations == 1 && t.byte 0x5000 == 0) = true := by decide +kernel
theorem witness_StepRunsDecoded_leaves :
    ({ linked key0 with tiles := [] } : State).choose = some (.event outward) ∧
    (({ linked key0 with tiles := [] } : State).sends outward).isSome = true ∧
    (({ linked key0 with tiles := [], floor := Floor.reset } : State).sends outward).any (fun t => t.importSt 0 0 == 2) = true := by
  decide +kernel
/-- The step after reset runs the placed instruction, and keeps the form of memory. -/
theorem witness_StepKeepsMemory : Memory.wf (placed 0x24900000).mem = true ∧ Memory.wf State.reset.mem = true ∧
    goesOn (step (placed 0x24900000)) (fun t => (t.thread ⟨0, 0⟩).getG 9 == 0 && (t.thread ⟨0, 0⟩).pc == 0x400004) = true := by
  decide +kernel

end Sys2Proof.Test
end

/-! SUPPORT. Bytes and lanes of numbers, and what the loads write (R6, R48, R374 to R378). -/

section
namespace Sys2Proof.Machine

open Sys2Proof.Claim

/-! ### Bytes of a number (R6) -/

theorem natOfBytes_bytesOfNat (n v : Nat) : natOfBytes (bytesOfNat n v) = v % 2 ^ (8 * n) := by
  induction n generalizing v with
  | zero => simp [bytesOfNat, natOfBytes, Nat.mod_one]
  | succ n ih =>
    rw [bytesOfNat, natOfBytes, ih, BitVec.toNat_ofNat, show 2 ^ (8 * (n + 1)) = 256 * 2 ^ (8 * n) by
      rw [Nat.mul_succ, Nat.pow_add, Nat.mul_comm], Nat.mod_mul]

theorem bytesOfNat_eq_map (n v : Nat) :
    bytesOfNat n v = (List.range n).map fun i => BitVec.ofNat 8 (v / 2 ^ (8 * i)) := by
  induction n generalizing v with
  | zero => rfl
  | succ n ih =>
    rw [bytesOfNat, ih, List.range_succ_eq_map, List.map_cons, List.map_map]
    congr 1
    · simp
    · refine List.map_congr_left fun i _ => ?_
      rw [Function.comp, Nat.div_div_eq_div_mul, Nat.mul_succ, Nat.pow_add, Nat.mul_comm (2 ^ (8 * i))]

/-- The writes of an n-byte number, cell by cell. -/
theorem zip_cellsFrom_bytesOfNat (c n v : Nat) :
    (cellsFrom c n).zip (bytesOfNat n v) =
      (List.range n).map fun i => (c + i, BitVec.ofNat 8 (v / 2 ^ (8 * i))) := by
  rw [cellsFrom, bytesOfNat_eq_map, List.zip_map']

/-! ### Lanes of a vector register (R48) -/

theorem natOfLanes_lt (w : Nat) (xs : List Nat) : natOfLanes w xs < 2 ^ (w * xs.length) := by
  induction xs with
  | nil => simp [natOfLanes]
  | cons x xs ih =>
    have hx : x % 2 ^ w < 2 ^ w := Nat.mod_lt _ (Nat.two_pow_pos w)
    rw [natOfLanes, List.length_cons, Nat.mul_succ, Nat.pow_add, Nat.mul_comm (2 ^ (w * xs.length))]
    calc x % 2 ^ w + 2 ^ w * natOfLanes w xs
        < 2 ^ w + 2 ^ w * natOfLanes w xs := Nat.add_lt_add_right hx _
      _ = 2 ^ w * (natOfLanes w xs + 1) := by rw [Nat.mul_succ, Nat.add_comm]
      _ ≤ 2 ^ w * 2 ^ (w * xs.length) := Nat.mul_le_mul_left _ ih

/-- The lanes fit in a register that is wide enough. -/
theorem toNat_natOfLanes (w : Nat) (xs : List Nat) (n : Nat) (h : w * xs.length ≤ n) :
    (BitVec.ofNat n (natOfLanes w xs)).toNat = natOfLanes w xs :=
  Nat.mod_eq_of_lt (Nat.lt_of_lt_of_le (natOfLanes_lt w xs) (Nat.pow_le_pow_right Nat.two_pos h))

theorem natOfLanes_lane (w : Nat) (xs : List Nat) (i : Nat) (h : i < xs.length) :
    natOfLanes w xs / 2 ^ (w * i) % 2 ^ w = xs[i] % 2 ^ w := by
  induction xs generalizing i with
  | nil => cases h
  | cons x xs ih =>
    cases i with
    | zero => simp [natOfLanes]
    | succ i =>
      have hx : (x % 2 ^ w + 2 ^ w * natOfLanes w xs) / 2 ^ w = natOfLanes w xs := by
        rw [Nat.add_mul_div_left _ _ (Nat.two_pow_pos w), Nat.mod_div_self, Nat.zero_add]
      rw [natOfLanes, Nat.mul_succ, Nat.add_comm (w * i), Nat.pow_add, ← Nat.div_div_eq_div_mul, hx]
      exact ih i (Nat.lt_of_succ_lt_succ h)

theorem lane_ofLanes (w : Nat) (xs : List Nat) (i : Nat) (hw : w * xs.length ≤ 2048) (h : i < xs.length) :
    lane (ofLanes w xs) w i = xs[i] % 2 ^ w := by
  rw [lane, ofLanes, toNat_natOfLanes w xs 2048 hw, natOfLanes_lane w xs i h]

theorem VFmt.width_mul_lanes (f : VFmt) : f.width * f.lanes ≤ 2048 := Nat.mul_div_le ..

/-! ### The registers that a load writes (R374 to R378) -/

theorem rawLoad_eq_loadValue (sz : LdSize) (bs : List Byte) : rawLoad sz bs = loadValue sz (natOfBytes bs) := by
  cases sz
  case d => exact BitVec.eq_of_toNat_eq (by simp [rawLoad, loadValue, zext])
  all_goals rfl

/-- The lanes of a vector load with their elements. -/
def loadedElems (rd : Nat → Byte) (f : VFmt) (fmt : Nat) (srcs : List LaneSrc) : List (Nat × Nat × BitVec 5) :=
  srcs.map fun src => (src.lane, elemLoad rd f fmt src)

/-- What lane `i` holds after a vector load: the element loaded into it, or what it held. -/
def laneLoaded (rs : List (Nat × Nat × BitVec 5)) (old : Nat) (i : Nat) : Nat :=
  match rs.find? fun r => r.1 == i with
  | some r => r.2.1
  | none => old

/-- The vector register that a load with these sources leaves, from what it held. -/
def vectorLoaded (rd : Nat → Byte) (f : VFmt) (fmt : Nat) (srcs : List LaneSrc) (v : VWord) : VWord :=
  ofLanes f.width ((lanesOf v f.width f.lanes).zipIdx.map fun xi => laneLoaded (loadedElems rd f fmt srcs) xi.1 xi.2)

theorem loaded_lanes (th : Thread) (rd : Nat → Byte) (d : VReg) (f : VFmt) (fmt : Nat) (srcs : List LaneSrc) :
    th.loaded (.lanes d f fmt srcs) rd =
      (th.setV d (vectorLoaded rd f fmt srcs (th.getV d))).raise
        ((srcs.map fun x => (elemLoad rd f fmt x).2).foldl (· ||| ·) 0) := by
  rw [Thread.loaded, List.foldl_map, List.foldl_map]
  rfl

theorem lane_vectorLoaded (rd : Nat → Byte) (f : VFmt) (fmt : Nat) (srcs : List LaneSrc) (v : VWord) (i : Nat)
    (hi : i < f.lanes) :
    lane (vectorLoaded rd f fmt srcs v) f.width i =
      laneLoaded (loadedElems rd f fmt srcs) (lane v f.width i) i % 2 ^ f.width := by
  rw [vectorLoaded, lane_ofLanes _ _ _ (by simpa [lanesOf] using VFmt.width_mul_lanes f) (by simpa [lanesOf] using hi)]
  simp [lanesOf]

theorem find?_loadedElems (rd : Nat → Byte) (f : VFmt) (fmt : Nat) (srcs : List LaneSrc) (i : Nat) :
    (loadedElems rd f fmt srcs).find? (fun r => r.1 == i) =
      (srcs.find? fun x => x.lane == i).map fun x => (x.lane, elemLoad rd f fmt x) := by
  rw [loadedElems, List.find?_map]
  rfl

/-- With one source for each lane, a source is what is found for its lane. -/
theorem find?_lane_of_mem (srcs : List LaneSrc) (hn : (srcs.map (·.lane)).Nodup) (x : LaneSrc) (hx : x ∈ srcs) :
    srcs.find? (fun y => y.lane == x.lane) = some x := by
  induction srcs with
  | nil => cases hx
  | cons y ys ih =>
    obtain ⟨hy, hys⟩ := List.nodup_cons.mp hn
    rcases List.mem_cons.mp hx with rfl | hx'
    · exact List.find?_cons_of_pos (beq_self_eq_true x.lane)
    · have hne : y.lane ≠ x.lane := fun e => hy (List.mem_map.mpr ⟨x, hx', e.symm⟩)
      rw [List.find?_cons_of_neg (by rw [beq_iff_eq]; exact hne)]
      exact ih hys hx'

theorem lane_loaded (rd : Nat → Byte) (f : VFmt) (fmt : Nat) (srcs : List LaneSrc) (v : VWord)
    (hn : (srcs.map (·.lane)).Nodup) (x : LaneSrc) (hx : x ∈ srcs) (hl : x.lane < f.lanes) :
    lane (vectorLoaded rd f fmt srcs v) f.width x.lane = (elemLoad rd f fmt x).1 % 2 ^ f.width := by
  rw [lane_vectorLoaded _ _ _ _ _ _ hl, laneLoaded, find?_loadedElems, find?_lane_of_mem srcs hn x hx]
  rfl

theorem lane_not_loaded (rd : Nat → Byte) (f : VFmt) (fmt : Nat) (srcs : List LaneSrc) (v : VWord) (i : Nat)
    (hi : i < f.lanes) (hs : ∀ x ∈ srcs, x.lane ≠ i) :
    lane (vectorLoaded rd f fmt srcs v) f.width i = lane v f.width i := by
  have hf : srcs.find? (fun x => x.lane == i) = none := List.find?_eq_none.mpr fun x hx => by simpa using hs x hx
  rw [lane_vectorLoaded _ _ _ _ _ _ hi, laneLoaded, find?_loadedElems, hf]
  exact Nat.mod_mod ..

/-- Settles O8: the scalar forms by the sizes of LD and the kinds of register format, the vector forms lane by lane. -/
theorem loadedValues : Obligations.LoadedValues := by
  refine ⟨fun th rd d sz cs => ?_, fun th rd d f fmt src => ?_, fun th rd d f fmt srcs hn hl => ?_⟩
  · rw [Thread.loaded, rawLoad_eq_loadValue]
  · have hg : ∀ w, (th.setG d w).fstat = th.fstat := fun w => by unfold Thread.setG; split <;> rfl
    simp only [Thread.loaded, Thread.raise, hg, elemWord, zext, sext]
  · exact ⟨_, _, loaded_lanes th rd d f fmt srcs,
      fun x hx => lane_loaded rd f fmt srcs _ hn x hx (hl x hx),
      fun i hi hs => lane_not_loaded rd f fmt srcs _ i hi hs, rfl⟩

end Sys2Proof.Machine
end

/-! SUPPORT. What a write of bytes leaves of the state: its bytes, poison and line tags, the monitors that it hits and
the wakes that follow, and every register as it was (R156, R266, R267, R315). -/

section
namespace Sys2Proof.Machine

open Sys2Proof.Claim

/-! ### Folds that overwrite -/

/-- A fold that overwrites with one value leaves it where any element overwrites. -/
theorem foldl_overwrite {α β : Type} (p : α → Bool) (v : β) (l : List α) (b : β) :
    l.foldl (fun old x => if p x then v else old) b = if l.any p then v else b := by
  induction l generalizing b with
  | nil => rfl
  | cons x l ih =>
    rw [List.foldl_cons, ih, List.any_cons]
    cases p x <;> simp

/-- Writes to the cells from `c` on: within them each cell holds its own value. -/
theorem foldl_range_write {β : Type} (c n a : Nat) (f : Nat → β) (b : β) :
    (List.range n).foldl (fun old i => if a = c + i then f i else old) b =
      if c ≤ a ∧ a < c + n then f (a - c) else b := by
  induction n with
  | zero => rw [if_neg (by omega)]; rfl
  | succ n ih =>
    rw [List.range_succ, List.foldl_append, ih]
    simp only [List.foldl_cons, List.foldl_nil]
    by_cases h : a = c + n
    · rw [if_pos h, if_pos (by omega), h, Nat.add_sub_cancel_left]
    · rw [if_neg h]
      exact ite_congr (propext (by omega)) (fun _ => rfl) fun _ => rfl

/-- The first of several writes is what the others overwrite. -/
theorem written_cons (old : Nat → Byte) (w : Nat × Byte) (ws : List (Nat × Byte)) (c : Nat) :
    written old (w :: ws) c = written (fun a => if a = w.1 then w.2 else old a) ws c := by
  unfold written
  rw [List.reverse_cons, List.find?_append, List.find?_singleton]
  cases ws.reverse.find? (fun x => x.1 == c) with
  | some x => rfl
  | none =>
    by_cases h : c = w.1
    · rw [if_pos (beq_iff_eq.mpr h.symm)]; exact (if_pos h).symm
    · rw [if_neg (fun e => h (beq_iff_eq.mp e).symm)]; exact (if_neg h).symm

/-- The last write of a cell is the one that a fold leaves. -/
theorem written_eq_foldl (old : Nat → Byte) (ws : List (Nat × Byte)) (c : Nat) :
    written old ws c = ws.foldl (fun b w => if c = w.1 then w.2 else b) (old c) := by
  induction ws generalizing old with
  | nil => rfl
  | cons w ws ih => rw [written_cons, ih, List.foldl_cons]

/-- The bytes after a store, in the words of the claims. -/
theorem storeCells_byte_written (s : State) (tag : Tag) (bs : List (Nat × Byte)) :
    (s.storeCells tag bs).byte = written s.byte bs :=
  funext fun c => (storeCells_byte s tag bs c).trans (written_eq_foldl s.byte bs c).symm

/-! ### One byte -/

theorem touch_of_exists (s : State) (c : Nat) (h : c < hbmSize ∨ 2 ^ 63 ≤ c) : s.touch c = s := by
  unfold State.touch isHbmCell
  exact if_pos (by simpa using h)

/-- What the write of one byte changes. -/
theorem store1_rest (s : State) (tag : Tag) (c : Nat) (b : Byte) :
    s.store1 tag c b = { s with
      stray := (s.touch c).stray, mem := (s.store1 tag c b).mem, pois := (s.store1 tag c b).pois
      poisTag := (s.store1 tag c b).poisTag, lineTag := (s.store1 tag c b).lineTag } := by
  unfold State.store1 State.setByte State.touch
  split <;> split <;> rfl

theorem store1_pois (s : State) (tag : Tag) (c : Nat) (b : Byte) :
    (s.store1 tag c b).pois = SMap.set false s.pois (c / 8) false := by
  unfold State.store1 State.setByte State.touch
  split <;> split <;> rfl

theorem store1_lineTag (s : State) (tag : Tag) (c : Nat) (b : Byte) :
    (s.store1 tag c b).lineTag = if isBankCell c then SMap.set 0 s.lineTag (c / 256) tag.toNat else s.lineTag := by
  unfold State.store1 State.setByte State.touch
  split <;> split <;> rfl

/-! ### What a store leaves -/

/-- A thread with other monitors. -/
def Thread.withMons (th : Thread) (ms : List Monitor) : Thread := { th with mons := ms }

/-- What writes of bytes leave of the state: whose turn it is, the configuration, each partition's mode, each tile's task, and
of each thread everything but its monitors. -/
structure StoreFrame (s t : State) : Prop where
  cur    : t.cur = s.cur
  floor  : t.floor = s.floor
  mode   : ∀ n, (t.part n).mode = (s.part n).mode
  task   : ∀ n, (t.tile n).task = (s.tile n).task
  thread : ∀ y, t.thread y = (s.thread y).withMons (t.thread y).mons

theorem StoreFrame.refl (s : State) : StoreFrame s s := ⟨rfl, rfl, fun _ => rfl, fun _ => rfl, fun _ => rfl⟩

theorem StoreFrame.trans {s t u : State} (h : StoreFrame s t) (k : StoreFrame t u) : StoreFrame s u where
  cur := k.cur.trans h.cur
  floor := k.floor.trans h.floor
  mode n := (k.mode n).trans (h.mode n)
  task n := (k.task n).trans (h.task n)
  thread y := (k.thread y).trans (congrArg (·.withMons (u.thread y).mons) (h.thread y))

/-- A state that differs in nothing the frame speaks of. -/
theorem StoreFrame.of_eq {s t : State} (hc : t.cur = s.cur) (hf : t.floor = s.floor) (hp : t.parts = s.parts)
    (ht : t.tiles = s.tiles) : StoreFrame s t where
  cur := hc
  floor := hf
  mode n := by rw [State.part, hp]; rfl
  task n := by rw [State.tile, ht]; rfl
  thread y := by rw [show t.thread y = s.thread y by rw [State.thread, State.tile, ht]; rfl]; rfl

theorem StoreFrame.modPart (s : State) (n : Nat) (f : Partition → Partition) (h : ∀ p, (f p).mode = p.mode) :
    StoreFrame s (s.modPart n f) where
  cur := rfl
  floor := rfl
  mode m := by
    rw [State.part_modPart]
    split
    · next e => rw [h]; unfold State.part; simp only [e]
    · rfl
  task _ := rfl
  thread _ := rfl

/-- A wake changes who woke whom, the wakes that a partition keeps, and the agenda. -/
theorem wake_rest (s : State) (x : ThreadId) :
    s.wake x = { s with
      wakers := (s.wake x).wakers, parts := (s.wake x).parts, agenda := (s.wake x).agenda, nextId := (s.wake x).nextId } := by
  simp only [State.wake, State.postOnce, State.post, State.postAt]
  split
  · rfl
  · split
    · rfl
    · split <;> rfl

theorem postOnce_frame (s : State) (e : Instr) : StoreFrame s (s.postOnce e) := by
  unfold State.postOnce
  split
  · exact .refl s
  · exact .of_eq rfl rfl rfl rfl

theorem wake_frame (s : State) (x : ThreadId) : StoreFrame s (s.wake x) := by
  have hw : ∀ w, StoreFrame s { s with wakers := w } := fun w => .of_eq rfl rfl rfl rfl
  unfold State.wake
  extract_lets n p late s'
  split
  · exact (hw _).trans (.modPart _ _ _ fun _ => rfl)
  · split
    · exact (hw _).trans (.modPart _ _ _ fun _ => rfl)
    · exact (hw _).trans (postOnce_frame _ _)

theorem StoreFrame.setMons (s : State) (x : ThreadId) (ms : List Monitor) :
    StoreFrame s (s.setThread x ((s.thread x).withMons ms)) where
  cur := rfl
  floor := rfl
  mode _ := rfl
  task n := by
    rw [State.tile_setThread]
    split
    · next e => rw [e]; rfl
    · rfl
  thread y := by
    rw [State.thread_setThread]
    split
    · next e => rw [e]; rfl
    · rfl

/-- What a hit on monitors changes: their threads, and what wakes change. -/
theorem hitMonitors_rest (s : State) (ls : List Nat) :
    s.hitMonitors ls = { s with
      tiles := (s.hitMonitors ls).tiles, wakers := (s.hitMonitors ls).wakers, parts := (s.hitMonitors ls).parts
      agenda := (s.hitMonitors ls).agenda, nextId := (s.hitMonitors ls).nextId } := by
  refine foldl_keeps (fun t => t = { s with
    tiles := t.tiles, wakers := t.wakers, parts := t.parts, agenda := t.agenda, nextId := t.nextId }) _ _ s rfl
    fun t x _ ht => ?_
  dsimp only
  split
  · split
    · rw [wake_rest, ht]; rfl
    · rw [ht]; rfl
  · exact ht

theorem hitMonitors_frame (s : State) (ls : List Nat) : StoreFrame s (s.hitMonitors ls) := by
  refine foldl_keeps (StoreFrame s) _ _ s (.refl s) fun t x _ ht => ?_
  dsimp only
  split
  · split
    · exact (ht.trans (.setMons t x _)).trans (wake_frame _ x)
    · exact ht.trans (.setMons t x _)
  · exact ht

@[simp] theorem hitMonitors_pois (s : State) (ls : List Nat) : (s.hitMonitors ls).pois = s.pois := by
  rw [hitMonitors_rest]
@[simp] theorem hitMonitors_lineTag (s : State) (ls : List Nat) : (s.hitMonitors ls).lineTag = s.lineTag := by
  rw [hitMonitors_rest]
@[simp] theorem hitMonitors_stray (s : State) (ls : List Nat) : (s.hitMonitors ls).stray = s.stray := by
  rw [hitMonitors_rest]

theorem storeCells_frame (s : State) (tag : Tag) (bs : List (Nat × Byte)) : StoreFrame s (s.storeCells tag bs) :=
  (foldl_keeps (StoreFrame s) _ bs s (.refl s) fun t (cb : Nat × Byte) _ ht =>
    ht.trans (store1_rest t tag cb.1 cb.2 ▸ .of_eq rfl rfl rfl rfl)).trans (hitMonitors_frame _ _)

/-- A store to storage that exists meets no other. -/
theorem storeCells_stray (s : State) (tag : Tag) (bs : List (Nat × Byte)) (h : Here (bs.map (·.1))) :
    (s.storeCells tag bs).stray = s.stray := by
  unfold State.storeCells
  rw [hitMonitors_stray]
  refine foldl_keeps (fun t : State => t.stray = s.stray) _ bs s rfl fun t cb hcb ht => ?_
  rw [store1_rest]
  exact (congrArg State.stray (touch_of_exists t cb.1 (h cb.1 (List.mem_map_of_mem hcb)).1)).trans ht

/-- The words written to hold no error any more, every other one is as it was (R267). -/
theorem storeCells_pois (s : State) (tag : Tag) (bs : List (Nat × Byte)) (w : Nat) :
    SMap.get false (s.storeCells tag bs).pois w =
      if bs.any (fun cb => w == cb.1 / 8) then false else SMap.get false s.pois w := by
  rw [State.storeCells, hitMonitors_pois, ← foldl_overwrite]
  induction bs generalizing s with
  | nil => rfl
  | cons cb bs ih =>
    rw [List.foldl_cons, List.foldl_cons, ih, store1_pois, SMap.get_set]
    simp only [beq_iff_eq]

/-- The lines of a bank that are written to take the writer's tag (R266). -/
theorem storeCells_lineTag (s : State) (tag : Tag) (bs : List (Nat × Byte)) (l : Nat) :
    SMap.get 0 (s.storeCells tag bs).lineTag l =
      if bs.any (fun cb => isBankCell cb.1 && l == cb.1 / 256) then tag.toNat else SMap.get 0 s.lineTag l := by
  rw [State.storeCells, hitMonitors_lineTag, ← foldl_overwrite]
  induction bs generalizing s with
  | nil => rfl
  | cons cb bs ih =>
    rw [List.foldl_cons, List.foldl_cons, ih, store1_lineTag]
    cases hb : isBankCell cb.1
    · rfl
    · simp [SMap.get_set]

/-! ### An n-byte number -/

theorem writeN_byte (s : State) (tag : Tag) (c n v a : Nat) :
    (s.writeN tag c n v).byte a =
      if c ≤ a ∧ a < c + n then BitVec.ofNat 8 (v / 2 ^ (8 * (a - c))) else s.byte a := by
  rw [State.writeN, storeCells_byte, zip_cellsFrom_bytesOfNat, List.foldl_map]
  exact foldl_range_write c n a (fun i => BitVec.ofNat 8 (v / 2 ^ (8 * i))) _

theorem writeN_byte_within (s : State) (tag : Tag) (c n v i : Nat) (h : i < n) :
    (s.writeN tag c n v).byte (c + i) = BitVec.ofNat 8 (v / 2 ^ (8 * i)) := by
  rw [writeN_byte, if_pos (by omega), Nat.add_sub_cancel_left]

theorem readN_writeN (s : State) (tag : Tag) (c n v : Nat) : (s.writeN tag c n v).readN c n = v % 2 ^ (8 * n) := by
  rw [← natOfBytes_bytesOfNat, bytesOfNat_eq_map, State.readN]
  exact congrArg natOfBytes (List.map_congr_left fun i hi => writeN_byte_within s tag c n v i (List.mem_range.mp hi))

/-- Some cell of a range has a property of its number. -/
theorem any_zip_cellsFrom (c n v : Nat) (p : Nat → Bool) :
    ((cellsFrom c n).zip (bytesOfNat n v)).any (fun cb => p cb.1) = true ↔ ∃ i, i < n ∧ p (c + i) = true := by
  rw [zip_cellsFrom_bytesOfNat]
  simp

theorem writeN_pois (s : State) (tag : Tag) (c n v w : Nat) :
    SMap.get false (s.writeN tag c n v).pois w =
      if c / 8 ≤ w ∧ w ≤ (c + n - 1) / 8 ∧ 0 < n then false else SMap.get false s.pois w := by
  rw [State.writeN, storeCells_pois]
  refine ite_congr (propext ((any_zip_cellsFrom c n v fun a => w == a / 8).trans ?_)) (fun _ => rfl) fun _ => rfl
  constructor
  · rintro ⟨i, hi, hw⟩
    have := beq_iff_eq.mp hw
    omega
  · intro h
    exact ⟨8 * w - c, by omega, beq_iff_eq.mpr (by omega)⟩

theorem writeN_lineTag (s : State) (tag : Tag) (c n v i : Nat) (hi : i < n) (hc : 2 ^ 63 ≤ c) (hn : c + n ≤ 2 ^ 64) :
    SMap.get 0 (s.writeN tag c n v).lineTag ((c + i) / 256) = tag.toNat := by
  have hb : isBankCell (c + i) = true := by
    simp only [isBankCell, Bool.and_eq_true, decide_eq_true_eq]
    omega
  rw [State.writeN, storeCells_lineTag, if_pos]
  exact (any_zip_cellsFrom c n v fun a => isBankCell a && (c + i) / 256 == a / 256).mpr ⟨i, hi, by simp [hb]⟩

/-- Settles O13, from what a store leaves of bytes, poison and line tags. -/
theorem storeThenLoad : Obligations.StoreThenLoad := by
  intro s tag c n v
  refine ⟨readN_writeN s tag c n v, fun a ha => ?_, fun i => writeN_byte_within s tag c n v i,
    writeN_pois s tag c n v, fun i => writeN_lineTag s tag c n v i⟩
  rw [writeN_byte, if_neg (by omega)]

end Sys2Proof.Machine
end

/-! SUPPORT. How a store that is performed as it issues meets the words of the claims (R163, R405 to R410). -/

section
namespace Sys2Proof.Machine

open Sys2Proof.Claim

/-! ### What stores leave of what they consult -/

theorem StoreFrame.me {s t : State} (h : StoreFrame s t) : t.me = s.me.withMons t.me.mons := by
  rw [State.me, h.cur, h.thread]
  rfl

theorem StoreFrame.myTag {s t : State} (h : StoreFrame s t) : t.myTag = s.myTag := by
  rw [State.myTag, State.tagOf, h.cur, h.task]
  rfl

/-- The partition of a tile is a matter of the configuration (R19). -/
theorem partOfTile_of_floor {s t : State} (h : t.floor = s.floor) (n : Nat) : t.partOfTile n = s.partOfTile n := by
  have hl : ∀ p, t.layers p = s.layers p := fun p => by unfold State.layers State.pdesc; rw [h]
  simp only [State.partOfTile, State.partOfLayer, hl]

theorem StoreFrame.det {s t : State} (h : StoreFrame s t) : t.det = s.det := by
  rw [State.det, State.myPart, h.cur, partOfTile_of_floor h.floor, h.mode]
  rfl

theorem sameRegs_withMons (th : Thread) (ms : List Monitor) : SameRegs (th.withMons ms) th :=
  ⟨rfl, rfl, rfl, rfl, rfl, rfl, rfl, rfl, rfl, rfl, rfl⟩

theorem sameRegs_raise_retireTo (th : Thread) (ms : List Monitor) (fl : BitVec 5) (pc : Pc) (k : Bool) :
    SameRegs (((th.withMons ms).raise fl).retireTo pc k) (th.raise fl) :=
  ⟨rfl, rfl, rfl, rfl, rfl, rfl, rfl, rfl, rfl, rfl, rfl⟩

/-! ### The completion -/

/-- Bytes have been written for the executing thread; with its flags raised and its instruction retired, the store has
completed. -/
theorem stored_of_frame {s u : State} (h : StoreFrame s u) (fl : BitVec 5) (bytes : Nat → Byte)
    (hb : ∀ c, u.byte c = bytes c) : Stored s (u.modMe (·.raise fl)).retire (s.me.raise fl) bytes := by
  have hpc : (u.modMe (·.raise fl)).me.pc = s.me.pc := by rw [State.me_modMe, h.me]; rfl
  have hr : (u.modMe (·.raise fl)).retire = (u.modMe (·.raise fl)).retireTo u.cur (next4 s) := by
    rw [State.retire, State.retireLen, hpc]; rfl
  have hme : ((u.modMe (·.raise fl)).retireTo u.cur (next4 s)).me =
      ((s.me.withMons u.me.mons).raise fl).retireTo (next4 s) ((u.modMe (·.raise fl)).counts? u.cur) := by
    rw [← h.me, ← State.me_modMe u (·.raise fl)]
    exact State.thread_retireTo_self ..
  rw [hr]
  refine ⟨?_, ?_, ?_, ?_, fun y hy => ?_, hb⟩
  · rw [hme]; exact sameRegs_raise_retireTo ..
  · rw [hme]; rfl
  · rw [hme]; rfl
  · rw [hme]; rfl
  · have hy' : y ≠ u.cur := h.cur ▸ hy
    have hth : ((u.modMe (·.raise fl)).retireTo u.cur (next4 s)).thread y =
        (s.thread y).withMons (u.thread y).mons := by
      rw [State.thread_retireTo, if_neg hy', State.modMe, State.thread_modThread, if_neg hy', ← h.thread y]
    rw [hth]
    exact ⟨sameRegs_withMons .., rfl⟩

/-! ### Cells of this device -/

theorem not_remote_of_here {cs : List Nat} (h : Here cs) (c : Nat) (hc : c ∈ cs) : isRemoteCell c = false := by
  have := (h c hc).2
  simp only [isRemoteCell, decide_eq_false_iff_not]
  omega

theorem here_zip {cs : List Nat} (h : Here cs) (bs : List Byte) : Here ((cs.zip bs).map (·.1)) := fun c hc => by
  obtain ⟨⟨c', b⟩, hm, rfl⟩ := List.mem_map.mp hc
  exact h c' (List.of_mem_zip hm).1

theorem elemBytes_cells (fmt : Nat) (src : LaneSrc) (code : Nat) : (elemBytes fmt src code).map (·.1) = src.cells := by
  unfold elemBytes
  split
  · rw [List.map_map]
    exact List.map_id' _
  · exact List.map_fst_zip (by simp [bytesOfNat_eq_map])

theorem storeBytes_cells (s : State) (cells : List (Nat × Byte)) (nib : Option Bool) :
    (s.storeBytes cells nib).map (·.1) = cells.map (·.1) := by
  cases nib with
  | none => rfl
  | some hi => simp [State.storeBytes]

theorem storeBytes_of_byte {s t : State} (h : t.byte = s.byte) : t.storeBytes = s.storeBytes := by
  unfold State.storeBytes
  rw [h]

theorem laneBytes_here (s : State) (p : Word) (rd : Nat → Byte) (f : VFmt) (v : VWord) {cs : List Nat}
    (srcs : List LaneSrc) (h : Here cs) : Here ((s.laneBytes p rd f v cs srcs).1.map (·.1)) := here_zip h _

/-! ### One store performed as it issues -/

theorem ends_of_clean {s : State} (h : s.stray = none) : ends s = .next s := by
  unfold ends
  rw [h]

/-- A store to storage of this device, near or in deterministic mode, outside the paths that mark pages dirty. -/
theorem doStore_now (s : State) (path : Nat) (ep : Word) (insn : InsnWord) (near : Bool) (cells : List (Nat × Byte))
    (nib : Option Bool) (fl : BitVec 5) (hn : near || s.det) (h0 : path ≠ 0) (h5 : path ≠ 5)
    (hh : Here (cells.map (·.1))) :
    s.doStore path ep insn near cells nib fl = s.storeCells s.myTag (s.storeBytes cells nib) := by
  have hr : cells.find? (fun c => isRemoteCell c.1) = none := List.find?_eq_none.mpr fun c hc => by
    simp [not_remote_of_here hh c.1 (List.mem_map_of_mem hc)]
  simp only [State.doStore, h0, h5, hr, decide_false, Bool.or_self, Bool.false_eq_true, if_false, Option.map_none,
    Option.isNone_none, Bool.true_and, if_pos hn]

/-- With no cell in a remote window the store raises its flags and retires. -/
theorem storeDone_here (s : State) (cells : List (Nat × Byte)) (fl : BitVec 5) (h : Here (cells.map (·.1))) :
    s.storeDone cells fl = (s.modMe (·.raise fl)).retire := by
  have hr : cells.any (fun c => isRemoteCell c.1) = false := List.any_eq_false.mpr fun c hc => by
    simp [not_remote_of_here h c.1 (List.mem_map_of_mem hc)]
  rw [State.storeDone, hr, Bool.and_false]
  rfl

theorem storeInsn_now (s : State) (path : Nat) (ep : Word) (insn : InsnWord) (near : Bool) (cells : List (Nat × Byte))
    (nib : Option Bool) (fl : BitVec 5) (hn : near || s.det) (h0 : path ≠ 0) (h5 : path ≠ 5)
    (hh : Here (cells.map (·.1))) (hstop : s.storeStops ep true cells nib = none)
    (hw : s.storeWaits path ep cells = false) :
    s.storeInsn path ep insn near cells nib fl =
      ((s.storeCells s.myTag (s.storeBytes cells nib)).modMe (·.raise fl)).retire := by
  rw [State.storeInsn, show (near || s.det) = true from hn, hstop]
  simp only [hw, Bool.false_eq_true, if_false]
  rw [doStore_now s path ep insn near cells nib fl hn h0 h5 hh, storeDone_here _ _ _ hh]

/-! ### The state after the scale bytes are read -/

/-- `t` is `s` but for the count of free values that reads from other devices have taken (assumption 6). -/
def OnlyFrees (s t : State) : Prop := t = { s with frees := t.frees }

theorem readNow_ok {s s' : State} {path : Nat} {va : Nat → Nat} {cells : List Nat} {bs : List Byte}
    (h : s.readNow path va cells = .ok (bs, s')) : OnlyFrees s s' := by
  unfold State.readNow at h
  split at h
  · cases h
  · split at h
    · cases h
    · split at h
      · cases h; rfl
      · split at h
        · cases h
        · cases h; rfl

theorem readScales_ok {s s' : State} {path : Nat} {srcs : List LaneSrc} {rd : Nat → Byte}
    (h : s.readScales path srcs = .ok (rd, s')) : OnlyFrees s s' := by
  unfold State.readScales at h
  extract_lets cs va at h
  split at h
  · cases h
  · next hr => cases h; exact readNow_ok hr

theorem OnlyFrees.frame {s t : State} (h : OnlyFrees s t) : StoreFrame s t := by
  rw [h]
  exact .of_eq rfl rfl rfl rfl

theorem OnlyFrees.byte {s t : State} (h : OnlyFrees s t) : t.byte = s.byte := by
  rw [h]
  rfl

theorem OnlyFrees.stray {s t : State} (h : OnlyFrees s t) : t.stray = s.stray := by
  rw [h]

theorem OnlyFrees.me {s t : State} (h : OnlyFrees s t) : t.me = s.me := by
  rw [h]
  rfl

theorem OnlyFrees.laneBytes {s t : State} (h : OnlyFrees s t) : t.laneBytes = s.laneBytes := by
  unfold State.laneBytes
  rw [h.me]

theorem OnlyFrees.scatter {s t : State} (h : OnlyFrees s t) : t.scatter = s.scatter := by
  unfold State.scatter
  rw [h.me]

/-- A store that passes its checks, after its scale bytes are read, completes. -/
theorem storeInsn_stored {s σ : State} (hσ : OnlyFrees s σ) (path : Nat) (ep : Word) (insn : InsnWord) (near : Bool)
    (cells : List (Nat × Byte)) (nib : Option Bool) (fl : BitVec 5) (hn : near || s.det) (h0 : path ≠ 0)
    (h5 : path ≠ 5) (hh : Here (cells.map (·.1))) (hstop : σ.storeStops ep true cells nib = none)
    (hw : σ.storeWaits path ep cells = false) (hc : Clean s) :
    ∃ t, ends (σ.storeInsn path ep insn near cells nib fl) = .next t ∧
      Stored s t (s.me.raise fl) (written s.byte (s.storeBytes cells nib)) := by
  have hn' : near || σ.det := hσ.frame.det ▸ hn
  rw [storeInsn_now σ path ep insn near cells nib fl hn' h0 h5 hh hstop hw]
  have hst : (σ.storeCells σ.myTag (σ.storeBytes cells nib)).stray = none :=
    (storeCells_stray _ _ _ (storeBytes_cells σ cells nib ▸ hh)).trans (hσ.stray.trans hc)
  refine ⟨_, ends_of_clean hst, stored_of_frame (hσ.frame.trans (storeCells_frame ..)) fl _ fun c => ?_⟩
  rw [storeCells_byte_written, hσ.byte, storeBytes_of_byte hσ.byte]

/-! ### The stores of a scatter (R410) -/

/-- What one store of a scatter leaves: as it issues, and as the claims have it. -/
theorem scatter_step {s x y : State} (hx : StoreFrame s x) (hb : x.byte = y.byte) (path : Nat) (insn : InsnWord)
    (near : Bool) (fl : BitVec 5) (o : Word × List (Nat × Byte) × Option Bool × BitVec 5) (hn : near || s.det)
    (h0 : path ≠ 0) (h5 : path ≠ 5) (hh : Here (o.2.1.map (·.1))) :
    StoreFrame s (x.doStore path o.1 insn near o.2.1 o.2.2.1 fl) ∧
      (x.doStore path o.1 insn near o.2.1 o.2.2.1 fl).stray = x.stray ∧
      (x.doStore path o.1 insn near o.2.1 o.2.2.1 fl).byte =
        (y.storeCells s.myTag (y.storeBytes o.2.1 o.2.2.1)).byte := by
  rw [doStore_now x path o.1 insn near o.2.1 o.2.2.1 fl (hx.det.symm ▸ hn) h0 h5 hh, hx.myTag]
  refine ⟨hx.trans (storeCells_frame ..), storeCells_stray _ _ _ (storeBytes_cells x o.2.1 o.2.2.1 ▸ hh), ?_⟩
  rw [storeCells_byte_written, storeCells_byte_written, storeBytes_of_byte hb, hb]

theorem scatter_stores {s σ : State} (hσ : OnlyFrees s σ) (path : Nat) (insn : InsnWord) (near : Bool) (fl : BitVec 5)
    (ops : List (Word × List (Nat × Byte) × Option Bool × BitVec 5)) (hn : near || s.det) (h0 : path ≠ 0)
    (h5 : path ≠ 5) (hh : ∀ o ∈ ops, Here (o.2.1.map (·.1))) :
    let u := ops.foldl (fun x o => x.doStore path o.1 insn near o.2.1 o.2.2.1 fl) σ
    StoreFrame s u ∧ u.stray = s.stray ∧
      u.byte = (ops.foldl (fun x o => x.storeCells s.myTag (x.storeBytes o.2.1 o.2.2.1)) s).byte := by
  refine List.foldl_rel (r := fun x (y : State) => StoreFrame s x ∧ x.stray = s.stray ∧ x.byte = y.byte)
    ⟨hσ.frame, hσ.stray, hσ.byte⟩ fun o ho x y ⟨hf, hs, hb⟩ => ?_
  obtain ⟨hf', hs', hb'⟩ := scatter_step hf hb path insn near fl o hn h0 h5 (hh o ho)
  exact ⟨hf', hs'.trans hs, hb'⟩

theorem scatter_here (s : State) (p : Word) (rd : Nat → Byte) (f : VFmt) (v idx : VWord)
    {ls : List (Nat × List Nat × LaneSrc)} (h : Here (ls.flatMap (·.2.2.cells))) :
    ∀ o ∈ s.scatter p rd f v idx ls, Here (o.2.1.map (·.1)) := fun o ho => by
  obtain ⟨l, hl, rfl⟩ := List.mem_map.mp ho
  intro c hc
  exact h c (List.mem_flatMap.mpr ⟨l, hl, elemBytes_cells .. ▸ hc⟩)

theorem here_flatMap {α : Type} {l : List α} {f : α → List (Nat × Byte)} (h : ∀ x ∈ l, Here ((f x).map (·.1))) :
    Here ((l.flatMap f).map (·.1)) := fun c hc => by
  obtain ⟨w, hw, rfl⟩ := List.mem_map.mp hc
  obtain ⟨x, hx, hwx⟩ := List.mem_flatMap.mp hw
  exact h x hx w.1 (List.mem_map_of_mem hwx)

/-- Only stores on paths 0 and 5 mark pages dirty (R142). -/
theorem dirtyVas_eq_nil {path : Nat} (h0 : path ≠ 0) (h5 : path ≠ 5) (ep : Word) (n : Nat) : dirtyVas path ep n = [] := by
  simp [dirtyVas, h0, h5]

/-! ### The instructions -/

theorem ptrAddr_eq_addr (p : Word) : ptrAddr p = addr p := by
  rw [ptrAddr, bits, Nat.pow_zero, Nat.div_one]
  rfl

/-- The bits of an element in a general register. -/
theorem bits_width (v : Word) (f : VFmt) : bits v (f.width - 1) 0 = v.toNat % 2 ^ f.width := by
  rw [bits, Nat.pow_zero, Nat.div_one]
  cases f <;> rfl

theorem Thread.raise_zero (th : Thread) : th.raise 0 = th := by
  rw [Thread.raise, show th.fstat ||| 0 = th.fstat from BitVec.or_zero]

/-- Settles O11: each instruction is one store, or a scatter's in turn, performed as it issues. -/
theorem storesComplete : Obligations.StoresComplete := by
  refine ⟨?st, ?ste, ?stv, ?stvx⟩
  case st =>
    intro s r a sz off near cs p n ea ws hacc hn h0 h5 hh hstop hw hc
    have h := storeInsn_stored (s := s) (σ := s) rfl _ _ (BitVec.ofNat 32 (encodeWord (.st r a sz off))) near _ none 0
      hn h0 h5 (here_zip hh _) hstop hw hc
    rw [Thread.raise_zero] at h
    show ∃ t, execSt r a sz off s = .next t ∧ _
    simp only [execSt, offAddr, ptrAddr_eq_addr]
    rw [hacc]
    exact h
  case ste =>
    intro s r a f off near cs src more rd s' p ep c nib ws hel hn hrd h0 h5 hh hstop hw hc
    have hσ := readScales_ok hrd
    have h := storeInsn_stored hσ _ _ (BitVec.ofNat 32 (encodeWord (.ste r a f off))) near ws nib c.2
      hn h0 h5 (elemBytes_cells .. ▸ hh) hstop hw hc
    show ∃ t, execSte r a f off s = .next t ∧ _
    simp only [execSte, ptrAddr_eq_addr, bits_width]
    rw [hel]
    simp only [hrd, State.g, hσ.me]
    exact h
  case stv =>
    intro s r a f off near cs srcs rd s' p ep b hel hn hrd h0 h5 hh hstop hw hc
    have hσ := readScales_ok hrd
    have h := storeInsn_stored hσ _ _ (BitVec.ofNat 32 (encodeWord (.stv r a f off))) near b.1 none b.2
      hn h0 h5 (laneBytes_here s p rd f (s.me.getV r) srcs hh) hstop hw hc
    show ∃ t, execStv r a f off s = .next t ∧ _
    simp only [execStv, ptrAddr_eq_addr]
    rw [hel]
    simp only [hrd, hσ.me, hσ.laneBytes]
    exact h
  case stvx =>
    intro s r a f b k near ls rd s' p ops hix hn hrd h0 h5 hh hw hc
    have hσ := readScales_ok hrd
    have hops : ∀ o ∈ ops, Here (o.2.1.map (·.1)) := scatter_here s p rd f _ _ hh
    obtain ⟨hf, hst, hb⟩ := scatter_stores hσ (ptrPath p) (BitVec.ofNat 32 (encodeWord (.stvx r a f b k))) near
      ((ops.map (·.2.2.2)).foldl (· ||| ·) 0) ops hn h0 h5 hops
    have hwait : (ops.any fun o => s'.storeWaits (ptrPath p) o.1 o.2.1) = false :=
      List.any_eq_false.mpr fun o ho => by simp [hw o ho]
    have hdirty : (ops.flatMap fun o => dirtyVas (ptrPath p) o.1 o.2.1.length) = [] :=
      List.flatMap_eq_nil_iff.mpr fun o _ => dirtyVas_eq_nil h0 h5 _ _
    have hflags : ops.foldl (fun x o => x ||| o.2.2.2) 0 = (ops.map (·.2.2.2)).foldl (· ||| ·) 0 := List.foldl_map.symm
    show ∃ t, execStvx r a f b k s = .next t ∧ _
    simp only [execStvx]
    rw [hix]
    simp only [hrd, hσ.me, hσ.scatter]
    rw [if_neg (by rw [hwait, hdirty]; exact Bool.false_ne_true), hflags, storeDone_here _ _ _ (here_flatMap hops)]
    exact ⟨_, ends_of_clean (hst.trans hc), stored_of_frame hf _ _ (congrFun hb)⟩

end Sys2Proof.Machine
end

/-! SUPPORT. What the quanta of a partition change: the counts of its threads, its number and step, the agenda, and on a
pause the log (R109 to R111, R116 to R118). -/

section
namespace Sys2Proof.Machine

open Sys2Proof.Claim

/-! ### A change of every tile -/

/-- A change of every listed value, the key kept, reads as the change of what was read, where the default stays one. -/
theorem SMap.get_map {α β : Type} (d : α) (d' : β) (g : Nat → α → β) (m : SMap α) (k : Nat) (h : g k d = d') :
    SMap.get d' (m.map fun e => (e.1, g e.1 e.2)) k = g k (SMap.get d m k) := by
  induction m with
  | nil => exact h.symm
  | cons e m ih =>
    rw [List.map_cons, SMap.get, SMap.get]
    split
    · next he => rw [he]
    · exact ih

theorem tile_mapTiles (s : State) (f : Nat → Tile → Tile) (n : Nat) (h : f n Tile.zero = Tile.zero) :
    (s.mapTiles f).tile n = f n (s.tile n) := SMap.get_map _ _ f s.tiles n h

/-- A thread with its count cleared, past the boundary. -/
def Thread.begun (th : Thread) : Thread := { th with count := 0, st := pastBoundary th.st }

theorem sameRegs_begun (th : Thread) : SameRegs th.begun th := ⟨rfl, rfl, rfl, rfl, rfl, rfl, rfl, rfl, rfl, rfl, rfl⟩

theorem sameRegs_refl (th : Thread) : SameRegs th th := ⟨rfl, rfl, rfl, rfl, rfl, rfl, rfl, rfl, rfl, rfl, rfl⟩

theorem thread_clearCounts (s : State) (n : Nat) (y : ThreadId) :
    (s.clearCounts n).thread y = if s.partOfTile y.tile = some n then (s.thread y).begun else s.thread y := by
  rw [State.thread, State.clearCounts, tile_mapTiles _ _ _ (ite_self Tile.zero)]
  split
  · exact SMap.get_map _ _ (fun _ => Thread.begun) (s.tile y.tile).slots y.slot rfl
  · rfl

/-- The threads after the counts of a partition are cleared, in the words of the claims. -/
theorem clearCounts_threads (s : State) (n : Nat) (y : ThreadId) :
    SameRegs ((s.clearCounts n).thread y) (s.thread y) ∧ ((s.clearCounts n).thread y).pc = (s.thread y).pc ∧
      (s.partOfTile y.tile ≠ some n → ((s.clearCounts n).thread y).st = (s.thread y).st) ∧
      (s.partOfTile y.tile = some n → ((s.clearCounts n).thread y).count = 0 ∧
        ((s.clearCounts n).thread y).st = pastBoundary (s.thread y).st) := by
  rw [thread_clearCounts]
  by_cases h : s.partOfTile y.tile = some n
  · rw [if_pos h]
    exact ⟨sameRegs_begun _, rfl, fun hn => absurd h hn, fun _ => ⟨rfl, rfl⟩⟩
  · rw [if_neg h]
    exact ⟨sameRegs_refl _, rfl, fun _ => rfl, fun hn => absurd hn h⟩

/-! ### Events put into the agenda -/

/-- `t` is `s` but for the agenda. -/
def OnlyAgenda (s t : State) : Prop := t = { s with agenda := t.agenda, nextId := t.nextId }

theorem OnlyAgenda.trans {s t u : State} (h : OnlyAgenda s t) (k : OnlyAgenda t u) : OnlyAgenda s u := by
  unfold OnlyAgenda at h k
  rw [k, h]
  rfl

theorem OnlyAgenda.part {s t : State} (h : OnlyAgenda s t) (n : Nat) : t.part n = s.part n := by rw [h]; rfl
theorem OnlyAgenda.thread {s t : State} (h : OnlyAgenda s t) (y : ThreadId) : t.thread y = s.thread y := by rw [h]; rfl
theorem OnlyAgenda.byte {s t : State} (h : OnlyAgenda s t) (c : Nat) : t.byte c = s.byte c := by rw [h]; rfl
theorem OnlyAgenda.stray {s t : State} (h : OnlyAgenda s t) : t.stray = s.stray := by rw [h]

theorem postOnce_onlyAgenda (s : State) (e : Instr) : OnlyAgenda s (s.postOnce e) := by
  unfold State.postOnce
  split <;> rfl

theorem postAll_onlyAgenda (s : State) (es : List Instr) : OnlyAgenda s (s.postAll es) :=
  foldl_keeps (OnlyAgenda s) State.post es s rfl fun _ _ _ ht => ht.trans rfl

/-- An event that is put in, or waits there already, is in the agenda. -/
theorem postOnce_posts (s : State) (e : Instr) : (s.postOnce e).agenda.any (fun q => q.ev == e) = true := by
  unfold State.postOnce
  split
  · assumption
  · simp [State.post, State.postAt]

/-! ### The partitions after a store -/

/-- A partition that differs at most in the wakes it keeps. -/
def OnlyWakes (p q : Partition) : Prop := q = { p with hold := q.hold, wakes := q.wakes }

theorem OnlyWakes.refl (p : Partition) : OnlyWakes p p := rfl

theorem OnlyWakes.trans {p q r : Partition} (h : OnlyWakes p q) (k : OnlyWakes q r) : OnlyWakes p r := by
  unfold OnlyWakes at h k
  rw [k, h]
  rfl

theorem modPart_onlyWakes (s : State) (n m : Nat) (f : Partition → Partition) (h : ∀ p, OnlyWakes p (f p)) :
    OnlyWakes (s.part n) ((s.modPart m f).part n) := by
  rw [State.part_modPart]
  split
  · next e =>
    have hp : s.part n = s.part m := by simp only [State.part, e]
    rw [hp]
    exact h _
  · exact .refl _

theorem wake_onlyWakes (s : State) (x : ThreadId) (n : Nat) : OnlyWakes (s.part n) ((s.wake x).part n) := by
  unfold State.wake
  extract_lets m p late s'
  split
  · exact modPart_onlyWakes s' n m _ fun _ => rfl
  · split
    · exact modPart_onlyWakes s' n m _ fun _ => rfl
    · rw [(postOnce_onlyAgenda s' _).part]
      exact .refl _

theorem hitMonitors_onlyWakes (s : State) (ls : List Nat) (n : Nat) :
    OnlyWakes (s.part n) ((s.hitMonitors ls).part n) := by
  refine foldl_keeps (fun t : State => OnlyWakes (s.part n) (t.part n)) _ _ s (.refl _) fun t x _ ht => ?_
  dsimp only
  split
  · split
    · exact ht.trans (wake_onlyWakes _ x n)
    · exact ht
  · exact ht

theorem storeCells_onlyWakes (s : State) (tag : Tag) (bs : List (Nat × Byte)) (n : Nat) :
    OnlyWakes (s.part n) ((s.storeCells tag bs).part n) := by
  refine OnlyWakes.trans ?_ (hitMonitors_onlyWakes _ _ n)
  refine foldl_keeps (fun t : State => OnlyWakes (s.part n) (t.part n)) _ bs s (.refl _) fun t cb _ ht => ?_
  rw [store1_rest]
  exact ht

/-! ### A record of the log -/

/-- The two dwords of a record. -/
theorem here_split {c n m : Nat} (h : Here (cellsFrom c (n + m))) :
    Here (cellsFrom c n) ∧ Here (cellsFrom (c + n) m) := by
  simp only [Here, cellsFrom, List.mem_map, List.mem_range, forall_exists_index, and_imp] at h ⊢
  exact ⟨fun a i hi ha => h a i (by omega) ha, fun a i hi ha => h a (n + i) (by omega) (by omega)⟩

theorem write64_stray (s : State) (tag : Tag) (c : Nat) (v : Word) (h : Here (cellsFrom c 8)) :
    (s.write64 tag c v).stray = s.stray := storeCells_stray _ _ _ (here_zip h _)

theorem putLog_stray (s : State) (n : Nat) (r : LogRec)
    (h : Here (cellsFrom (rlogAt (s.part n) (s.part n).rlogHead) 16)) : (s.putLog n r).stray = s.stray := by
  obtain ⟨hlo, hhi⟩ := here_split (n := 8) (m := 8) h
  exact (write64_stray _ _ _ _ hhi).trans (write64_stray _ _ _ _ hlo)

theorem putLog_rlogHead (s : State) (n : Nat) (r : LogRec) :
    ((s.putLog n r).part n).rlogHead = ((s.part n).rlogHead + 1) % 2 ^ 32 := by
  unfold State.putLog
  extract_lets p at_ lo t
  have ht : (t.part n).rlogHead = (s.part n).rlogHead := by
    have hw : OnlyWakes (s.part n) (t.part n) := (storeCells_onlyWakes ..).trans (storeCells_onlyWakes ..)
    rw [hw]
  rw [State.part_modPart_self, ht]

/-- Outside a record's cells its writing changes no byte. -/
theorem putLog_byte_outside (s : State) (n : Nat) (r : LogRec) (c : Nat)
    (h : c < rlogAt (s.part n) (s.part n).rlogHead ∨ rlogAt (s.part n) (s.part n).rlogHead + 16 ≤ c) :
    (s.putLog n r).byte c = s.byte c := by
  refine (writeN_byte _ _ _ _ _ c).trans ((if_neg (by omega)).trans ?_)
  exact (writeN_byte _ _ _ _ _ c).trans (if_neg (by omega))

/-- The first byte of a record is its kind (R115). -/
theorem putLog_byte_kind (s : State) (n : Nat) (r : LogRec) :
    (s.putLog n r).byte (rlogAt (s.part n) (s.part n).rlogHead) = BitVec.ofNat 8 r.kind := by
  refine (writeN_byte _ _ _ _ _ _).trans ((if_neg (by omega)).trans ?_)
  refine (writeN_byte _ _ _ _ _ _).trans ((if_pos (by omega)).trans ?_)
  rw [Nat.sub_self, Nat.mul_zero, Nat.pow_zero, Nat.div_one, BitVec.toNat_ofNat]
  refine BitVec.eq_of_toNat_eq ?_
  rw [BitVec.toNat_ofNat, BitVec.toNat_ofNat]
  omega

/-! ### The steps of a boundary -/

theorem exec_boundaryService_first {s : State} {n : Nat} (h : (s.part n).boundary = some 1) :
    exec (.boundaryService n) s =
      ends (((if (s.part n).mode = 1 then (s.serviceStep n).decideStep n
        else (s.modPart n fun p => { p with wakes := [] }).postAll ((s.part n).wakes.map Instr.wakeArrival)).modPart n
          fun p => { p with boundary := some 2 }).postOnce (.boundaryService n)) := by
  show execBoundaryService n s = _
  rw [execBoundaryService, h]
  rfl

theorem exec_boundaryService_second {s : State} {n : Nat} (h : (s.part n).boundary = some 2)
    (hp : (s.part n).rlogPaused = false) :
    exec (.boundaryService n) s =
      if (s.part n).rlogState = 1 ∧ rlogFull (s.part n) = true then ends (s.pauseStep n)
      else if (s.part n).rlogState = 2 && ((s.part n).halted || (s.part n).rlogDiv || !(s.owed n).isEmpty) then
        ends (s.haltStep n)
      else ends (s.resumeStep n) := by
  show execBoundaryService n s = _
  simp [execBoundaryService, h, hp]

/-- After its first step a boundary waits for its second, whatever the service has done. -/
theorem first_step_leads_on (u : State) (n : Nat) (hc : Clean u) :
    let t := (u.modPart n fun p => { p with boundary := some 2 }).postOnce (.boundaryService n)
    ends t = .next t ∧ (t.part n).boundary = some 2 ∧ t.agenda.any (fun q => q.ev == .boundaryService n) = true ∧
      (∀ y, t.thread y = u.thread y) ∧ ∀ c, t.byte c = u.byte c := by
  have ha := postOnce_onlyAgenda (u.modPart n fun p => { p with boundary := some 2 }) (.boundaryService n)
  refine ⟨ends_of_clean (ha.stray.trans hc), ?_, postOnce_posts .., ha.thread, ha.byte⟩
  rw [ha.part, State.part_modPart_self]

/-- In deterministic mode with the log off a quantum ends in the clearing of the counts and the next number. -/
theorem resumeStep_log_off {s : State} {n : Nat} (hm : (s.part n).mode = 1) (hq : (s.part n).quanta = true)
    (hl : (s.part n).rlogState = 0) :
    s.resumeStep n =
      (s.clearCounts n).modPart n fun p => { p with qnum := p.qnum + 1, boundary := none, rlogTaken := [] } := by
  have hpart : (s.clearCounts n).part n = s.part n := rfl
  simp [State.resumeStep, State.quantaCheck, State.kick, hpart, hm, hq, hl]

theorem modPart_byte (s : State) (n : Nat) (f : Partition → Partition) (c : Nat) : (s.modPart n f).byte c = s.byte c := rfl

/-- What the end of a quantum with the log off leaves (R109, R110). -/
theorem resumeStep_ends_quantum {s : State} {n : Nat} (hm : (s.part n).mode = 1) (hq : (s.part n).quanta = true)
    (hl : (s.part n).rlogState = 0) :
    (s.resumeStep n).stray = s.stray ∧ ((s.resumeStep n).part n).qnum = (s.part n).qnum + 1 ∧
      ((s.resumeStep n).part n).boundary = none ∧ ((s.resumeStep n).part n).quanta = true ∧
      (∀ y, (s.resumeStep n).thread y = (s.clearCounts n).thread y) ∧ ∀ c, (s.resumeStep n).byte c = s.byte c := by
  have hp := State.part_modPart_self (s.clearCounts n) n
    fun p => { p with qnum := p.qnum + 1, boundary := none, rlogTaken := [] }
  rw [resumeStep_log_off hm hq hl]
  exact ⟨rfl, congrArg Partition.qnum hp, congrArg Partition.boundary hp, (congrArg Partition.quanta hp).trans hq,
    fun _ => rfl, fun _ => rfl⟩

/-- A notice to the host changes the floor die and the agenda alone (R251). -/
theorem notify_frame (s : State) (queue kind launch : Nat) (v : Word) :
    (s.notify queue kind launch v).stray = s.stray ∧
      (∀ n, (s.notify queue kind launch v).part n = s.part n) ∧ ∀ c, (s.notify queue kind launch v).byte c = s.byte c :=
  ⟨(postOnce_onlyAgenda ..).stray, (postOnce_onlyAgenda ..).part, (postOnce_onlyAgenda ..).byte⟩

/-- A full log pauses the partition at its boundary: its last record is the pause's (R115, R116). -/
theorem pauseStep_pauses (s : State) (n : Nat) (hc : Clean s)
    (hh : Here (cellsFrom (rlogAt (s.part n) (s.part n).rlogHead) 16)) :
    ends (s.pauseStep n) = .next (s.pauseStep n) ∧
      ((s.pauseStep n).part n).rlogPaused = true ∧ ((s.pauseStep n).part n).boundary = some 3 ∧
      ((s.pauseStep n).part n).rlogHead = ((s.part n).rlogHead + 1) % 2 ^ 32 ∧
      (s.pauseStep n).byte (rlogAt (s.part n) (s.part n).rlogHead) = 0x0E ∧
      ∀ c, c < rlogAt (s.part n) (s.part n).rlogHead ∨ rlogAt (s.part n) (s.part n).rlogHead + 16 ≤ c →
        (s.pauseStep n).byte c = s.byte c := by
  unfold State.pauseStep
  extract_lets h
  generalize hr : partRec 0x0E h = r
  obtain ⟨hst, hp, hb⟩ := notify_frame
    ((s.putLog n r).modPart n fun p => { p with rlogPaused := true, boundary := some 3 }) n 2 0 h
  refine ⟨ends_of_clean ?_, ?_, ?_, ?_, ?_, fun c hout => ?_⟩
  · rw [hst, State.modPart_stray, putLog_stray s n r hh, hc]
  · rw [hp, State.part_modPart_self]
  · rw [hp, State.part_modPart_self]
  · rw [hp, State.part_modPart_self]
    exact putLog_rlogHead s n r
  · rw [hb, modPart_byte, putLog_byte_kind, ← hr]
    rfl
  · rw [hb, modPart_byte, putLog_byte_outside s n r c hout]

/-! ### Arrival, and the registers of the log -/

theorem thread_modTile_arrived (s : State) (m : Nat) (y : ThreadId) :
    (s.modTile m fun ti => { ti with arrived := true }).thread y = s.thread y := by
  rw [State.thread, State.tile_modTile]
  split
  · next e => rw [State.thread, e]; rfl
  · rfl

/-- A write of DIV clears the mark, ends the halt where the log is off, and lets a halted boundary look again (R117). -/
theorem rlogDivClear_onlyAgenda (s : State) (n : Nat) :
    OnlyAgenda (s.modPart n fun p => { p with rlogDiv := false, halted := p.halted && p.rlogState ≠ 0 })
      (s.rlogDivClear n) := by
  unfold State.rlogDivClear
  extract_lets p t
  split
  · exact postOnce_onlyAgenda ..
  · rfl

/-! ### The obligation -/

/-- Settles O40, event by event, with the steps of a boundary by what it stands at. -/
theorem quantaRun : Obligations.QuantaRun := by
  refine ⟨fun s => ?quantaBegin, fun s m => ?arrival, fun s n => ?boundary, fun s => ?registers⟩
  case quantaBegin =>
    have hp := State.part_modPart_self (s.clearCounts s.myPart) s.myPart
      fun p => { p with quanta := true, qnum := 0, boundary := none, rlogTaken := [] }
    exact ⟨s.quantaBegin s.myPart, rfl, congrArg Partition.quanta hp, congrArg Partition.qnum hp,
      congrArg Partition.boundary hp, clearCounts_threads s s.myPart, fun _ => rfl⟩
  case arrival =>
    refine ⟨fun h => ⟨s.modTile m fun ti => { ti with arrived := true }, ?_, ?_, fun j hj => ?_,
      thread_modTile_arrived s m⟩, fun h => ?_⟩
    · exact congrArg Host.Outcome.next (if_pos h)
    · rw [State.tile_modTile_self]
    · rw [State.tile_modTile, if_neg hj]
    · exact congrArg Host.Outcome.next (if_neg (Bool.eq_false_iff.mp h))
  case boundary =>
    refine ⟨fun h => ?begins, fun h => ?waits, fun h => ?none, fun hb hm hc => ?ordinary, fun hb hm hc => ?deterministic,
      fun hb hm hq hl hp hc => ?ends, fun hb hp hl hf hc hh => ?pauses⟩
    case begins =>
      have hp := State.part_modPart_self s n fun p => { p with boundary := some 1 }
      refine ⟨(s.modPart n fun p => { p with boundary := some 1 }).postIn 40 (.boundaryService n), ?_, ?_, ?_, fun _ => rfl⟩
      · show execBoundaryBegin n s = _
        rw [execBoundaryBegin, h]
        rfl
      · exact congrArg Partition.boundary hp
      · exact List.map_append
    case waits =>
      show execBoundaryBegin n s = _
      rw [execBoundaryBegin, h]
      rfl
    case none =>
      show execBoundaryService n s = _
      rw [execBoundaryService, h]
    case ordinary =>
      have ha := postAll_onlyAgenda (s.modPart n fun p => { p with wakes := [] }) ((s.part n).wakes.map Instr.wakeArrival)
      obtain ⟨hn, hb2, hposted, hth, hby⟩ := first_step_leads_on _ n (ha.stray.trans hc)
      rw [exec_boundaryService_first hb, if_neg hm]
      exact ⟨_, hn, hb2, hposted, fun y => (hth y).trans (ha.thread y), fun c => (hby c).trans (ha.byte c)⟩
    case deterministic =>
      obtain ⟨hn, hb2, hposted, -⟩ := first_step_leads_on _ n hc
      rw [exec_boundaryService_first hb, if_pos hm]
      exact ⟨_, hn, hb2, hposted⟩
    case ends =>
      obtain ⟨hst, hnum, hnone, hquanta, hth, hby⟩ := resumeStep_ends_quantum hm hq hl
      rw [exec_boundaryService_second hb hp, hl]
      refine ⟨_, ends_of_clean (hst.trans hc), hnum, hnone, hquanta, fun y => ?_, hby⟩
      obtain ⟨hregs, -, -, hcount⟩ := clearCounts_threads s n y
      rw [hth]
      exact ⟨hregs, fun hy => (hcount hy).1⟩
    case pauses =>
      obtain ⟨hn, hrest⟩ := pauseStep_pauses s n hc hh
      rw [exec_boundaryService_second hb hp, if_pos ⟨hl, hf⟩]
      exact ⟨_, hn, hrest⟩
  case registers =>
    refine ⟨fun hp hh hf => ?resumes, fun h => ?stays, ?divClear, rfl⟩
    case resumes =>
      let u := s.modPart s.myPart fun p => { p with rlogPaused := false }
      have ha := postOnce_onlyAgenda u (.boundaryService s.myPart)
      refine ⟨u.postOnce (.boundaryService s.myPart), ?_, ?_, postOnce_posts .., ha.thread⟩
      · exact congrArg Host.Outcome.next (if_neg (by simp [hp, hh, hf]))
      · rw [ha.part, State.part_modPart_self]
    case stays =>
      refine congrArg Host.Outcome.next (if_pos ?_)
      rcases h with h | h | h <;> simp [h]
    case divClear =>
      have ha := rlogDivClear_onlyAgenda s s.myPart
      refine ⟨s.rlogDivClear s.myPart, rfl, ?_, ?_, fun hh => ?_, ha.thread, ha.byte⟩
      · rw [ha.part, State.part_modPart_self]
      · rw [ha.part, State.part_modPart_self]
      · exact (congrArg (fun t : State => t.agenda.any _) (if_pos hh)).trans (postOnce_posts ..)

end Sys2Proof.Machine
end
